-- ==== Sys2Proof/Word.lean ====
section
/-! DEFINITION. The identifiers and plain words of the HM-840 (00_scope.md, Terms and Conventions), and the two
operations by which fixed tables of records are built and written. -/

namespace Sys2Proof

/-- A byte of a port frame, a poll or a reply. -/
abbrev Byte := BitVec 8

/-- A 24-bit two's complement audio sample (00_scope.md, Numbers). -/
abbrev Sample := BitVec 24

/-- A segment S0 to S7. A room is named by its room id, the lowest segment of the room. -/
abbrev SegId := Fin 8

/-- A wall position W0 to W11. -/
abbrev WallId := Fin 12

/-- A delegate trunk T0 to T3. -/
abbrev TrunkId := Fin 4

/-- A unit address 1 to 60, held as its distance from address 1. -/
abbrev AddrIx := Fin 60

/-- A speech slot 0 to 7 of one trunk. -/
abbrev SlotIx := Fin 8

/-- A booth B0 to B11. -/
abbrev BoothId := Fin 12

/-- A control port P0 to P3. -/
abbrev PortId := Fin 4

/-- A set of segments, bit s standing for segment s (9.2.1: "A set of segments takes one byte"). -/
abbrev SegSet := BitVec 8

/-- A sequence stamp: a value of the 32-bit sequence counter (R73). -/
abbrev Stamp := BitVec 32

/-- A delegate unit, named by trunk and address. -/
structure UnitId where
  trunk : TrunkId
  addr  : AddrIx
  deriving DecidableEq, Repr

/-- One speech slot of one trunk: the place of a speaking entry (R100). -/
structure SlotRef where
  trunk : TrunkId
  slot  : SlotIx
  deriving DecidableEq, Repr

/-- The table whose record at `i` is `f i`. -/
def tab {α : Type} {n : Nat} (f : Fin n → α) : Vector α n :=
  ⟨(List.ofFn f).toArray, by simp⟩

/-- The table `v` with the record at `i` replaced. -/
def put {α : Type} {n : Nat} (v : Vector α n) (i : Fin n) (x : α) : Vector α n :=
  v.set i.val x i.isLt

end Sys2Proof
end

