-- ==== Sys2Proof/Syntax.lean ====
section
/-! DEFINITION. The commands of the HM-840: one constructor per row of spec/opcode_table.json. A row is either an
EVENT of the part (a contact, a timer, a trunk line, the word clock) or a COMMAND FRAME taken at a control port;
a command frame carries its port, its tag and its payload bytes as Table 9-1 has them, so that every payload a
controller can send, well formed or not, is an operand (R171, step 4). -/

namespace Sys2Proof

/-- The input pins read at the end of a full reset: the contact pairs (closed contact made, stowed contact made) of
the twelve wall positions (R1, R2), the trunk sense lines (R49) and the role straps (R168). -/
structure Pins where
  contacts : Vector (Bool × Bool) 12
  sense    : Vector Bool 4
  straps   : Vector (BitVec 2) 4
  deriving DecidableEq, Repr

/-- The samples that arrive with one word-clock period: what the line of each trunk carries in each slot (R66) and
the booth voices of the serial audio input link (R162). -/
structure AudioIn where
  slots  : Vector (Vector Sample 8) 4
  voices : Vector Sample 12
  deriving DecidableEq, Repr

/-- The commands and events of the part. -/
inductive Instr where
  /-- Power-on or the reset pin, with the pins as they read at the end of the reset. -/
  | fullReset (pins : Pins)
  /-- The contacts of a wall position now read as given (made = true). -/
  | contactEvent (w : WallId) (closed stowed : Bool)
  | settleTimerExpiry (w : WallId)
  | stuckTimerExpiry (w : WallId)
  | deadlineExpiry
  | mixBlockStart
  /-- The ramp of the entry that holds this slot has mixed its last sample. -/
  | rampEnd (t : TrunkId) (k : SlotIx)
  | mixBlockEnd
  /-- The sense line of a trunk now reports a chain, or none. -/
  | senseLineChange (t : TrunkId) (chain : Bool)
  | overcurrent (t : TrunkId)
  | pollRoundStart (t : TrunkId)
  /-- The bytes received from the start marker on, within the reply window of the poll awaited; none when the
  window closed without one. -/
  | pollReply (t : TrunkId) (rx : List Byte)
  | roundEnd (t : TrunkId)
  | confirmationCountExpiry (u : UnitId)
  | handOverTaken (t : TrunkId)
  | speakLimitWarning (u : UnitId)
  | speakLimitExpiry (u : UnitId)
  | idleTimerExpiry (room : SegId)
  | attentionPulseEnd (p : PortId)
  /-- A frame that failed the checks of R170; the tag when its byte was received. -/
  | failedFrame (p : PortId) (tag : Option Byte)
  | unknownCommand (p : PortId) (code tag : Byte) (payload : List Byte)
  | defineWall (p : PortId) (tag : Byte) (payload : List Byte)
  | wallOverride (p : PortId) (tag : Byte) (payload : List Byte)
  | lockWalls (p : PortId) (tag : Byte) (payload : List Byte)
  | setSegmentDefaults (p : PortId) (tag : Byte) (payload : List Byte)
  | setLeadRank (p : PortId) (tag : Byte) (payload : List Byte)
  | setRegroupTimes (p : PortId) (tag : Byte) (payload : List Byte)
  | forceRegroup (p : PortId) (tag : Byte) (payload : List Byte)
  | assignScope (p : PortId) (tag : Byte) (payload : List Byte)
  | setUnit (p : PortId) (tag : Byte) (payload : List Byte)
  | trunkPower (p : PortId) (tag : Byte) (payload : List Byte)
  | setRollcall (p : PortId) (tag : Byte) (payload : List Byte)
  | setRadiators (p : PortId) (tag : Byte) (payload : List Byte)
  | reinit (p : PortId) (tag : Byte) (payload : List Byte)
  | claimSegments (p : PortId) (tag : Byte) (payload : List Byte)
  | releaseSegments (p : PortId) (tag : Byte) (payload : List Byte)
  | setRoom (p : PortId) (tag : Byte) (payload : List Byte)
  | setWindow (p : PortId) (tag : Byte) (payload : List Byte)
  | grant (p : PortId) (tag : Byte) (payload : List Byte)
  | grantNext (p : PortId) (tag : Byte) (payload : List Byte)
  | drop (p : PortId) (tag : Byte) (payload : List Byte)
  | cancelRequest (p : PortId) (tag : Byte) (payload : List Byte)
  | elevate (p : PortId) (tag : Byte) (payload : List Byte)
  | allOff (p : PortId) (tag : Byte) (payload : List Byte)
  | stageGain (p : PortId) (tag : Byte) (payload : List Byte)
  | applyGains (p : PortId) (tag : Byte) (payload : List Byte)
  | regroupAnswer (p : PortId) (tag : Byte) (payload : List Byte)
  | defineBooth (p : PortId) (tag : Byte) (payload : List Byte)
  | boothState (p : PortId) (tag : Byte) (payload : List Byte)
  | boothOutput (p : PortId) (tag : Byte) (payload : List Byte)
  | boothMic (p : PortId) (tag : Byte) (payload : List Byte)
  | boothGain (p : PortId) (tag : Byte) (payload : List Byte)
  | pinSource (p : PortId) (tag : Byte) (payload : List Byte)
  | unpinSource (p : PortId) (tag : Byte) (payload : List Byte)
  | readWalls (p : PortId) (tag : Byte) (payload : List Byte)
  | readRegroup (p : PortId) (tag : Byte) (payload : List Byte)
  | readRoom (p : PortId) (tag : Byte) (payload : List Byte)
  | readQueue (p : PortId) (tag : Byte) (payload : List Byte)
  | readUnit (p : PortId) (tag : Byte) (payload : List Byte)
  | readBooth (p : PortId) (tag : Byte) (payload : List Byte)
  | readTrunk (p : PortId) (tag : Byte) (payload : List Byte)
  | readFlags (p : PortId) (tag : Byte) (payload : List Byte)
  | ackFlags (p : PortId) (tag : Byte) (payload : List Byte)
  | setAttention (p : PortId) (tag : Byte) (payload : List Byte)
  | linkReset (p : PortId) (tag : Byte) (payload : List Byte)
  /-- One word-clock period with the samples it carries. -/
  | wordClockPeriod (x : AudioIn)
  | pollSend (t : TrunkId)
  deriving DecidableEq, Repr

end Sys2Proof
end

