-- ==== Sys2Proof/WellFormed.lean ====
section
/-! DEFINITION. What a command term must satisfy to be one that the part's inputs can deliver: a payload fits the
one-byte length field of Table 9-1, an unknown command's code is one Table 9-4 does not list, and a reply is at most
the seven bytes of Table 3-2. -/

namespace Sys2Proof

/-- The command codes of Table 9-4. -/
def knownCodes : List Nat :=
  [0x10, 0x11, 0x12, 0x13, 0x14, 0x15, 0x16, 0x17, 0x18, 0x19, 0x1A, 0x1B, 0x1C,
   0x20, 0x21, 0x22, 0x23, 0x24, 0x25, 0x26, 0x27, 0x28, 0x29, 0x2A, 0x2B, 0x2C,
   0x30, 0x31, 0x32, 0x33, 0x34, 0x35, 0x36,
   0x40, 0x41, 0x42, 0x43, 0x44, 0x45, 0x46, 0x47, 0x48, 0x49, 0x4A]

/-- A payload fits its length byte (Table 9-1: p is 0 to 255). -/
def payloadFits (l : List Byte) : Bool := l.length ≤ 255

/-- The payload a command frame carries; none for an event. -/
def Instr.payload? : Instr → Option (List Byte)
  | .fullReset _ => none
  | .contactEvent _ _ _ => none
  | .settleTimerExpiry _ => none
  | .stuckTimerExpiry _ => none
  | .deadlineExpiry => none
  | .mixBlockStart => none
  | .rampEnd _ _ => none
  | .mixBlockEnd => none
  | .senseLineChange _ _ => none
  | .overcurrent _ => none
  | .pollRoundStart _ => none
  | .pollReply _ _ => none
  | .roundEnd _ => none
  | .confirmationCountExpiry _ => none
  | .handOverTaken _ => none
  | .speakLimitWarning _ => none
  | .speakLimitExpiry _ => none
  | .idleTimerExpiry _ => none
  | .attentionPulseEnd _ => none
  | .failedFrame _ _ => none
  | .unknownCommand _ _ _ l => some l
  | .defineWall _ _ l => some l
  | .wallOverride _ _ l => some l
  | .lockWalls _ _ l => some l
  | .setSegmentDefaults _ _ l => some l
  | .setLeadRank _ _ l => some l
  | .setRegroupTimes _ _ l => some l
  | .forceRegroup _ _ l => some l
  | .assignScope _ _ l => some l
  | .setUnit _ _ l => some l
  | .trunkPower _ _ l => some l
  | .setRollcall _ _ l => some l
  | .setRadiators _ _ l => some l
  | .reinit _ _ l => some l
  | .claimSegments _ _ l => some l
  | .releaseSegments _ _ l => some l
  | .setRoom _ _ l => some l
  | .setWindow _ _ l => some l
  | .grant _ _ l => some l
  | .grantNext _ _ l => some l
  | .drop _ _ l => some l
  | .cancelRequest _ _ l => some l
  | .elevate _ _ l => some l
  | .allOff _ _ l => some l
  | .stageGain _ _ l => some l
  | .applyGains _ _ l => some l
  | .regroupAnswer _ _ l => some l
  | .defineBooth _ _ l => some l
  | .boothState _ _ l => some l
  | .boothOutput _ _ l => some l
  | .boothMic _ _ l => some l
  | .boothGain _ _ l => some l
  | .pinSource _ _ l => some l
  | .unpinSource _ _ l => some l
  | .readWalls _ _ l => some l
  | .readRegroup _ _ l => some l
  | .readRoom _ _ l => some l
  | .readQueue _ _ l => some l
  | .readUnit _ _ l => some l
  | .readBooth _ _ l => some l
  | .readTrunk _ _ l => some l
  | .readFlags _ _ l => some l
  | .ackFlags _ _ l => some l
  | .setAttention _ _ l => some l
  | .linkReset _ _ l => some l
  | .wordClockPeriod _ => none
  | .pollSend _ => none

/-- An unknown command's code is neither 00 (no command) nor a code of Table 9-4 (R169, R171). -/
def Instr.codeOk : Instr → Bool
  | .unknownCommand _ c _ _ => c.toNat ≠ 0 && !knownCodes.contains c.toNat
  | _ => true

/-- A reply is at most seven bytes (Table 3-2). DESIGN CHOICE: longer ones are ill-formed (log entry 27). -/
def Instr.replyOk : Instr → Bool
  | .pollReply _ rx => rx.length ≤ 7
  | _ => true

/-- The command is one the part's inputs can deliver. -/
def Instr.wellFormed (i : Instr) : Bool :=
  (match i.payload? with | some l => payloadFits l | none => true) && i.codeOk && i.replyOk

end Sys2Proof
end

