-- ==== Sys2Proof/Decode.lean ====
section
/-! DEFINITION. From received bytes to commands. spec/opcode_table.json gives no row any bits, so `decodeTableWord`
answers none. The frames of Table 9-1 do carry the command frames' codes: `decodeFrame` is what a port makes of the
bytes of one transaction (R169, R170), and `encodeFrame` is the frame of a command, from the same tables. -/

namespace Sys2Proof

/-- The command a table word spells. No row of the table gives bits: none. -/
def decodeTableWord (_nbits _w : Nat) : Option Instr := none

/-- The frame check of Tables 9-1 and 9-2: the sum of the bytes, each taken as 0 to 255, modulo 65536. -/
def frameSum (l : List Byte) : Nat := (l.foldl (fun n b => n + b.toNat) 0) % 65536

/-- The two check bytes, high byte first (Table 9-1). -/
def checkBytes (l : List Byte) : List Byte :=
  [BitVec.ofNat 8 (frameSum l / 256), BitVec.ofNat 8 (frameSum l % 256)]

/-- Table 9-4: the command of a code, taken at a port with a tag and a payload. -/
def commandOf (code : Nat) : Option (PortId → Byte → List Byte → Instr) :=
  match code with
  | 0x10 => some .defineWall
  | 0x11 => some .wallOverride
  | 0x12 => some .lockWalls
  | 0x13 => some .setSegmentDefaults
  | 0x14 => some .setLeadRank
  | 0x15 => some .setRegroupTimes
  | 0x16 => some .forceRegroup
  | 0x17 => some .assignScope
  | 0x18 => some .setUnit
  | 0x19 => some .trunkPower
  | 0x1A => some .setRollcall
  | 0x1B => some .setRadiators
  | 0x1C => some .reinit
  | 0x20 => some .claimSegments
  | 0x21 => some .releaseSegments
  | 0x22 => some .setRoom
  | 0x23 => some .setWindow
  | 0x24 => some .grant
  | 0x25 => some .grantNext
  | 0x26 => some .drop
  | 0x27 => some .cancelRequest
  | 0x28 => some .elevate
  | 0x29 => some .allOff
  | 0x2A => some .stageGain
  | 0x2B => some .applyGains
  | 0x2C => some .regroupAnswer
  | 0x30 => some .defineBooth
  | 0x31 => some .boothState
  | 0x32 => some .boothOutput
  | 0x33 => some .boothMic
  | 0x34 => some .boothGain
  | 0x35 => some .pinSource
  | 0x36 => some .unpinSource
  | 0x40 => some .readWalls
  | 0x41 => some .readRegroup
  | 0x42 => some .readRoom
  | 0x43 => some .readQueue
  | 0x44 => some .readUnit
  | 0x45 => some .readBooth
  | 0x46 => some .readTrunk
  | 0x47 => some .readFlags
  | 0x48 => some .ackFlags
  | 0x49 => some .setAttention
  | 0x4A => some .linkReset
  | _ => none

/-- What a port takes from the bytes shifted in during one transaction (R169, R170): nothing for no byte or a first
byte of 00; a failed frame when the transaction ends before the last check byte or the check does not match; a
command of Table 9-4; or an unknown command. Bytes beyond the end of the frame are ignored. -/
def decodeFrame (p : PortId) (rx : List Byte) : Option Instr :=
  match rx with
  | [] => none
  | code :: rest =>
    if code = 0 then none
    else match rest with
      | [] => some (.failedFrame p none)
      | [tag] => some (.failedFrame p (some tag))
      | tag :: len :: body =>
        let payload := body.take len.toNat
        if body.length < len.toNat + 2
            || (body.drop len.toNat).take 2 ≠ checkBytes (code :: tag :: len :: payload) then
          some (.failedFrame p (some tag))
        else match commandOf code.toNat with
          | some c => some (c p tag payload)
          | none => some (.unknownCommand p code tag payload)

/-- The port, code, tag and payload of a command frame; none for an event and for a failed frame. -/
def frameParts : Instr → Option (PortId × Byte × Byte × List Byte)
  | .fullReset _ => none
  | .contactEvent _ _ _ => none
  | .settleTimerExpiry _ => none
  | .stuckTimerExpiry _ => none
  | .deadlineExpiry => none
  | .mixBlockStart => none
  | .rampEnd _ _ => none
  | .mixBlockEnd => none
  | .senseLineChange _ _ => none
  | .overcurrent _ => none
  | .pollRoundStart _ => none
  | .pollReply _ _ => none
  | .roundEnd _ => none
  | .confirmationCountExpiry _ => none
  | .handOverTaken _ => none
  | .speakLimitWarning _ => none
  | .speakLimitExpiry _ => none
  | .idleTimerExpiry _ => none
  | .attentionPulseEnd _ => none
  | .failedFrame _ _ => none
  | .unknownCommand p c t l => some (p, c, t, l)
  | .defineWall p t l => some (p, 0x10, t, l)
  | .wallOverride p t l => some (p, 0x11, t, l)
  | .lockWalls p t l => some (p, 0x12, t, l)
  | .setSegmentDefaults p t l => some (p, 0x13, t, l)
  | .setLeadRank p t l => some (p, 0x14, t, l)
  | .setRegroupTimes p t l => some (p, 0x15, t, l)
  | .forceRegroup p t l => some (p, 0x16, t, l)
  | .assignScope p t l => some (p, 0x17, t, l)
  | .setUnit p t l => some (p, 0x18, t, l)
  | .trunkPower p t l => some (p, 0x19, t, l)
  | .setRollcall p t l => some (p, 0x1A, t, l)
  | .setRadiators p t l => some (p, 0x1B, t, l)
  | .reinit p t l => some (p, 0x1C, t, l)
  | .claimSegments p t l => some (p, 0x20, t, l)
  | .releaseSegments p t l => some (p, 0x21, t, l)
  | .setRoom p t l => some (p, 0x22, t, l)
  | .setWindow p t l => some (p, 0x23, t, l)
  | .grant p t l => some (p, 0x24, t, l)
  | .grantNext p t l => some (p, 0x25, t, l)
  | .drop p t l => some (p, 0x26, t, l)
  | .cancelRequest p t l => some (p, 0x27, t, l)
  | .elevate p t l => some (p, 0x28, t, l)
  | .allOff p t l => some (p, 0x29, t, l)
  | .stageGain p t l => some (p, 0x2A, t, l)
  | .applyGains p t l => some (p, 0x2B, t, l)
  | .regroupAnswer p t l => some (p, 0x2C, t, l)
  | .defineBooth p t l => some (p, 0x30, t, l)
  | .boothState p t l => some (p, 0x31, t, l)
  | .boothOutput p t l => some (p, 0x32, t, l)
  | .boothMic p t l => some (p, 0x33, t, l)
  | .boothGain p t l => some (p, 0x34, t, l)
  | .pinSource p t l => some (p, 0x35, t, l)
  | .unpinSource p t l => some (p, 0x36, t, l)
  | .readWalls p t l => some (p, 0x40, t, l)
  | .readRegroup p t l => some (p, 0x41, t, l)
  | .readRoom p t l => some (p, 0x42, t, l)
  | .readQueue p t l => some (p, 0x43, t, l)
  | .readUnit p t l => some (p, 0x44, t, l)
  | .readBooth p t l => some (p, 0x45, t, l)
  | .readTrunk p t l => some (p, 0x46, t, l)
  | .readFlags p t l => some (p, 0x47, t, l)
  | .ackFlags p t l => some (p, 0x48, t, l)
  | .setAttention p t l => some (p, 0x49, t, l)
  | .linkReset p t l => some (p, 0x4A, t, l)
  | .wordClockPeriod _ => none
  | .pollSend _ => none

/-- The bytes of a frame with a code, a tag and a payload (Table 9-1). -/
def frameBytes (code tag : Byte) (payload : List Byte) : List Byte :=
  let body := code :: tag :: BitVec.ofNat 8 payload.length :: payload
  body ++ checkBytes body

/-- The port a command frame is shifted in at, with its bytes. -/
def encodeFrame (i : Instr) : Option (PortId × List Byte) :=
  (frameParts i).map fun (p, c, t, l) => (p, frameBytes c t l)

end Sys2Proof
end

