-- ==== Sys2Proof/Config.lean ====
section
/-! DEFINITION. The fixed quantities the spec gives the part, each with its rule. The spec leaves no quantity to an
implementation, so nothing here is a free value. -/

namespace Sys2Proof.Config

/-- The stuck timer runs 60 s (R3, R5). -/
def stuckMs : Nat := 60000

/-- The request pool holds 96 entries (R73). -/
def poolSize : Nat := 96

/-- Unity gain (00_scope.md, Numbers). -/
def unity : Nat := 16384

/-- The largest gain (00_scope.md, Numbers). -/
def maxGain : Nat := 32767

/-- A staging area holds up to 16 pairs (R164). -/
def stagePairs : Nat := 16

/-- The speak-limit warning is due 30 s before the limit (R94). -/
def warnLead : Nat := 30

/-- A mix block is 48 word-clock periods (R153). -/
def blockLength : Nat := 48

/-- There are 32 distribution channels D0 to D31. -/
def channels : Nat := 32

/-- The start marker of polls and replies (R69, Tables 3-1 and 3-2). -/
def startMarker : Byte := 0xC3

/-- The stop marker of polls and replies (R69). -/
def stopMarker : Byte := 0x3C

end Sys2Proof.Config
end

