-- ==== Sys2Proof/Machine/State.lean ====
section
/-! DEFINITION. The state of the HM-840: every record the spec gives the part, grouped by the blocks that own them
(00_scope.md, Block overview), the queue of waiting commands, and the state after a full reset. All of it is plain
data. Values that the spec defines from others (a unit's floor state, a slot's holder, a room's chair list, the
radiator lines, the attention lines) are functions of this state, in Machine/Ops.lean and Machine/Flags.lean. -/

namespace Sys2Proof.Machine

/-! ## Wall scanner (Chapter 1) -/

/-- A raw reading of a wall's two contacts (R2). -/
inductive Reading where
  | closed | opened | moving | conflict
  deriving DecidableEq, Repr

/-- The settled state of a wall, and its effective state (R1, R7). -/
inductive Settled where
  | closed | opened | fault
  deriving DecidableEq, Repr

/-- A wall's override (R1). -/
inductive Override where
  | follow | forceOpen | forceClosed
  deriving DecidableEq, Repr

/-- The stuck timer: stopped, running with the milliseconds left, or expired (R1). -/
inductive Stuck where
  | stopped | running (ms : Nat) | expired
  deriving DecidableEq, Repr

/-- The record of one wall position (R1). The wall is defined while `pair` is present. -/
structure Wall where
  pair    : Option (SegId × SegId)
  raw     : Reading
  settled : Settled
  ovr     : Override
  /-- The settle timer: none while stopped, else the milliseconds left. -/
  settle  : Option Nat
  stuck   : Stuck
  deriving DecidableEq, Repr

/-- A room's floor mode (R83). -/
inductive Mode where
  | auto | manual | override
  deriving DecidableEq, Repr

/-- The settings of a room record and of a defaults record (R15, R17), in the order of R92. -/
structure Settings where
  mode       : Mode
  openLimit  : Nat
  queueLimit : Nat
  speakLimit : Nat
  vip        : Nat
  langBonus  : Nat
  segBonus   : Nat
  jump       : Nat
  max        : Nat
  guard      : Nat
  duck       : Nat
  gain       : Nat
  ramp       : Nat
  idle       : Nat
  deriving DecidableEq, Repr

/-- The defaults record of a segment (R15). -/
structure Defaults where
  settings  : Settings
  base      : Nat
  size      : Nat
  wanted    : List Nat
  floorLang : Nat
  deriving DecidableEq, Repr

/-- The wall scanner's records (R1, R14, R15). -/
structure Scanner where
  walls      : Vector Wall 12
  lock       : Bool
  settleTime : Nat
  ranks      : Vector Nat 8
  defaults   : Vector Defaults 8
  deriving DecidableEq, Repr

/-! ## Regroup controller (Chapter 2) -/

/-- One room of a map: its segment set, its id and its lead segment (R21). -/
structure MapRoom where
  id   : SegId
  segs : SegSet
  lead : SegId
  deriving DecidableEq, Repr

/-- The regroup controller's state (R23). -/
inductive RegState where
  | steady | settling | consent | drain | commitWait
  deriving DecidableEq, Repr

/-- The regroup record (R23) with the pending map (R22), its rooms in ascending id. -/
structure Regroup where
  state       : RegState
  isOpen      : Bool
  affected    : SegSet
  consent     : List PortId
  holds       : List PortId
  /-- The deadline: none while stopped, else the milliseconds left. -/
  deadline    : Option Nat
  silent      : List PortId
  round       : BitVec 16
  consentSecs : Nat
  holdSecs    : Nat
  pendingMap  : List MapRoom
  deriving DecidableEq, Repr

/-- What the last placement did to a room's window (R139). -/
inductive Placement where
  | asBase | relocated | shrunk | noWindow | moved
  deriving DecidableEq, Repr

/-- A room's staging area: unit and gain pairs, the apply-pending mark and the applied mark (R164). -/
structure Staging where
  pairs   : List (UnitId × Nat)
  pending : Bool
  applied : Bool
  deriving DecidableEq, Repr

/-- The record of an active room (R17), with its placement report (R139) and its staging area (R164). A room is
known by its id, its place in `Hall.rooms`. -/
structure Room where
  segs        : SegSet
  lead        : SegId
  gen         : BitVec 16
  settings    : Settings
  base        : Nat
  size        : Nat
  langs       : List Nat
  placement   : Placement
  dropped     : List Nat
  floorLang   : Nat
  lastSpeaker : Option SegId
  elevated    : Option UnitId
  frozen      : Bool
  dormant     : Bool
  /-- The idle timer: none while stopped, else the milliseconds left. -/
  idle        : Option Nat
  clip        : Nat
  console     : Option PortId
  staging     : Staging
  deriving DecidableEq, Repr

/-! ## Trunk interfaces (Chapter 3) -/

/-- A trunk's power mode (R49). -/
inductive PowerMode where
  | off | on | auto
  deriving DecidableEq, Repr

/-- A trunk's state (R49). -/
inductive TrunkState where
  | unpowered | tripped | up | degraded | down
  deriving DecidableEq, Repr

/-- A floor order to a unit (R55). -/
inductive FloorOrder where
  | grant (slot : SlotIx) | release | deny
  deriving DecidableEq, Repr

/-- A notice order to a unit (R55). -/
inductive Notice where
  | warn | clearWarn
  deriving DecidableEq, Repr

/-- The order a poll carries (R56). -/
inductive Order where
  | floor (o : FloorOrder) | notice (n : Notice)
  deriving DecidableEq, Repr

/-- A poll sent and awaiting its reply: the address, whether it is a probe, and the order it carried. -/
structure Sent where
  addr  : AddrIx
  probe : Bool
  order : Option Order
  deriving DecidableEq, Repr

/-- A poll round in progress (R53): the polls and probes still to send, the poll awaiting its reply, whether a good
reply was received in it (R64), and the addresses to which a GRANT was delivered in it (R62). -/
structure Round where
  todo  : List (AddrIx × Bool)
  sent  : Option Sent
  good  : Bool
  fresh : List AddrIx
  deriving DecidableEq, Repr

/-- A good reply in the hand-over (R58): what the unit reports, with mic-live shown clear where R63 directs, and the
unit's pending floor order as it stood after the reply was taken. -/
structure HandOver where
  addr   : AddrIx
  latch  : Bool
  next   : Bool
  allOff : Bool
  mic    : Option SlotIx
  lang   : Nat
  seat   : SegId
  mark   : Option FloorOrder
  deriving DecidableEq, Repr

/-- A trunk record (R49) with its round in progress, its hand-over and the poll last sent on the line. -/
structure Trunk where
  mode     : PowerMode
  state    : TrunkState
  sense    : Bool
  probes   : Nat
  /-- The roll-call pointer, 0 to 60. -/
  pointer  : Nat
  silent   : Nat
  failures : Nat
  cCheck   : Nat
  cFraming : Nat
  cLate    : Nat
  cOverrun : Nat
  round    : Option Round
  handOver : Option HandOver
  pollOut  : List Byte
  deriving DecidableEq, Repr

/-- The record of one address of a trunk (R49). -/
structure AddrRec where
  miss       : Nat
  floorOrder : Option FloorOrder
  notice     : Option Notice
  lastMic    : Option SlotIx
  stray      : Nat
  confirm    : Option Nat
  deriving DecidableEq, Repr

/-! ## Floor controller and grant arbiter (Chapters 4 and 5) -/

/-- The class of a unit (R70). -/
inductive UnitClass where
  | delegate | vip | chair
  deriving DecidableEq, Repr

/-- The floor state of a unit (R70). -/
inductive FloorState where
  | idle | waiting | granted | opening | opened | closing
  deriving DecidableEq, Repr

/-- The record of a unit (R70). Its floor state is `Hall.floorState`: WAITING while it has a request, its entry's state
while it has an entry, IDLE otherwise. -/
structure UnitRec where
  present  : Bool
  seatOvr  : Option SegId
  reported : Option SegId
  seat     : Option SegId
  cls      : UnitClass
  gain     : Nat
  lang     : Nat
  latch    : Bool
  next     : Bool
  allOff   : Bool
  mic      : Option SlotIx
  warned   : Bool
  deriving DecidableEq, Repr

/-- A request of the pool (R73). -/
structure Request where
  unit     : UnitId
  stamp    : Stamp
  lang     : Nat
  cls      : UnitClass
  score    : Nat
  guard    : Nat
  due      : Bool
  recalled : Bool
  deriving DecidableEq, Repr

/-- A running ramp of an entry: start value, target, length and position (R155). -/
structure Ramp where
  start  : Nat
  target : Nat
  len    : Nat
  pos    : Nat
  deriving DecidableEq, Repr

/-- The state of a speaking entry (R74). -/
inductive EntryState where
  | granted | opening | opened | closing
  deriving DecidableEq, Repr

/-- A speaking entry (R74), held in the slot it holds. `unit` is none once the entry is orphaned (R96). -/
structure Entry where
  unit       : Option AddrIx
  seg        : SegId
  chair      : Bool
  reqStamp   : Stamp
  grantStamp : Stamp
  state      : EntryState
  /-- The effective gain (R155). -/
  e          : Nat
  ramp       : Option Ramp
  /-- The speak timer: none while stopped, else the milliseconds elapsed since OPENING. -/
  timer      : Option Nat
  deriving DecidableEq, Repr

/-! ## Booth controller (Chapter 6) -/

/-- What a booth hears: the floor or another booth (R118). -/
inductive Source where
  | floor | booth (b : BoothId)
  deriving DecidableEq, Repr

/-- The state of a booth (R118). -/
inductive BoothState where
  | unassigned | standby | live
  deriving DecidableEq, Repr

/-- A booth's active side (R118). -/
inductive Side where
  | a | b
  deriving DecidableEq, Repr

/-- The record of a booth (R118). -/
structure Booth where
  defined   : Bool
  home      : Option SegId
  langA     : Nat
  langB     : Nat
  passive   : List Nat
  side      : Side
  state     : BoothState
  mic       : Bool
  gain      : Nat
  source    : Source
  pin       : Option Source
  noPivot   : Bool
  displaced : Bool
  deriving DecidableEq, Repr

/-! ## Port interfaces (Chapters 9 and 10) -/

/-- The role of a port (R168). -/
inductive Role where
  | unused | console | desk | venue
  deriving DecidableEq, Repr

/-- Status codes, in the order of Table 9-3. -/
inductive Status where
  | done | doneClamped | busy | check | role | scope | stale | range | full | noSlot | duplicate | loop | overlap
  | locked | state | unknown
  deriving DecidableEq, Repr

/-- The answer frame in a port's answer buffer, less its length and check bytes (Table 9-2). -/
structure Answer where
  tag     : Byte
  status  : Status
  payload : List Byte
  deriving DecidableEq, Repr

/-- The change flags, in the bit order of 10.1. -/
inductive Flag where
  | wall | regroup | floor | booth | trunk | clip | room
  deriving DecidableEq, Repr

/-- The acknowledge mode of a port (R181). -/
inductive AckMode where
  | readClears | explicit
  deriving DecidableEq, Repr

/-- The attention mode of a port (R181). -/
inductive AttMode where
  | level | pulse
  deriving DecidableEq, Repr

/-- The record of a port interface (R168, R181). `pulse` is set while an attention pulse runs (R185). -/
structure Port where
  role          : Role
  scope         : SegSet
  answer        : Answer
  reinitPending : Bool
  flags         : BitVec 7
  mask          : BitVec 7
  ack           : AckMode
  att           : AttMode
  pulse         : Bool
  deriving DecidableEq, Repr

/-! ## Mix engine (Chapter 8) -/

/-- A running ramp of a language channel: both levels share its length and position (R161). -/
structure ChRamp where
  startV  : Nat
  targetV : Nat
  startD  : Nat
  targetD : Nat
  len     : Nat
  pos     : Nat
  deriving DecidableEq, Repr

/-- The channel state of a booth: voice level, floor level and ramp (R161). -/
structure ChState where
  v    : Nat
  d    : Nat
  ramp : Option ChRamp
  deriving DecidableEq, Repr

/-- An entry as latched: its slot and its target gain (R154). `left` is none while the entry stands in its slot; once
the entry has been removed it is the unit the entry had, or none for an orphaned one: the slot may be granted anew
before the next latch, and READ-ROOM still returns the latched entry (R167). -/
structure LatchedEntry where
  ref    : SlotRef
  target : Nat
  left   : Option (Option AddrIx)
  deriving DecidableEq, Repr

/-- A room as latched at a block start (R154). Its n is the number of its entries. -/
structure LatchedRoom where
  segs    : SegSet
  entries : List LatchedEntry
  gain    : Nat
  duck    : Nat
  ramp    : Nat
  dormant : Bool
  deriving DecidableEq, Repr

/-- A booth as latched at a block start (R154): with its room, and whether it is on air and floor-matched (R126). -/
structure LatchedBooth where
  state   : BoothState
  room    : Option SegId
  lang    : Nat
  mic     : Bool
  gain    : Nat
  source  : Source
  onAir   : Bool
  matched : Bool
  deriving DecidableEq, Repr

/-- The content of a distribution channel in the channel map (R140). -/
inductive ChanContent where
  | silence | floor (room : SegId) | lang (provider : BoothId)
  deriving DecidableEq, Repr

/-- The samples driven on the output links in the last word-clock period (R163). -/
structure Outputs where
  dist  : Vector Sample 32
  segs  : Vector Sample 8
  feeds : Vector Sample 12
  deriving DecidableEq, Repr

/-- The mix engine's records: block count, the samples mixed in the block in progress (none between blocks), the
latched values, channel states, the rooms that have clipped in the block, and the outputs. -/
structure Mix where
  blockCount : BitVec 32
  block      : Option Nat
  rooms      : Vector (Option LatchedRoom) 8
  booths     : Vector LatchedBooth 12
  chans      : Vector ChanContent 32
  chStates   : Vector ChState 12
  clipped    : Vector Bool 8
  out        : Outputs
  deriving DecidableEq, Repr

/-! ## The whole -/

/-- The records that floor events and booth commands reach together: rooms, units and their addresses, the request
pool, the sequence counter, the slot pools and rotation pointers, booths, venue enables and ports. -/
structure Hall where
  /-- The active rooms, each at its room id. -/
  rooms     : Vector (Option Room) 8
  units     : Vector (Vector UnitRec 60) 4
  addrs     : Vector (Vector AddrRec 60) 4
  /-- The entries of the request pool in use (R73). -/
  requests  : List Request
  seq       : BitVec 32
  /-- The slot pools: each slot free, or with the speaking entry that holds it (R100). -/
  pools     : Vector (Vector (Option Entry) 8) 4
  rotation  : Vector SegId 4
  booths    : Vector Booth 12
  radiators : Vector Bool 8
  ports     : Vector Port 4
  deriving DecidableEq, Repr

/-- The state of the part, with the queue of waiting commands, first in first out. -/
structure State where
  scanner : Scanner
  regroup : Regroup
  hall    : Hall
  trunks  : Vector Trunk 4
  mix     : Mix
  pending : List Instr
  deriving DecidableEq, Repr

/-- The faults of the machine: there is none. No command of the spec stops the part; every command is answered or
acted on. Nothing raises a fault, which is safe: no run ends in one. -/
inductive Fault where
  deriving DecidableEq, Repr

/-- The refusals of the machine. -/
inductive Refusal where
  /-- Raised by `exec` for a command that has no meaning yet. No arm raises it. Safe: the run stops. -/
  | notModelled (mnemonic : String)
  deriving DecidableEq, Repr

/-! ## Reset -/

/-- The raw reading of a contact pair (R2): (closed contact made, stowed contact made). -/
def readingOf (closed stowed : Bool) : Reading :=
  match closed, stowed with
  | true, false => .closed
  | false, true => .opened
  | false, false => .moving
  | true, true => .conflict

/-- A wall record after a full reset (R1). -/
def Wall.reset (c : Bool × Bool) : Wall :=
  { pair := none, raw := readingOf c.1 c.2, settled := .closed, ovr := .follow, settle := none, stuck := .stopped }

/-- The settings of a defaults record after a full reset (R15). -/
def Settings.reset : Settings :=
  { mode := .auto, openLimit := 4, queueLimit := 24, speakLimit := 0, vip := 4, langBonus := 4, segBonus := 2,
    jump := 1, max := 15, guard := 16, duck := 3277, gain := 16384, ramp := 384, idle := 0 }

/-- The defaults record of segment `i` after a full reset (R15). -/
def Defaults.reset (i : SegId) : Defaults :=
  { settings := Settings.reset, base := 4 * i.val, size := 4, wanted := [], floorLang := 0 }

/-- An empty staging area: not pending, and applied (R164). -/
def Staging.empty : Staging := { pairs := [], pending := false, applied := true }

/-- The room of the single segment `i` after a full reset (R17, R139). -/
def Room.reset (i : SegId) : Room :=
  { segs := BitVec.ofNat 8 (2 ^ i.val), lead := i, gen := 0, settings := Settings.reset, base := 4 * i.val, size := 4,
    langs := [], placement := .asBase, dropped := [], floorLang := 0, lastSpeaker := none, elevated := none,
    frozen := false, dormant := false, idle := none, clip := 0, console := none, staging := Staging.empty }

/-- The pending map after a full reset: eight single-segment rooms (R22). -/
def Regroup.reset : Regroup :=
  { state := .steady, isOpen := false, affected := 0, consent := [], holds := [], deadline := none, silent := [],
    round := 0, consentSecs := 5, holdSecs := 15,
    pendingMap := (List.finRange 8).map fun i => { id := i, segs := BitVec.ofNat 8 (2 ^ i.val), lead := i } }

/-- A trunk record after a full reset, with its sense line (R49). -/
def Trunk.reset (sense : Bool) : Trunk :=
  { mode := .auto, state := if sense then .up else .unpowered, sense := sense, probes := 2, pointer := 0, silent := 0,
    failures := 0, cCheck := 0, cFraming := 0, cLate := 0, cOverrun := 0, round := none, handOver := none,
    pollOut := [] }

/-- An address record after a full reset (R49). -/
def AddrRec.reset : AddrRec :=
  { miss := 0, floorOrder := none, notice := none, lastMic := none, stray := 0, confirm := none }

/-- A unit record after a full reset (R70). -/
def UnitRec.reset : UnitRec :=
  { present := false, seatOvr := none, reported := none, seat := none, cls := .delegate, gain := Config.unity,
    lang := 0, latch := false, next := false, allOff := false, mic := none, warned := false }

/-- A booth record after a full reset (R118). -/
def Booth.reset : Booth :=
  { defined := false, home := none, langA := 0, langB := 0, passive := [], side := .a, state := .unassigned,
    mic := false, gain := Config.unity, source := .floor, pin := none, noPivot := false, displaced := false }

/-- The role of port `p` from the straps (R168): 00 UNUSED, 01 CONSOLE, 10 DESK, 11 VENUE for the lowest-numbered
port so strapped and UNUSED for every other. -/
def roleOf (straps : Vector (BitVec 2) 4) (p : PortId) : Role :=
  if straps[p] = 0 then .unused
  else if straps[p] = 1 then .console
  else if straps[p] = 2 then .desk
  else if (List.finRange 4).find? (fun q => straps[q] = 3) = some p then .venue
  else .unused

/-- A port record after a full reset (R168, R181). -/
def Port.reset (r : Role) : Port :=
  { role := r, scope := 0, answer := { tag := 0, status := .done, payload := [] }, reinitPending := false,
    flags := 0, mask := 0x7F, ack := .readClears, att := .level, pulse := false }

/-- A booth's channel state after a full reset (R161). -/
def ChState.reset : ChState := { v := 0, d := 16384, ramp := none }

/-- A booth not yet latched: no block has started. -/
def LatchedBooth.reset : LatchedBooth :=
  { state := .unassigned, room := none, lang := 0, mic := false, gain := Config.unity, source := .floor,
    onAir := false, matched := false }

/-- The mix engine after a full reset: every output 0, no block started (R153, R161, R167). -/
def Mix.reset : Mix :=
  { blockCount := 0, block := none, rooms := Vector.replicate 8 none, booths := Vector.replicate 12 LatchedBooth.reset,
    chans := Vector.replicate 32 .silence, chStates := Vector.replicate 12 ChState.reset,
    clipped := Vector.replicate 8 false,
    out := { dist := Vector.replicate 32 0, segs := Vector.replicate 8 0, feeds := Vector.replicate 12 0 } }

/-- The part right after a full reset with the pins as given (R168 and the reset values of every chapter). -/
def State.powerOn (pins : Pins) : State :=
  { scanner :=
      { walls := tab fun i => Wall.reset pins.contacts[i], lock := false, settleTime := 750,
        ranks := Vector.replicate 8 0, defaults := tab Defaults.reset },
    regroup := Regroup.reset,
    hall :=
      { rooms := tab fun i => some (Room.reset i),
        units := Vector.replicate 4 (Vector.replicate 60 UnitRec.reset),
        addrs := Vector.replicate 4 (Vector.replicate 60 AddrRec.reset),
        requests := [], seq := 0,
        pools := Vector.replicate 4 (Vector.replicate 8 none),
        rotation := Vector.replicate 4 0,
        booths := Vector.replicate 12 Booth.reset,
        radiators := Vector.replicate 8 true,
        ports := tab fun p => Port.reset (roleOf pins.straps p) },
    trunks := tab fun t => Trunk.reset pins.sense[t],
    mix := Mix.reset,
    pending := [] }

/-- The pins of `State.reset` (DESIGN CHOICE, log entry 1): no contact made, no chain sensed, P0 and P1 strapped
CONSOLE, P2 DESK and P3 VENUE, as the ports of the worked sequence 2.9.1 are. -/
def resetPins : Pins :=
  { contacts := Vector.replicate 12 (false, false),
    sense := Vector.replicate 4 false,
    straps := ⟨#[1, 1, 2, 3], rfl⟩ }

/-- The machine right after reset. -/
def State.reset : State := State.powerOn resetPins

end Sys2Proof.Machine
end

