-- ==== Sys2Proof/Machine/Flags.lean ====
section
/-! DEFINITION. Change flags and attention (Chapter 10): which ports take an event (R182), how a taken event sets a
flag and starts a pulse (R182, R185), and what the attention line carries. -/

namespace Sys2Proof.Machine

/-- Segment `sg` is in the set `x`. -/
def inSet (x : SegSet) (sg : SegId) : Bool := x.getLsbD sg.val

/-- The set of one segment. -/
def setOf (sg : SegId) : SegSet := BitVec.ofNat 8 (2 ^ sg.val)

/-- The segments S0 to S7. -/
def allSegIds : List SegId := List.finRange 8

/-- All eight segments. -/
def allSegs : SegSet := 0xFF

/-- The set of the segments that satisfy `f`. -/
def setWhere (f : SegId → Bool) : SegSet :=
  allSegIds.foldl (fun x sg => if f sg then x ||| setOf sg else x) 0

/-- The bit of a flag in the flag set (10.1). -/
def flagBit : Flag → BitVec 7
  | .wall => 0x01
  | .regroup => 0x02
  | .floor => 0x04
  | .booth => 0x08
  | .trunk => 0x10
  | .clip => 0x20
  | .room => 0x40

/-- Whether a port takes an event of kind `f` that concerns the segments `segs`, by its role and scope (R182). -/
def portTakes (p : Port) (f : Flag) (segs : SegSet) : Bool :=
  match p.role with
  | .unused => false
  | .console => f = .regroup || (p.scope &&& segs) ≠ 0
  | .desk => f = .regroup || f = .booth
  | .venue => true

/-- A port that takes an event sets its flag when the flag's enable is on; in PULSE mode a flag set that goes from
empty to non-empty starts a pulse, for which a running pulse stands (R182, R185). -/
def portFlagged (p : Port) (f : Flag) : Port :=
  if p.mask &&& flagBit f = 0 then p
  else { p with flags := p.flags ||| flagBit f, pulse := p.pulse || (p.att = .pulse && p.flags = 0) }

/-- A block raises an event of kind `f` concerning the segments `segs` (R182). -/
def raise (f : Flag) (segs : SegSet) (h : Hall) : Hall :=
  { h with ports := tab fun i => if portTakes h.ports[i] f segs then portFlagged h.ports[i] f else h.ports[i] }

/-- The attention line of a port (R185): active while a pulse runs, and in LEVEL while any flag is set. -/
def attentionLine (p : Port) : Bool := p.pulse || (p.att = .level && p.flags ≠ 0)

/-- The flags `x` of a port are cleared (R183, R184). -/
def portClear (p : Port) (x : BitVec 7) : Port := { p with flags := p.flags &&& ~~~x }

/-- SET-ATTENTION stores the modes and the mask and clears the flags whose enables are off; in LEVEL the line follows
the flag set at once, in PULSE a running pulse completes (R186). -/
def portAttention (p : Port) (ack : AckMode) (att : AttMode) (mask : BitVec 7) : Port :=
  { p with ack := ack, att := att, mask := mask, flags := p.flags &&& mask,
           pulse := p.pulse && att = .pulse }

/-- LINK-RESET returns the flags, the mask and both modes to their reset values; a running pulse completes
(R180, R181, R186). -/
def portLinkReset (p : Port) : Port :=
  { p with flags := 0, mask := 0x7F, ack := .readClears, att := .level }

/-- An attention pulse ends after its 2 µs and the line returns inactive (R185). -/
def pulseEnds (h : Hall) (p : PortId) : Hall :=
  { h with ports := put h.ports p { h.ports[p] with pulse := false } }

end Sys2Proof.Machine
end

