-- ==== Sys2Proof/Machine/Ops.lean ====
section
/-! DEFINITION. The named operations on the hall's records: reading and writing rooms, units, addresses, slots and
booths; stamps in their modular order; queues and speaking lists; orders to units (R55); seats (R71); waking (R151)
and the idle timers (R149); the radiator lines (R147). -/

namespace Sys2Proof.Machine

/-! ## Stamps -/

/-- `a` is older than `b`: it lies less than half the counter's range behind it (00_scope.md, Wrapping counts). -/
def older (a b : Stamp) : Bool := a ≠ b && (b - a).toNat < 2 ^ 31

/-- Insert `x` before the first element that does not come before `x`. -/
def insertBy {α : Type} (lt : α → α → Bool) (x : α) : List α → List α
  | [] => [x]
  | y :: ys => if lt y x then y :: insertBy lt x ys else x :: y :: ys

/-- Sort by `lt`, keeping the order of equals. -/
def sortBy {α : Type} (lt : α → α → Bool) : List α → List α
  | [] => []
  | x :: xs => insertBy lt x (sortBy lt xs)

/-! ## Units, addresses and slots -/

def Hall.unit (h : Hall) (u : UnitId) : UnitRec := (h.units[u.trunk])[u.addr]

def Hall.setUnit (h : Hall) (u : UnitId) (r : UnitRec) : Hall :=
  { h with units := put h.units u.trunk (put h.units[u.trunk] u.addr r) }

def Hall.addr (h : Hall) (u : UnitId) : AddrRec := (h.addrs[u.trunk])[u.addr]

def Hall.setAddr (h : Hall) (u : UnitId) (r : AddrRec) : Hall :=
  { h with addrs := put h.addrs u.trunk (put h.addrs[u.trunk] u.addr r) }

/-- The entry that holds a slot, or none while the slot is free (R100). -/
def Hall.entry (h : Hall) (r : SlotRef) : Option Entry := (h.pools[r.trunk])[r.slot]

def Hall.setEntry (h : Hall) (r : SlotRef) (e : Option Entry) : Hall :=
  { h with pools := put h.pools r.trunk (put h.pools[r.trunk] r.slot e) }

/-- The slots of a trunk, lowest first. -/
def slotsOf (t : TrunkId) : List SlotRef := (List.finRange 8).map fun k => { trunk := t, slot := k }

/-- The 32 slots of the part, by trunk and slot. -/
def allSlots : List SlotRef := (List.finRange 4).flatMap slotsOf

/-- The units of a trunk, in ascending address. -/
def unitsOf (t : TrunkId) : List UnitId := (List.finRange 60).map fun a => { trunk := t, addr := a }

/-- The 240 units, by trunk and address. -/
def allUnits : List UnitId := (List.finRange 4).flatMap unitsOf

/-- The lowest free slot of a trunk (R75, R100). -/
def Hall.freeSlot (h : Hall) (t : TrunkId) : Option SlotIx :=
  (List.finRange 8).find? fun k => ((h.pools[t])[k]).isNone

/-- The number of free slots of a trunk. -/
def Hall.freeCount (h : Hall) (t : TrunkId) : Nat :=
  (List.finRange 8).countP fun k => ((h.pools[t])[k]).isNone

/-- The unit whose entry holds a slot of trunk `t`. -/
def holderOf (t : TrunkId) (e : Entry) : Option UnitId := e.unit.map fun a => { trunk := t, addr := a }

/-- The speaking entry of a unit, with its slot. -/
def Hall.entryOf (h : Hall) (u : UnitId) : Option (SlotRef × Entry) :=
  (slotsOf u.trunk).findSome? fun r =>
    match h.entry r with
    | some e => if e.unit = some u.addr then some (r, e) else none
    | none => none

/-- The request of a unit. -/
def Hall.requestOf (h : Hall) (u : UnitId) : Option Request := h.requests.find? fun q => q.unit = u

/-- The floor state that an entry gives its unit (R70). -/
def entryFloorState : EntryState → FloorState
  | .granted => .granted
  | .opening => .opening
  | .opened => .opened
  | .closing => .closing

/-- A unit's floor state: WAITING while it has a request, its entry's state while it has an entry, IDLE otherwise
(R70). -/
def Hall.floorState (h : Hall) (u : UnitId) : FloorState :=
  if (h.requestOf u).isSome then .waiting
  else match h.entryOf u with
    | some (_, e) => entryFloorState e.state
    | none => .idle

/-! ## Rooms -/

def Hall.room (h : Hall) (i : SegId) : Option Room := h.rooms[i]

def Hall.setRoom (h : Hall) (i : SegId) (r : Option Room) : Hall := { h with rooms := put h.rooms i r }

/-- Change the record of room `i`, if there is one. -/
def Hall.mapRoom (h : Hall) (i : SegId) (f : Room → Room) : Hall :=
  match h.room i with
  | some r => h.setRoom i (some (f r))
  | none => h

/-- The ids of the active rooms, in ascending order. -/
def Hall.roomIds (h : Hall) : List SegId := allSegIds.filter fun i => (h.room i).isSome

/-- The id of the active room that contains a segment. -/
def Hall.roomOf (h : Hall) (sg : SegId) : Option SegId :=
  allSegIds.find? fun i => match h.room i with | some r => inSet r.segs sg | none => false

/-- The segments of room `i`. -/
def Hall.segsOf (h : Hall) (i : SegId) : SegSet := match h.room i with | some r => r.segs | none => 0

/-- The active map: id, segments and lead of each active room, in ascending id (R22). -/
def Hall.activeMap (h : Hall) : List MapRoom :=
  allSegIds.filterMap fun i => (h.room i).map fun r => { id := i, segs := r.segs, lead := r.lead }

/-- An event that concerns a room concerns the room's segments as it stands (R182). -/
def raiseRoom (f : Flag) (i : SegId) (h : Hall) : Hall := raise f (h.segsOf i) h

/-- An event that concerns the room containing a segment. -/
def raiseAt (f : Flag) (sg : SegId) (h : Hall) : Hall :=
  match h.roomOf sg with
  | some i => raiseRoom f i h
  | none => h

/-- The room of a unit: the active room that contains its seat segment (R74). -/
def Hall.unitRoom (h : Hall) (u : UnitId) : Option SegId := (h.unit u).seat.bind h.roomOf

/-- A unit is seated in the segments `x`. -/
def Hall.seatedIn (h : Hall) (x : SegSet) (u : UnitId) : Bool :=
  match (h.unit u).seat with
  | some sg => inSet x sg
  | none => false

/-- The requests of the units seated in the segments `x`, in stamp order, oldest first (R73). -/
def Hall.queueIn (h : Hall) (x : SegSet) : List Request :=
  sortBy (fun a b => older a.stamp b.stamp) (h.requests.filter fun q => h.seatedIn x q.unit)

/-- The queue of a room (R73). -/
def Hall.queue (h : Hall) (i : SegId) : List Request := h.queueIn (h.segsOf i)

/-- The speaking entries filed in the segments `x`, with their slots, in grant stamp order (R74). -/
def Hall.entriesIn (h : Hall) (x : SegSet) : List (SlotRef × Entry) :=
  sortBy (fun a b => older a.2.grantStamp b.2.grantStamp)
    (allSlots.filterMap fun r =>
      match h.entry r with
      | some e => if inSet x e.seg then some (r, e) else none
      | none => none)

/-- A room's speaking list (R74). -/
def Hall.speaking (h : Hall) (i : SegId) : List (SlotRef × Entry) := h.entriesIn (h.segsOf i)

/-- An entry in OPENING or OPEN. -/
def Entry.onAir (e : Entry) : Bool := e.state = .opening || e.state = .opened

/-- A counted entry: non-chair, in GRANTED, OPENING or OPEN (R82). -/
def Entry.counted (e : Entry) : Bool := !e.chair && e.state ≠ .closing

/-- A room's count (R82). -/
def Hall.count (h : Hall) (i : SegId) : Nat := (h.speaking i).countP fun x => x.2.counted

/-- The non-chair entries of a room in OPENING or OPEN, oldest grant stamp first. -/
def Hall.openEntries (h : Hall) (i : SegId) : List SlotRef :=
  ((h.speaking i).filter fun x => !x.2.chair && x.2.onAir).map (·.1)

/-- The room is under its open limit (R82). -/
def Hall.underLimit (h : Hall) (i : SegId) : Bool :=
  match h.room i with
  | some r => h.count i < r.settings.openLimit
  | none => false

/-- The chair units seated in the segments `x`, by trunk and address (R17, R20). -/
def Hall.chairsIn (h : Hall) (x : SegSet) : List UnitId :=
  allUnits.filter fun u => (h.unit u).cls = .chair && h.seatedIn x u

/-! ## Orders to units (R55) -/

/-- The floor controller gives a floor order for a unit: it takes the place of a pending floor order, and is
discarded when the unit is not PRESENT (R55). -/
def giveFloor (h : Hall) (u : UnitId) (o : FloorOrder) : Hall :=
  if (h.unit u).present then h.setAddr u { h.addr u with floorOrder := some o } else h

/-- The floor controller gives a notice order for a unit (R55). -/
def giveNotice (h : Hall) (u : UnitId) (n : Notice) : Hall :=
  if (h.unit u).present then h.setAddr u { h.addr u with notice := some n } else h

/-- The unit's GRANT is still pending: not delivered (R55). DESIGN CHOICE: where the RELEASE of a stray report has
displaced a GRANT that was never delivered (R63), the latch reading, a cancellation and a recall take it as delivered,
since it no longer waits (log entry 22). -/
def Hall.grantPending (h : Hall) (u : UnitId) : Bool :=
  match (h.addr u).floorOrder with
  | some (.grant _) => true
  | _ => false

/-- A pending GRANT is withdrawn; a floor order other than GRANT stays (R55). -/
def withdrawGrant (h : Hall) (u : UnitId) : Hall :=
  if h.grantPending u then h.setAddr u { h.addr u with floorOrder := none } else h

/-- The confirmation count of a unit stops (R62). -/
def stopConfirm (h : Hall) (u : UnitId) : Hall := h.setAddr u { h.addr u with confirm := none }

/-- A warned unit is given CLEAR-WARN and its warned mark is cleared (R76). -/
def clearWarn (h : Hall) (u : UnitId) : Hall :=
  if (h.unit u).warned then (giveNotice h u .clearWarn).setUnit u { h.unit u with warned := false } else h

/-! ## Seats (R71) -/

/-- The seat segment a unit's override and reported seat call for (R71). -/
def UnitRec.seatCalled (r : UnitRec) : Option SegId := r.seatOvr.orElse fun _ => r.reported

/-- A FLOOR event for the room of an optional segment. DESIGN CHOICE: without a segment there is no room, and no event
is raised, not even one that concerns no segment (R182; log entries 21 and 32). -/
def raiseSeat (sg : Option SegId) (h : Hall) : Hall :=
  match sg with
  | some x => raiseAt .floor x h
  | none => h

/-- An IDLE unit's seat segment is brought into line with its override and reported seat; a change raises a FLOOR
event for the room left and the room joined (R71). A unit that is not IDLE keeps its seat segment. -/
def alignSeat (h : Hall) (u : UnitId) : Hall :=
  let r := h.unit u
  if h.floorState u = .idle && r.seatCalled ≠ r.seat then
    raiseSeat r.seatCalled (raiseSeat r.seat (h.setUnit u { r with seat := r.seatCalled }))
  else h

/-! ## Requests -/

/-- A request leaves the pool; a room's elevated mark on it is cleared (R73, R110). -/
def removeRequest (h : Hall) (u : UnitId) : Hall :=
  { h with
    requests := h.requests.filter fun q => q.unit ≠ u,
    rooms := tab fun i => (h.rooms[i]).map fun r =>
      if r.elevated = some u then { r with elevated := none } else r }

/-- The requests of the units seated in `x` are changed by `f`. -/
def mapRequests (h : Hall) (x : SegSet) (f : Request → Request) : Hall :=
  { h with requests := h.requests.map fun q => if h.seatedIn x q.unit then f q else q }

/-- The dynamic scores and guard counts of the requests seated in `x` are lowered to the max and guard given; a due
request stays due (R41, R93). -/
def lowerScores (h : Hall) (x : SegSet) (mx gd : Nat) : Hall :=
  mapRequests h x fun q => { q with score := min q.score mx, guard := min q.guard gd }

/-! ## Booths -/

/-- The room a booth belongs to: the active room that contains its home segment, while it is defined (R119). -/
def Hall.boothRoom (h : Hall) (b : BoothId) : Option SegId :=
  if (h.booths[b]).defined then (h.booths[b]).home.bind h.roomOf else none

/-- A booth's output language (R118). -/
def Booth.output (b : Booth) : Nat := match b.side with | .a => b.langA | .b => b.langB

/-- A booth's understood set (R118). -/
def Booth.understood (b : Booth) : List Nat :=
  (if b.langA = 0 then [] else [b.langA]) ++ (if b.langB = 0 then [] else [b.langB]) ++ b.passive

/-- The LIVE booths of a room, in ascending id. -/
def Hall.liveBooths (h : Hall) (i : SegId) : List BoothId :=
  (List.finRange 12).filter fun b => (h.booths[b]).state = .live && h.boothRoom b = some i

/-- A booth is on air: LIVE with its mic on (R118). -/
def Booth.airing (b : Booth) : Bool := b.state = .live && b.mic

/-- A booth is floor-matched: its room's floor language is not 0 and equals its output language (R126). -/
def Hall.floorMatched (h : Hall) (b : BoothId) : Bool :=
  match (h.boothRoom b).bind h.room with
  | some r => r.floorLang ≠ 0 && r.floorLang = (h.booths[b]).output
  | none => false

/-! ## Dormancy and radiators (R147, R149, R151) -/

/-- A room is idle: no speaking entry, an empty queue, and no booth of the room LIVE with its mic on (R149). -/
def Hall.roomIdle (h : Hall) (i : SegId) : Bool :=
  (h.speaking i).isEmpty && (h.queue i).isEmpty && (h.liveBooths i).all fun b => !(h.booths[b]).mic

/-- An idle time in milliseconds. -/
def idleMs (r : Room) : Nat := r.settings.idle * 60000

/-- A wake event reaches a room: a DORMANT room becomes awake with a ROOM event; an awake room whose timer runs has
it restarted from the full idle time (R149, R151). -/
def wake (h : Hall) (i : SegId) : Hall :=
  match h.room i with
  | none => h
  | some r =>
    if r.dormant then raiseRoom .room i (h.setRoom i (some { r with dormant := false }))
    else if r.idle.isSome then h.setRoom i (some { r with idle := some (idleMs r) })
    else h

/-- The idle timer of a room after an event: it runs while the room is awake, idle and its idle time is not 0; it
starts from the full idle time (R149). -/
def idleAfter (h : Hall) (i : SegId) (r : Room) : Option Nat :=
  if !r.dormant && h.roomIdle i && r.settings.idle ≠ 0 then some (r.idle.getD (idleMs r)) else none

/-- Each room's idle timer starts or stops as the event just taken left the room (R149). -/
def idleSweep (h : Hall) : Hall :=
  { h with rooms := tab fun i => (h.rooms[i]).map fun r => { r with idle := idleAfter h i r } }

/-- The radiator enable line of a segment: high while its room has a window and is awake and the venue enable is on
(R147). -/
def Hall.radiatorLine (h : Hall) (sg : SegId) : Bool :=
  match (h.roomOf sg).bind h.room with
  | some r => r.size > 0 && !r.dormant && h.radiators[sg]
  | none => false

end Sys2Proof.Machine
end

