-- ==== Sys2Proof/Machine/Channels.lean ====
section
/-! DEFINITION. The channel planner at a commit and at REINIT: the starting window and the language list of a rebuilt
room (R142, R146), the placement of the windows (R143, R144), and the channel map (R140). -/

namespace Sys2Proof.Machine

/-- A room's window and list while it is placed: rank and id order the placement. -/
structure Plan where
  id        : SegId
  rank      : Nat
  base      : Nat
  size      : Nat
  langs     : List Nat
  placement : Placement
  dropped   : List Nat
  deriving DecidableEq, Repr

/-- The active room whose lead segment is `lead`: the room that a rebuilt room with that lead continues (R39). -/
def Hall.ledBy (h : Hall) (lead : SegId) : Option (SegId × Room) :=
  allSegIds.findSome? fun i =>
    match h.room i with
    | some r => if r.lead = lead then some (i, r) else none
    | none => none

/-- The codes of `l` appended to `acc`, a code already present being skipped (R142). -/
def addCodes (acc : List Nat) : List Nat → List Nat
  | [] => acc
  | c :: cs => addCodes (if acc.contains c then acc else acc ++ [c]) cs

/-- The active rooms that share a segment with `x`, in ascending id. -/
def Hall.sharing (h : Hall) (x : SegSet) : List (SegId × Room) :=
  allSegIds.filterMap fun i =>
    match h.room i with
    | some r => if (r.segs &&& x) ≠ 0 then some (i, r) else none
    | none => none

/-- A plan cut to its starting size: the codes beyond size − 1 are dropped (R142). -/
def cutPlan (id : SegId) (rank base size : Nat) (l : List Nat) : Plan :=
  { id := id, rank := rank, base := base, size := size, langs := l.take (size - 1), placement := .asBase,
    dropped := l.drop (size - 1) }

/-- The starting window and list of a room that continues no room (R142, second case). -/
def freshPlan (sc : Scanner) (m : MapRoom) : Plan :=
  let d := sc.defaults[m.lead]
  cutPlan m.id sc.ranks[m.lead] d.base d.size d.wanted

/-- The starting window and list of a rebuilt room at a commit (R142). -/
def startPlan (sc : Scanner) (h : Hall) (m : MapRoom) : Plan :=
  match h.ledBy m.lead with
  | none => freshPlan sc m
  | some (i, r) =>
    let d := sc.defaults[m.lead]
    let langs := ((h.sharing m.segs).filter fun x => x.1 ≠ i).foldl (fun acc x => addCodes acc x.2.langs) r.langs
    if r.size = 0 then cutPlan m.id sc.ranks[m.lead] d.base d.size langs
    else cutPlan m.id sc.ranks[m.lead] r.base r.size langs

/-- A channel is free when no window taken, given as base and size, covers it (R143). -/
def chanFree (taken : List (Nat × Nat)) (c : Nat) : Bool := taken.all fun w => c < w.1 || w.1 + w.2 ≤ c

/-- A window of a size fits at a base: it lies within D0 to D31 and every channel of it is free (R143, step 1). -/
def fitsAt (taken : List (Nat × Nat)) (base size : Nat) : Bool :=
  base + size ≤ Config.channels && (List.range size).all fun i => chanFree taken (base + i)

/-- The number of consecutive free channels from `b` on. -/
def runFrom (taken : List (Nat × Nat)) (b : Nat) : Nat :=
  ((List.range (Config.channels - b)).takeWhile fun i => chanFree taken (b + i)).length

/-- The longest run of free channels as base and length, the lowest base among equals (R143, step 3). -/
def longestRun (taken : List (Nat × Nat)) : Nat × Nat :=
  (List.range Config.channels).foldl (fun best b => if best.2 < runFrom taken b then (b, runFrom taken b) else best)
    (0, 0)

/-- The placement of one window among those taken, and the codes a smaller window cuts off (R143, R144). -/
def placePlan (taken : List (Nat × Nat)) (p : Plan) : Plan :=
  if fitsAt taken p.base p.size then { p with placement := .asBase }
  else match (List.range Config.channels).find? fun b => fitsAt taken b p.size with
    | some b => { p with base := b, placement := .relocated }
    | none =>
      let run := longestRun taken
      if run.2 = 0 then
        { p with size := 0, langs := [], placement := .noWindow, dropped := p.dropped ++ p.langs }
      else
        { p with base := run.1, size := run.2, langs := p.langs.take (run.2 - 1), placement := .shrunk,
                 dropped := p.dropped ++ p.langs.drop (run.2 - 1) }

/-- The windows are placed one room at a time, each seeing those placed before it (R143). -/
def placeAll : List (Nat × Nat) → List Plan → List Plan
  | _, [] => []
  | taken, p :: ps =>
    let q := placePlan taken p
    q :: placeAll ((q.base, q.size) :: taken) ps

/-- Descending lead rank, and among equal ranks ascending room id (R143). -/
def placedBefore (a b : Plan) : Bool := b.rank < a.rank || (a.rank = b.rank && a.id < b.id)

/-- The windows of the rebuilt rooms placed around those of the unaffected rooms (R143). -/
def placeWindows (taken : List (Nat × Nat)) (ps : List Plan) : List Plan := placeAll taken (sortBy placedBefore ps)

/-- Channel `c` lies in a room's window. -/
def inWindow (r : Room) (c : Nat) : Bool := r.base ≤ c && c < r.base + r.size

/-- The room whose window covers a channel, with the index of the channel in it. -/
def Hall.windowAt (h : Hall) (c : Nat) : Option (SegId × Room × Nat) :=
  allSegIds.findSome? fun i =>
    match h.room i with
    | some r => if inWindow r c then some (i, r, c - r.base) else none
    | none => none

/-- The LIVE booth of a room whose output language is a code: the provider of the code's channel (R126). -/
def Hall.provider (h : Hall) (i : SegId) (code : Nat) : Option BoothId :=
  (h.liveBooths i).find? fun b => (h.booths[b]).output = code

/-- The content the channel map gives a channel (R140, R163): silence outside every window and in a DORMANT room's,
the floor at index 0, at a spare index and at a language without a provider, else the provider's channel. -/
def Hall.content (h : Hall) (c : Nat) : ChanContent :=
  match h.windowAt c with
  | none => .silence
  | some (i, r, k) =>
    if r.dormant then .silence
    else if k = 0 then .floor i
    else match r.langs[k - 1]? with
      | none => .floor i
      | some code =>
        match h.provider i code with
        | some b => .lang b
        | none => .floor i

end Sys2Proof.Machine
end

