-- ==== Sys2Proof/Machine/Relay.lean ====
section
/-! DEFINITION. Relay re-evaluation (R127 to R130): the two passes that give every LIVE booth of a room its source,
and the append of a language to a room's list (R122, R141). -/

namespace Sys2Proof.Machine

/-- The pin names a booth, not the floor. -/
def pinsBooth (b : Booth) : Bool := match b.pin with | some (.booth _) => true | _ => false

/-- First pass, step 1: a floor-matched booth's pin to a booth is cleared (R128). -/
def unpinMatched (floorLang : Nat) (b : Booth) : Booth :=
  if floorLang ≠ 0 && b.output = floorLang && pinsBooth b then { b with pin := none } else b

/-- First pass: the booth is in the floor set when it is pinned to FLOOR, or unpinned with the floor language 0 or
understood; a booth pinned to a booth is not (R128). -/
def inFloorSet (floorLang : Nat) (b : Booth) : Bool :=
  match b.pin with
  | some .floor => true
  | some (.booth _) => false
  | none => floorLang = 0 || b.understood.contains floorLang

/-- Second pass for an unpinned booth outside the floor set (R129, steps 2 to 4). -/
def pivotFor (floorLang : Nat) (pivots : List (BoothId × Nat)) (b : Booth) : Booth :=
  if b.understood.contains floorLang then { b with source := .floor, noPivot := false }
  else match pivots.find? fun p => b.understood.contains p.2 with
    | some p => { b with source := .booth p.1, noPivot := false }
    | none => { b with source := .floor, noPivot := true }

/-- The source of a LIVE booth, given the floor set with its members' output languages in ascending id
(R128, R129). -/
def relayOne (floorLang : Nat) (pivots : List (BoothId × Nat)) (b : Booth) : Booth :=
  if inFloorSet floorLang b then { b with source := .floor, noPivot := false }
  else match b.pin with
    | some (.booth t) =>
      if pivots.any fun p => p.1 = t then { b with source := .booth t, noPivot := false }
      else pivotFor floorLang pivots { b with pin := none }
    | _ => pivotFor floorLang pivots b

/-- The booth table after a re-evaluation of the booths `live`, in ascending id, with the floor language given. -/
def relay (live : List BoothId) (floorLang : Nat) (bs : Vector Booth 12) : Vector Booth 12 :=
  let first : Vector Booth 12 :=
    tab fun b => if live.contains b then unpinMatched floorLang bs[b] else bs[b]
  let pivots := (live.filter fun b => inFloorSet floorLang first[b]).map fun b => (b, (first[b]).output)
  tab fun b => if live.contains b then relayOne floorLang pivots first[b] else first[b]

/-- Relay is re-evaluated in a room; a re-evaluation that changes something raises a BOOTH event for the room
(R127, R130). -/
def reevaluate (h : Hall) (i : SegId) : Hall :=
  match h.room i with
  | none => h
  | some r =>
    let bs := relay (h.liveBooths i) r.floorLang h.booths
    if bs = h.booths then h else raiseRoom .booth i { h with booths := bs }

/-- A room's generation increases by one (R18). -/
def Room.genUp (r : Room) : Room := { r with gen := r.gen + 1 }

/-- The channel planner appends a language at the first spare index of a room's list; the generation increases, a
ROOM event is raised and a DORMANT room is woken. A language already in the list is not appended again
(R122, R141, R151). -/
def appendLang (h : Hall) (i : SegId) (code : Nat) : Hall :=
  match h.room i with
  | none => h
  | some r =>
    if r.langs.contains code then h
    else wake (raiseRoom .room i (h.setRoom i (some { r with langs := r.langs ++ [code] }.genUp))) i

end Sys2Proof.Machine
end

