-- ==== Sys2Proof/Machine/Floor.lean ====
section
/-! DEFINITION. The floor controller and the grant arbiter as operations on the hall: grants (R75), closing,
cancelling and recalling entries (R76 to R78), selection, aging and runs (R102 to R108), OVERRIDE and chair service
(R84, R87), the handing on of freed slots (R85, R112 to R114), unfreezing (R117), new requests (R81, R86), the
reading of a reply (R79, R80, R88), and absence (R96). -/

namespace Sys2Proof.Machine

/-! ## Grants -/

/-- A grant to a unit (R75): the lowest free slot of its trunk, a grant stamp, a GRANTED entry, the unit's request
out of the pool, a GRANT order, a FLOOR event, and the wake of a DORMANT room (R151). `given` is the request stamp of
a chair granted at once (R86); otherwise it is the request's stamp, or the grant stamp where there is no request. -/
def grantUnit (h : Hall) (u : UnitId) (given : Option Stamp) : Hall :=
  match h.freeSlot u.trunk, (h.unit u).seat with
  | some k, some sg =>
    let stamp := h.seq + 1
    let asked := given.orElse fun _ => (h.requestOf u).map (·.stamp)
    let e : Entry :=
      { unit := some u.addr, seg := sg, chair := (h.unit u).cls = .chair, reqStamp := asked.getD stamp,
        grantStamp := stamp, state := .granted, e := 0, ramp := none, timer := none }
    let h1 := (removeRequest { h with seq := stamp } u).setEntry { trunk := u.trunk, slot := k } (some e)
    let h2 := raiseAt .floor sg (giveFloor h1 u (.grant k))
    match h2.roomOf sg with
    | some i => wake h2 i
    | none => h2
  | _, _ => h

/-! ## Selection, scoring and aging -/

/-- The total score of a request in a room (R105). -/
def totalScore (h : Hall) (r : Room) (q : Request) : Nat :=
  (if q.cls = .vip then r.settings.vip else 0)
  + (if q.lang ≠ 0 && q.lang = r.floorLang then r.settings.langBonus else 0)
  + (if r.lastSpeaker.isSome && r.lastSpeaker = (h.unit q.unit).seat then r.settings.segBonus else 0)
  + q.score

/-- The candidates that may be granted at a selection, in stamp order: none at the limit; otherwise the waiting
requests whose trunk has a free slot (R102, R103). -/
def candidates (h : Hall) (i : SegId) : List Request :=
  if h.underLimit i then (h.queue i).filter fun q => h.freeCount q.unit.trunk > 0 else []

/-- The first of the requests with the highest total score (R104, step 3: the oldest among equals). -/
def bestScored (h : Hall) (r : Room) : List Request → Option Request
  | [] => none
  | q :: qs =>
    match bestScored h r qs with
    | some b => if totalScore h r q < totalScore h r b then some b else some q
    | none => some q

/-- The selection order among candidates in stamp order: the elevated request, the oldest due, the best score
(R104). -/
def choose (h : Hall) (r : Room) (cs : List Request) : Option Request :=
  ((cs.find? fun q => r.elevated = some q.unit).orElse fun _ => cs.find? fun q => q.due).orElse
    fun _ => bestScored h r cs

/-- The aging of one request after a grant of the arbiter in its room (R108). -/
def ageRequest (s : Settings) (q : Request) : Request :=
  if q.score < s.max then { q with score := min (q.score + s.jump) s.max }
  else { q with guard := q.guard - 1, due := q.due || q.guard ≤ 1 }

/-- The requests waiting in a room age (R108). The request granted has left the pool. -/
def ageRoom (h : Hall) (i : SegId) : Hall :=
  match h.room i with
  | some r => mapRequests h r.segs (ageRequest r.settings)
  | none => h

/-- One selection in a room, with its grant and the aging of the room's other requests; none where no candidate may
be granted (R102, R104, R108, R116). -/
def selectOnce (h : Hall) (i : SegId) : Option Hall :=
  (h.room i).bind fun r =>
    (choose h r (candidates h i)).map fun q => ageRoom (grantUnit h q.unit none) i

/-- Selections until none may be granted, at most `n`. -/
def arbiterLoop : Nat → Hall → SegId → Hall
  | 0, h, _ => h
  | n + 1, h, i =>
    match selectOnce h i with
    | some h' => arbiterLoop n h' i
    | none => h

/-- The grant arbiter runs for a room that is AUTO and not frozen (R102). Each grant takes a request out of the pool,
so a run has at most as many selections as the pool has requests. -/
def arbiterRun (h : Hall) (i : SegId) : Hall :=
  match h.room i with
  | some r => if r.settings.mode = .auto && !r.frozen then arbiterLoop h.requests.length h i else h
  | none => h

/-! ## Override service and grant handling -/

/-- A waiting request is granted if its room is under its limit and its trunk has a free slot. -/
def serveRequest (i : SegId) (h : Hall) (u : UnitId) : Hall :=
  if (h.requestOf u).isSome && h.underLimit i && h.freeCount u.trunk > 0 then grantUnit h u none else h

/-- The override service grants a room's waiting requests in stamp order, oldest first; one whose trunk has no free
slot is passed over (R84). -/
def overrideService (h : Hall) (i : SegId) : Hall :=
  ((h.queue i).map (·.unit)).foldl (serveRequest i) h

/-- A room's grant handling when its count falls or its limit rises: nothing in a frozen room; the arbiter's run in
AUTO, the override service in OVERRIDE, nothing in MANUAL (R82). -/
def grantHandling (h : Hall) (i : SegId) : Hall :=
  match h.room i with
  | none => h
  | some r =>
    if r.frozen then h
    else match r.settings.mode with
      | .auto => arbiterRun h i
      | .manual => h
      | .override => overrideService h i

/-- Grant handling of an optional room. -/
def grantHandlingAt (h : Hall) (i : Option SegId) : Hall :=
  match i with
  | some j => grantHandling h j
  | none => h

/-! ## Freed slots -/

/-- Whether a room is frozen. -/
def Hall.frozen (h : Hall) (i : SegId) : Bool := match h.room i with | some r => r.frozen | none => false

/-- A room holds a waiting request on a trunk. -/
def Hall.waitsOn (h : Hall) (i : SegId) (t : TrunkId) : Bool := (h.queue i).any fun q => q.unit.trunk = t

/-- The chair requests waiting on trunk `t` in the unfrozen rooms, oldest first (R85, R87). -/
def chairRequests (h : Hall) (t : TrunkId) : List UnitId :=
  ((sortBy (fun a b => older a.stamp b.stamp)
    (h.requests.filter fun q =>
      q.cls = .chair && q.unit.trunk = t &&
        (match h.unitRoom q.unit with | some i => !h.frozen i | none => false))).map (·.unit))

/-- R85, step 2: the room is an unfrozen OVERRIDE room under its limit with a waiting request on the trunk. -/
def overrideClaims (h : Hall) (i : SegId) (t : TrunkId) : Bool :=
  match h.room i with
  | some r => r.settings.mode = .override && !r.frozen && h.underLimit i && h.waitsOn i t
  | none => false

/-- A room is eligible for a freed slot on a trunk: AUTO, not frozen, under its limit, with a waiting request there
(R112). -/
def eligible (h : Hall) (i : SegId) (t : TrunkId) : Bool :=
  match h.room i with
  | some r => r.settings.mode = .auto && !r.frozen && h.underLimit i && h.waitsOn i t
  | none => false

/-- The rooms in the order of the rotation: ids above the pointer, then from S0 to the pointer (R113). -/
def rotationOrder (pointer : SegId) : List SegId :=
  (allSegIds.filter fun i => pointer < i) ++ (allSegIds.filter fun i => i ≤ pointer)

/-- The rotation of a freed slot on trunk `t` over the rooms given, the room of the owner claim left out: the first
eligible room whose run grants a request on `t` takes it and the pointer moves to it (R113). -/
def rotate (t : TrunkId) (owner : Option SegId) : List SegId → Hall → Hall
  | [], h => h
  | i :: rest, h =>
    if owner = some i || !eligible h i t then rotate t owner rest h
    else
      let h' := arbiterRun h i
      if h'.freeCount t < h.freeCount t then { h' with rotation := put h'.rotation t i }
      else rotate t owner rest h'

/-- A freed slot of trunk `t` goes to the rotation, unless a run has already taken the trunk's last free slot. -/
def rotateSlot (owner : Option SegId) (h : Hall) (t : TrunkId) : Hall :=
  if h.freeCount t = 0 then h else rotate t owner (rotationOrder h.rotation[t]) h

/-- Each freed slot is first offered to the oldest chair request waiting on its trunk in an unfrozen room; the second
result is the slots no chair took, by trunk (R85, step 1). -/
def offerChairs : List TrunkId → Hall → Hall × List TrunkId
  | [], h => (h, [])
  | t :: rest, h =>
    match chairRequests h t with
    | u :: _ => offerChairs rest (grantUnit h u none)
    | [] => let x := offerChairs rest h; (x.1, t :: x.2)

/-- The freed slots that are left, by trunk in their order, when of each trunk `t` the first `n t` have gone. -/
def leftOver : List TrunkId → (TrunkId → Nat) → List TrunkId
  | [], _ => []
  | t :: ts, n => if n t = 0 then t :: leftOver ts n else leftOver ts fun k => if k = t then n k - 1 else n k

/-- Slots freed by one event from entries filed in the room `owner` are handed on, together with the room's grant
handling where its count fell (R85, R112 to R114): chairs first; then the room's own handling, once, for the fallen
count, for R85's OVERRIDE step or for the owner claim; then the rotation for each slot that is left, in the order in
which the slots were freed (log entry 10). R85's OVERRIDE step takes one slot, the first that it claims: after its
service the room is at its limit, or has no request that another of the slots could serve, so each further slot that
the service did not fill goes on to the rotation. -/
def handOn (h : Hall) (freed : List TrunkId) (owner : Option SegId) (fell : Bool) : Hall :=
  let x := offerChairs freed h
  let h1 := x.1
  let claims (t : TrunkId) : Bool := match owner with | some i => overrideClaims h1 i t | none => false
  let owns (t : TrunkId) : Bool := match owner with | some i => eligible h1 i t | none => false
  let h2 := if fell || x.2.any (fun t => claims t || owns t) then grantHandlingAt h1 owner else h1
  let spent (t : TrunkId) : Nat := if x.2.find? claims = some t then 1 else 0
  (leftOver x.2 fun t => max (h1.freeCount t - h2.freeCount t) (spent t)).foldl (rotateSlot owner) h2

/-- Chair service for the rooms `is` unfrozen by one event, oldest stamp first (R117, step 1). DESIGN CHOICE: the
requests of all trunks are served in one stamp order, which fixes their grant stamps (log entry 28). -/
def chairService (h : Hall) (is : List SegId) : Hall :=
  ((sortBy (fun a b => older a.stamp b.stamp)
    (h.requests.filter fun q =>
      q.cls = .chair && (match h.unitRoom q.unit with | some i => is.contains i | none => false))).map
        (·.unit)).foldl
    (fun g u => if (g.requestOf u).isSome && g.freeCount u.trunk > 0 then grantUnit g u none else g) h

/-- One event unfreezes the rooms `is`, given in ascending id: chair service, then each room's grant handling
(R117). -/
def unfreeze (h : Hall) (is : List SegId) : Hall := is.foldl grantHandling (chairService h is)

/-! ## Closing, cancelling and recalling -/

/-- An entry in OPENING or OPEN is sent to CLOSING, without the grant handling: its speak timer stops, a warned unit
is given CLEAR-WARN, and a FLOOR event is raised for the room (R76, R97). An entry in another state is left as it
is. -/
def closeEntry (h : Hall) (r : SlotRef) : Hall :=
  match h.entry r with
  | some e =>
    if e.onAir then
      let h1 := h.setEntry r (some { e with state := .closing, timer := none })
      let h2 := match holderOf r.trunk e with | some u => clearWarn h1 u | none => h1
      raiseAt .floor e.seg h2
    else h
  | none => h

/-- An entry is sent to CLOSING, and its room's grant handling runs when its count fell (R76, R82). -/
def closeAndHandle (h : Hall) (r : SlotRef) : Hall :=
  match h.entry r with
  | some e =>
    if e.onAir && !e.chair then grantHandlingAt (closeEntry h r) (h.roomOf e.seg) else closeEntry h r
  | none => h

/-- An entry is removed and its slot freed, with a FLOOR event for its room. -/
def dropEntry (h : Hall) (r : SlotRef) (e : Entry) : Hall := raiseAt .floor e.seg (h.setEntry r none)

/-- A closing ramp is complete: the entry is removed, its unit becomes IDLE and is given RELEASE, an orphaned entry's
removal gives no order, and the freed slot is handed on (R76, R96). -/
def closingDone (h : Hall) (r : SlotRef) (e : Entry) : Hall :=
  let h1 := dropEntry h r e
  let h2 := match holderOf r.trunk e with
    | some u => alignSeat (giveFloor h1 u .release) u
    | none => h1
  handOn h2 [r.trunk] (h.roomOf e.seg) false

/-- Cancellation of a GRANTED entry, without the handing on of its slot: DENY where the GRANT was still pending,
RELEASE where it was delivered; the unit becomes IDLE and its confirmation count stops (R77). -/
def cancelEntry (h : Hall) (r : SlotRef) (e : Entry) : Hall :=
  let h1 := dropEntry h r e
  match holderOf r.trunk e with
  | some u =>
    alignSeat (giveFloor (stopConfirm h1 u) u (if h.grantPending u then .deny else .release)) u
  | none => h1

/-- Cancellation with the handing on of the slot and the room's grant handling (R77, R114). -/
def cancelAndHandOn (h : Hall) (r : SlotRef) (e : Entry) : Hall :=
  handOn (cancelEntry h r e) [r.trunk] (h.roomOf e.seg) (!e.chair)

/-- Recall of a GRANTED entry: its unit is queued again with the entry's request stamp, or denied or released where
the queue or the pool is full; the freed slot is handed on (R78). DESIGN CHOICE: a GRANT that a stray unit's RELEASE
displaced counts as delivered (log entry 22). -/
def recallEntry (h : Hall) (r : SlotRef) (e : Entry) : Hall :=
  let h1 := dropEntry h r e
  let h2 := match holderOf r.trunk e, (h.roomOf e.seg).bind h.room with
    | some u, some rm =>
      let delivered := !h.grantPending u
      let h1 := stopConfirm h1 u
      if (h.queueIn rm.segs).length < rm.settings.queueLimit && h.requests.length < Config.poolSize then
        let q : Request :=
          { unit := u, stamp := e.reqStamp, lang := (h.unit u).lang, cls := (h.unit u).cls, score := 0,
            guard := rm.settings.guard, due := false, recalled := delivered }
        let h1 := { h1 with requests := h1.requests ++ [q] }
        if delivered then giveFloor h1 u .release else withdrawGrant h1 u
      else alignSeat (giveFloor h1 u (if delivered then .release else .deny)) u
    | some u, none => alignSeat (giveFloor (stopConfirm h1 u) u (if h.grantPending u then .deny else .release)) u
    | none, _ => h1
  handOn h2 [r.trunk] (h.roomOf e.seg) (!e.chair)

/-! ## New requests -/

/-- The queue of a room and the pool have space for a request (R81, R86). -/
def Hall.hasSpace (h : Hall) (i : SegId) : Bool :=
  match h.room i with
  | some r => (h.queue i).length < r.settings.queueLimit && h.requests.length < Config.poolSize
  | none => false

/-- A request is accepted and stamped: dynamic score 0, the room's guard, due and recalled clear (R73, R81, R107). -/
def acceptRequest (h : Hall) (i : SegId) (u : UnitId) : Hall :=
  match h.room i with
  | some r =>
    let q : Request :=
      { unit := u, stamp := h.seq + 1, lang := (h.unit u).lang, cls := (h.unit u).cls, score := 0,
        guard := r.settings.guard, due := false, recalled := false }
    raiseRoom .floor i { h with seq := h.seq + 1, requests := h.requests ++ [q] }
  | none => h

/-- The oldest non-chair entry of a room in OPENING or OPEN, on any trunk or on one (R84, R86, R89). -/
def oldestOpen (h : Hall) (i : SegId) (t : Option TrunkId) : Option SlotRef :=
  (h.openEntries i).find? fun r => match t with | some x => r.trunk = x | none => true

/-- An accepted request in an unfrozen OVERRIDE room (R84): the oldest speaker is closed when the room is at its
limit; then the request is granted, or the oldest speaker on its trunk is closed for the slot. -/
def overrideArrival (h : Hall) (i : SegId) (u : UnitId) : Hall :=
  let h1 :=
    if h.underLimit i then h
    else match oldestOpen h i none with
      | some r => closeAndHandle h r
      | none => h
  if (h1.requestOf u).isSome && h1.underLimit i then
    if h1.freeCount u.trunk > 0 then grantUnit h1 u none
    else match oldestOpen h1 i (some u.trunk) with
      | some r => closeAndHandle h1 r
      | none => h1
  else h1

/-- A new request from a DELEGATE or VIP unit (R81). -/
def newRequest (h : Hall) (u : UnitId) : Hall :=
  match h.unitRoom u with
  | none => h
  | some i =>
    let h0 := wake h i
    if !h0.hasSpace i then raiseRoom .floor i (giveFloor h0 u .deny)
    else
      let h1 := acceptRequest h0 i u
      match h1.room i with
      | none => h1
      | some r =>
        if r.frozen then h1
        else match r.settings.mode with
          | .auto => arbiterRun h1 i
          | .manual => h1
          | .override => overrideArrival h1 i u

/-- A new request from a CHAIR unit (R86): filed in a frozen room; granted at once where its trunk has a free slot;
filed, with the oldest speaker on its trunk closed, where it has none; denied where it cannot be filed. -/
def chairRequest (h : Hall) (u : UnitId) : Hall :=
  match h.unitRoom u with
  | none => h
  | some i =>
    let h0 := wake h i
    if h0.frozen i then
      if h0.hasSpace i then acceptRequest h0 i u else raiseRoom .floor i (giveFloor h0 u .deny)
    else if h0.freeCount u.trunk > 0 then grantUnit { h0 with seq := h0.seq + 1 } u (some (h0.seq + 1))
    else if h0.hasSpace i then
      let h1 := acceptRequest h0 i u
      match oldestOpen h1 i (some u.trunk) with
      | some r => closeAndHandle h1 r
      | none => h1
    else raiseRoom .floor i (giveFloor h0 u .deny)

/-! ## The floor actions that a chair's keys and a console share -/

/-- Deal with one entry of an ALL-OFF: a non-chair entry in OPENING or OPEN is sent to CLOSING, a non-chair GRANTED
entry is cancelled and its trunk noted. -/
def offOne (x : Hall × List TrunkId) (r : SlotRef) : Hall × List TrunkId :=
  match x.1.entry r with
  | some e =>
    if e.chair then x
    else if e.state = .granted then (cancelEntry x.1 r e, x.2 ++ [r.trunk])
    else (closeEntry x.1 r, x.2)
  | none => x

/-- ALL-OFF in a room: every non-chair entry in OPENING or OPEN is sent to CLOSING and every non-chair GRANTED entry
cancelled; the grant handling runs once, after all of them (R88). -/
def allOff (h : Hall) (i : SegId) : Hall :=
  let refs := (h.speaking i).filter fun x => x.2.counted
  let x := (refs.map (·.1)).foldl offOne (h, [])
  handOn x.1 x.2 (some i) (!refs.isEmpty)

/-! ## Opening and the speak limit -/

/-- The milliseconds at which a speak limit of `l` seconds is to be warned of: 30 s before it, or 0 (R94). -/
def warnAt (l : Nat) : Nat := (l - Config.warnLead) * 1000

/-- A unit is given WARN and marked warned, unless it is warned (R94). -/
def warnUnit (h : Hall) (u : UnitId) : Hall :=
  if (h.unit u).warned then h
  else (giveNotice h u .warn).setUnit u { h.unit u with warned := true }

/-- An opening speaker sets its room's most recent speaker segment, and its declared language, when not 0 and
different, the room's floor language, with a re-evaluation of relay (R95). -/
def setSpeaker (h : Hall) (i : SegId) (sg : SegId) (lang : Nat) : Hall :=
  match h.room i with
  | none => h
  | some r =>
    if lang ≠ 0 && lang ≠ r.floorLang then
      reevaluate (h.setRoom i (some { r with lastSpeaker := some sg, floorLang := lang })) i
    else h.setRoom i (some { r with lastSpeaker := some sg })

/-- A GRANTED unit reports mic-live on its slot: the entry enters OPENING, its speak timer starts unless it is a
chair entry, the room's floor language and most recent speaker are set, and a limit of 30 s or less warns at once
(R80, R94, R95). -/
def openEntry (h : Hall) (u : UnitId) (r : SlotRef) (e : Entry) : Hall :=
  let h1 := stopConfirm
    (h.setEntry r (some { e with state := .opening, timer := if e.chair then none else some 0 })) u
  match h1.roomOf e.seg with
  | none => h1
  | some i =>
    let h2 := raiseRoom .floor i (setSpeaker h1 i e.seg (h.unit u).lang)
    match h2.room i with
    | some rm =>
      if !e.chair && rm.settings.speakLimit ≠ 0 && rm.settings.speakLimit ≤ Config.warnLead then warnUnit h2 u else h2
    | none => h2

/-- A changed speak limit is measured against the running timer of one entry: expiry, warning, or CLEAR-WARN
(R93, step 4; R94). -/
def measureTimer (limit : Nat) (h : Hall) (r : SlotRef) : Hall :=
  match h.entry r with
  | some e =>
    match e.timer, holderOf r.trunk e with
    | some ms, some u =>
      if e.chair then h
      else if limit ≠ 0 && limit * 1000 ≤ ms then closeAndHandle h r
      else if limit ≠ 0 && warnAt limit ≤ ms then warnUnit h u
      else clearWarn h u
    | _, _ => h
  | none => h

/-! ## Reading a reply -/

/-- The pending floor order the latch is read against is DENY or RELEASE: as marked on the reply, or as it now stands
(R79 and the head of 4.4). -/
def answered (h : Hall) (u : UnitId) (mark : Option FloorOrder) : Bool :=
  mark.isSome || (h.addr u).floorOrder = some .deny || (h.addr u).floorOrder = some .release

/-- The request latch of a reply is read against the unit's floor state and the pending floor order (R79; for a CHAIR
unit R86). -/
def readLatch (h : Hall) (u : UnitId) (latch : Bool) (mark : Option FloorOrder) : Hall :=
  match h.floorState u with
  | .idle =>
    if latch && !answered h u mark then
      if (h.unit u).cls = .chair then chairRequest h u else newRequest h u
    else h
  | .waiting =>
    match h.requestOf u with
    | some q =>
      if q.recalled then
        if latch then
          { h with requests := h.requests.map fun x => if x.unit = u then { x with recalled := false } else x }
        else h
      else if latch then h
      else alignSeat (raiseSeat (h.unit u).seat (removeRequest h u)) u
    | none => h
  | .granted =>
    match h.entryOf u with
    | some (r, e) => if latch = h.grantPending u then h else cancelAndHandOn h r e
    | none => h
  | .opening => h
  | .opened => h
  | .closing => h

/-- The mic report of a reply (R80): GRANTED and mic-live on the entry's slot enters OPENING; OPENING or OPEN with
mic-live clear is sent to CLOSING. -/
def readMic (h : Hall) (u : UnitId) (mic : Option SlotIx) : Hall :=
  match h.entryOf u with
  | some (r, e) =>
    if e.state = .granted then if mic = some r.slot then openEntry h u r e else h
    else if e.onAir && mic.isNone then closeAndHandle h r
    else h
  | none => h

/-- The next key of a chair unit acts as GRANT-NEXT for its room; a refusal changes nothing (R88, R116). -/
def chairNext (h : Hall) (u : UnitId) : Hall :=
  match h.unitRoom u with
  | some i => if h.frozen i then h else (selectOnce h i).getD h
  | none => h

/-- The all-off key of a chair unit acts as ALL-OFF for its room (R88). -/
def chairAllOff (h : Hall) (u : UnitId) : Hall :=
  match h.unitRoom u with
  | some i => allOff h i
  | none => h

/-- The declared language and the reported seat of a reply are stored; a WAITING unit's request takes the language,
and an IDLE unit's seat segment follows (R71, R80). -/
def storeReport (h : Hall) (u : UnitId) (lang : Nat) (seat : SegId) : Hall :=
  let h1 := h.setUnit u { h.unit u with lang := lang, reported := some seat }
  alignSeat { h1 with requests := h1.requests.map fun q => if q.unit = u then { q with lang := lang } else q } u

/-- The reported latches and mic report are stored (R70, R79, R88). -/
def storeLatches (h : Hall) (u : UnitId) (x : HandOver) : Hall :=
  h.setUnit u { h.unit u with latch := x.latch, next := x.next, allOff := x.allOff, mic := x.mic }

/-- The floor controller reads a reply of a PRESENT unit: language and seat, request latch, mic report, then the keys
of a chair unit whose latch is set and was clear (R79, R80, R86, R88). A reply left in the hand-over by a unit that
has become ABSENT is not read. -/
def readReply (h : Hall) (u : UnitId) (x : HandOver) : Hall :=
  if !(h.unit u).present then h
  else
    let chair := (h.unit u).cls = .chair
    let h1 := storeReport h u x.lang x.seat
    let h2 := readMic (readLatch h1 u x.latch x.mark) u x.mic
    let h3 := if chair && x.next && !(h.unit u).next then chairNext h2 u else h2
    let h4 := if chair && x.allOff && !(h.unit u).allOff then chairAllOff h3 u else h3
    storeLatches h4 u x

/-! ## Absence -/

/-- What a unit's absence clears at once (R61, R96): its address record, its presence, latches, mic report and warned
mark, and its request; with a FLOOR event for its room. -/
def forgetUnit (h : Hall) (u : UnitId) : Hall :=
  let r := h.unit u
  let h1 := h.setAddr u AddrRec.reset
  let h2 := h1.setUnit u
    { r with present := false, latch := false, next := false, allOff := false, mic := none, warned := false }
  raiseSeat r.seat (removeRequest h2 u)

/-- What a unit's absence does to its speaking entry (R96): GRANTED is removed and its slot handed on; OPENING or OPEN
is sent to CLOSING and orphaned; CLOSING is orphaned. The unit is IDLE after it. -/
def endEntry (h : Hall) (u : UnitId) : Hall :=
  let h1 := match h.entryOf u with
    | some (r, e) =>
      if e.state = .granted then handOn (dropEntry h r e) [r.trunk] (h.roomOf e.seg) (!e.chair)
      else
        let h1 := (closeEntry h r).setEntry r
          (some { e with unit := none, state := .closing, timer := none })
        if e.onAir && !e.chair then grantHandlingAt h1 (h.roomOf e.seg) else h1
    | none => h
  alignSeat h1 u

/-- The units given become ABSENT by one event: all are forgotten first, so that none of them has a waiting request
when the slots are handed on (R103), then each one's entry is ended (R61, R96). The TRUNK event is the caller's. -/
def makeAbsent (h : Hall) (us : List UnitId) : Hall :=
  us.foldl endEntry (us.foldl forgetUnit h)

/-- The PRESENT units of a trunk, in ascending address. -/
def presentOn (h : Hall) (t : TrunkId) : List UnitId := (unitsOf t).filter fun u => (h.unit u).present

end Sys2Proof.Machine
end

