-- ==== Sys2Proof/Machine/Regroup.lean ====
section
/-! DEFINITION. Effective walls and maps (R7, R21, R22), the reports of the wall scanner and what the regroup
controller does on them (R8, R24, R25), the consent round (R26), abandon (R27), and DRAIN (R35 to R37). -/

namespace Sys2Proof.Machine

/-! ## Walls as the regroup controller reads them -/

/-- The effective state of a wall; none for an undefined wall (R7). -/
def effective (w : Wall) : Option Settled :=
  if w.pair.isNone then none
  else match w.ovr with
    | .follow => some w.settled
    | .forceOpen => some .opened
    | .forceClosed => some .closed

/-- A defined wall is settling or moving (R8). -/
def unsettled (w : Wall) : Bool :=
  w.pair.isSome && (w.settle.isSome || match w.stuck with | .running _ => true | _ => false)

/-- The hall is at rest: no defined wall is settling or moving (R8). -/
def atRest (sc : Scanner) : Bool := (List.finRange 12).all fun i => !unsettled sc.walls[i]

/-- The segments a wall joins: those of a defined wall whose effective state is OPEN (R7). -/
def joins (w : Wall) : Option (SegId × SegId) := if effective w = some .opened then w.pair else none

/-! ## Maps -/

/-- Joining segments `a` and `b`: the rooms they lie in take the lower of their labels. -/
def joinLabels (lab : Vector SegId 8) (a b : SegId) : Vector SegId 8 :=
  tab fun s => if lab[s] = max lab[a] lab[b] then min lab[a] lab[b] else lab[s]

/-- The room id of each segment: the lowest segment it is joined to by open walls (R21). -/
def roomLabels (sc : Scanner) : Vector SegId 8 :=
  ((List.finRange 12).filterMap fun i => joins sc.walls[i]).foldl (fun l p => joinLabels l p.1 p.2) (tab id)

/-- The segment of a set with the highest lead rank, the lowest of those that share it (R14, R21). -/
def leadOf (ranks : Vector Nat 8) (x : SegSet) : Option SegId :=
  (allSegIds.filter (inSet x)).foldl
    (fun best s => match best with
      | none => some s
      | some b => if ranks[b] < ranks[s] then some s else some b) none

/-- The map of the present effective states and ranks, its rooms in ascending id (R21). -/
def computeMap (sc : Scanner) : List MapRoom :=
  let lab := roomLabels sc
  allSegIds.filterMap fun i =>
    let x := setWhere fun s => lab[s] = i
    (leadOf sc.ranks x).map fun l => { id := i, segs := x, lead := l }

/-- Two maps are equal when they divide the segments into the same sets (R22). -/
def sameMap (a b : List MapRoom) : Bool := a.map (·.segs) = b.map (·.segs)

/-- The companions of a segment in a map (R26). -/
def companions (m : List MapRoom) (s : SegId) : SegSet :=
  match m.find? fun r => inSet r.segs s with
  | some r => r.segs
  | none => 0

/-- The affected set: the segments whose companions differ between two maps (R26). -/
def affectedSet (a b : List MapRoom) : SegSet := setWhere fun s => companions a s ≠ companions b s

/-- The frozen rooms, in ascending id. -/
def Hall.frozenRooms (h : Hall) : List SegId := h.roomIds.filter fun i => h.frozen i

/-- Every room's freeze flag is set as `f` says. -/
def setFrozen (h : Hall) (f : SegId → Bool) : Hall :=
  { h with rooms := tab fun i => (h.rooms[i]).map fun r => { r with frozen := f i } }

/-! ## DRAIN -/

/-- The GRANTED entries of the frozen rooms, by ascending room id and grant stamp. -/
def grantedInFrozen (h : Hall) : List SlotRef :=
  h.frozenRooms.flatMap fun i => ((h.speaking i).filter fun x => x.2.state = .granted).map (·.1)

/-- Recall of the entry in a slot, if it is still GRANTED (R78). -/
def recallAt (h : Hall) (r : SlotRef) : Hall :=
  match h.entry r with
  | some e => if e.state = .granted then recallEntry h r e else h
  | none => h

/-- The open limit a pending room inherits: that of the active room it continues, or of its lead's defaults (R36). -/
def inheritedLimit (sc : Scanner) (h : Hall) (m : MapRoom) : Nat :=
  match (allSegIds.filterMap h.room).find? fun r => r.lead = m.lead with
  | some r => r.settings.openLimit
  | none => (sc.defaults[m.lead]).settings.openLimit

/-- The non-chair entries in OPENING or OPEN filed in the segments `x`, oldest grant stamp first. -/
def openIn (h : Hall) (x : SegSet) : List SlotRef :=
  ((h.entriesIn x).filter fun y => !y.2.chair && y.2.onAir).map (·.1)

/-- Of the open non-chair entries in `x`, the newest `limit` are kept and the rest sent to CLOSING (R36, R40). -/
def trimTo (h : Hall) (x : SegSet) (limit : Nat) : Hall :=
  let refs := openIn h x
  (refs.take (refs.length - limit)).foldl closeEntry h

/-- Trimming of the pending rooms made of affected segments (R36). -/
def trimPending (sc : Scanner) (rg : Regroup) (h : Hall) : Hall :=
  (rg.pendingMap.filter fun m => (m.segs &&& rg.affected) ≠ 0).foldl
    (fun g m => trimTo g m.segs (inheritedLimit sc g m)) h

/-- Some frozen room holds a CLOSING entry (R37). -/
def closingInFrozen (h : Hall) : Bool :=
  h.frozenRooms.any fun i => (h.speaking i).any fun x => x.2.state = .closing

/-- The end of DRAIN is tested: with no CLOSING entry in a frozen room, COMMIT-WAIT is entered (R37). -/
def drainTest (s : State) : State :=
  if s.regroup.state = .drain && !closingInFrozen s.hall then
    { s with regroup := { s.regroup with state := .commitWait } }
  else s

/-- DRAIN is entered: REGROUP for every port, the recall of the GRANTED entries of the frozen rooms, trimming, and
the test of its end (R35 to R37). -/
def enterDrain (s : State) : State :=
  let h1 := raise .regroup allSegs s.hall
  let h2 := (grantedInFrozen h1).foldl recallAt h1
  drainTest { s with regroup := { s.regroup with state := .drain }, hall := trimPending s.scanner s.regroup h2 }

/-! ## Consent -/

/-- The ports of role CONSOLE whose scope holds a segment of `x` (R26). -/
def consolesOf (h : Hall) (x : SegSet) : List PortId :=
  (List.finRange 4).filter fun p => (h.ports[p]).role = .console && ((h.ports[p]).scope &&& x) ≠ 0

/-- CONSENT is entered for the pending map (R26): affected set, frozen rooms with the grant handling of those a
fresh round unfreezes, consent set, round number, deadline and REGROUP; DRAIN at once when the consent set is
empty. -/
def enterConsent (s : State) : State :=
  let x := affectedSet s.hall.activeMap s.regroup.pendingMap
  let hit := s.hall.roomIds.filter fun i => (s.hall.segsOf i &&& x) ≠ 0
  let freed := s.hall.frozenRooms.filter fun i => !hit.contains i
  let h1 := unfreeze (setFrozen s.hall fun i => hit.contains i) freed
  let cs := consolesOf h1 x
  let s1 :=
    { s with
      regroup := { s.regroup with
        state := .consent, isOpen := true, affected := x, consent := cs, holds := [], silent := [],
        round := s.regroup.round + 1, deadline := some (s.regroup.consentSecs * 1000) },
      hall := raise .regroup allSegs h1 }
  if cs.isEmpty then enterDrain { s1 with regroup := { s1.regroup with deadline := none } } else s1

/-- The regroup is abandoned: the walls have come back to the active map (R27). The silent list is kept. -/
def abandon (s : State) : State :=
  let freed := s.hall.frozenRooms
  { s with
    regroup := { s.regroup with
      state := .steady, isOpen := false, affected := 0, consent := [], holds := [], deadline := none },
    hall := unfreeze (raise .regroup allSegs (setFrozen s.hall fun _ => false)) freed }

/-! ## Reports of the wall scanner -/

/-- A wall change report (R24): the controller enters SETTLING from every state, the deadline stops in CONSENT, and
nothing else changes. -/
def wallChange (s : State) : State :=
  { s with regroup := { s.regroup with
      state := .settling,
      deadline := if s.regroup.state = .consent then none else s.regroup.deadline } }

/-- A rest report (R25): the pending map is computed and compared with the active map. -/
def restReport (s : State) : State :=
  let s1 := { s with regroup := { s.regroup with pendingMap := computeMap s.scanner } }
  if sameMap s1.regroup.pendingMap s1.hall.activeMap then
    if s1.regroup.isOpen then abandon s1
    else { s1 with regroup := { s1.regroup with state := .steady } }
  else enterConsent s1

/-- The rest report that follows when the hall has come to rest, or is at rest after a change (R8). -/
def restIfAtRest (s : State) : State := if atRest s.scanner then restReport s else s

end Sys2Proof.Machine
end

