-- ==== Sys2Proof/Machine/Commit.lean ====
section
/-! DEFINITION. The commit (R38 to R45, with R134, R135, R142 to R144, R149 and R165) and the application of REINIT
(R179, with R47, R48, R99, R136, R146), each taken at one mix block start. -/

namespace Sys2Proof.Machine

/-- The port of role CONSOLE whose scope holds a segment (R19). -/
def consoleOf (h : Hall) (sg : SegId) : Option PortId :=
  (List.finRange 4).find? fun p => (h.ports[p]).role = .console && inSet (h.ports[p]).scope sg

/-- One more than the highest generation among the active rooms that share a segment with `x`, wrapping (R44). -/
def nextGen (h : Hall) (x : SegSet) : BitVec 16 :=
  BitVec.ofNat 16 ((h.sharing x).foldl (fun n y => max n y.2.gen.toNat) 0) + 1

/-- A room built from its lead segment's defaults record, as a room that continues no room (R15, R39), with its
placed window, its generation and its controlling console. -/
def freshRoom (sc : Scanner) (h : Hall) (m : MapRoom) (p : Plan) : Room :=
  let d := sc.defaults[m.lead]
  { segs := m.segs, lead := m.lead, gen := nextGen h m.segs, settings := d.settings, base := p.base, size := p.size,
    langs := p.langs, placement := p.placement, dropped := p.dropped, floorLang := d.floorLang, lastSpeaker := none,
    elevated := none, frozen := false, dormant := false, idle := none, clip := 0, console := consoleOf h m.lead,
    staging := Staging.empty }

/-- A room rebuilt at a commit (R39, R42, R44): it continues the active room with its lead segment, or is fresh. -/
def rebuiltRoom (sc : Scanner) (h : Hall) (m : MapRoom) (p : Plan) : Room :=
  match h.ledBy m.lead with
  | none => freshRoom sc h m p
  | some (_, r) =>
    { freshRoom sc h m p with
      settings := r.settings, floorLang := r.floorLang, clip := r.clip, elevated := r.elevated,
      lastSpeaker := match r.lastSpeaker with
        | some sg => if inSet m.segs sg then some sg else none
        | none => none }

/-- The plan made for a map room; every rebuilt room has one. -/
def planOf (ps : List Plan) (m : MapRoom) : Plan :=
  match ps.find? fun p => p.id = m.id with
  | some p => p
  | none => cutPlan m.id 0 0 0 []

/-- The active rooms replaced: the rooms that share a segment with `x` go, the rooms `ms` come (R38). -/
def replaceRooms (h : Hall) (x : SegSet) (ms : List MapRoom) (build : MapRoom → Room) : Hall :=
  { h with rooms := tab fun i =>
      match ms.find? fun m => m.id = i with
      | some m => some (build m)
      | none => match h.rooms[i] with
        | some r => if (r.segs &&& x) ≠ 0 then none else some r
        | none => none }

/-- A waiting unit is denied: its request leaves the pool, it is given DENY and becomes IDLE (R41, R93). -/
def denyWaiting (h : Hall) (u : UnitId) : Hall := alignSeat (giveFloor (removeRequest h u) u .deny) u

/-- The newest requests of room `i` beyond its queue limit are removed, each unit denied (R41, R93). -/
def cutQueue (h : Hall) (i : SegId) : Hall :=
  match h.room i with
  | some r => (((h.queue i).drop r.settings.queueLimit).map (·.unit)).foldl denyWaiting h
  | none => h

/-- A rebuilt room's speaking list and queue are brought within its limits (R40, R41), and an elevated mark on a
request no longer in its queue is cleared (R42). DESIGN CHOICE: an entry that comes into a room with another speak limit
keeps its timer and its unit's warned mark, and no CLEAR-WARN is given: R94 states only a limit changed by SET-ROOM. The
new limit is measured as the part's time passes (`speakDueAt`; log entry 31). -/
def refileRoom (h : Hall) (i : SegId) : Hall :=
  match h.room i with
  | none => h
  | some r =>
    let h1 := cutQueue (trimTo h r.segs r.settings.openLimit) i
    let h2 := lowerScores h1 r.segs r.settings.max r.settings.guard
    let h3 := h2.mapRoom i fun r => match r.elevated with
      | some u => if (h2.queue i).any fun q => q.unit = u then r else { r with elevated := none }
      | none => r
    raiseRoom .floor i h3

/-! ## Booths at the commit -/

/-- A booth stood by: STANDBY, its source FLOOR, its pin and no-pivot flag clear, its displaced flag as given
(R123, R134, R136). -/
def standBy (displaced : Bool) (b : Booth) : Booth :=
  { b with state := .standby, source := .floor, pin := none, noPivot := false, displaced := displaced }

/-- Among the LIVE booths of one room with one output language, the one that stays LIVE: the one that served the
continued room `old`, when exactly one did, else the lowest id (R134, step 2). -/
def keeper (before : Hall) (old : Option SegId) (group : List BoothId) : Option BoothId :=
  match group.filter fun b => old.isSome && before.boothRoom b = old with
  | [b] => some b
  | _ => group.head?

/-- Whether booth `b` of rebuilt room `i` must stand by at the commit: a duplicate that is not kept, or a language
not in the room's list (R134). -/
def displacedAt (before h : Hall) (i : SegId) (r : Room) (b : BoothId) : Bool :=
  let code := (h.booths[b]).output
  let group := (h.liveBooths i).filter fun c => (h.booths[c]).output = code
  keeper before ((before.ledBy r.lead).map (·.1)) group ≠ some b || !r.langs.contains code

/-- Duplicates and dropped languages of one rebuilt room (R134). -/
def settleBooths (before : Hall) (h : Hall) (i : SegId) : Hall :=
  match h.room i with
  | none => h
  | some r =>
    let out := (h.liveBooths i).filter fun b => displacedAt before h i r b
    if out.isEmpty then h
    else raiseRoom .booth i
      { h with booths := tab fun b => if out.contains b then standBy true h.booths[b] else h.booths[b] }

/-- The pins of a rebuilt room's LIVE booths whose target is not LIVE in the room are cleared, with a BOOTH event
(R132, R135). -/
def clearLostPins (h : Hall) (i : SegId) : Hall :=
  let live := h.liveBooths i
  let lost := live.filter fun b => match (h.booths[b]).pin with
    | some (.booth t) => !live.contains t
    | _ => false
  if lost.isEmpty then h
  else raiseRoom .booth i
    { h with booths := tab fun b => if lost.contains b then { h.booths[b] with pin := none } else h.booths[b] }

/-- The booth controller's part of a commit (R134, R135): the rebuilt rooms in ascending id. -/
def commitBooths (before : Hall) (h : Hall) (is : List SegId) : Hall :=
  is.foldl reevaluate (is.foldl clearLostPins (is.foldl (settleBooths before) h))

/-! ## The commit -/

/-- The state the controller enters when a commit or REINIT has set the active map (R45, R48). -/
def restState (sc : Scanner) : RegState := if atRest sc then .steady else .settling

/-- The windows of the rooms that share no segment with `x` (R143). -/
def heldWindows (h : Hall) (x : SegSet) : List (Nat × Nat) :=
  (allSegIds.filterMap h.room).filterMap fun r => if (r.segs &&& x) = 0 then some (r.base, r.size) else none

/-- The commit (R38 to R45). -/
def commit (s : State) : State :=
  let before := s.hall
  let x := s.regroup.affected
  let ms := s.regroup.pendingMap.filter fun m => (m.segs &&& x) ≠ 0
  let ids := ms.map (·.id)
  let plans := placeWindows (heldWindows before x) (ms.map (startPlan s.scanner before))
  let h1 := replaceRooms before x ms fun m => rebuiltRoom s.scanner before m (planOf plans m)
  let h2 := commitBooths before (ids.foldl refileRoom h1) ids
  let h3 := raise .regroup allSegs (ids.foldl (fun h i => raiseRoom .room i h) (setFrozen h2 fun _ => false))
  { s with
    regroup := { s.regroup with
      state := restState s.scanner, isOpen := false, affected := 0, consent := [], holds := [],
      pendingMap := h3.activeMap },
    hall := unfreeze h3 ids }

/-! ## REINIT -/

/-- A unit at REINIT (R99): its request or entry has gone; DENY for a request, RELEASE and, when warned, CLEAR-WARN
for an entry; IDLE and unwarned. -/
def reinitUnit (before : Hall) (h : Hall) (u : UnitId) : Hall :=
  let h1 :=
    if (before.requestOf u).isSome then giveFloor h u .deny
    else if (before.entryOf u).isSome then
      let h1 := giveFloor (stopConfirm h u) u .release
      if (before.unit u).warned then giveNotice h1 u .clearWarn else h1
    else h
  alignSeat (h1.setUnit u { h1.unit u with warned := false }) u

/-- The floor controller empties every queue and speaking list; every slot is free (R99, R100). -/
def reinitFloor (h : Hall) : Hall :=
  let h1 := { h with
    requests := [],
    pools := Vector.replicate 4 (Vector.replicate 8 none),
    rooms := tab fun i => (h.rooms[i]).map fun r => { r with elevated := none } }
  raise .floor allSegs (allUnits.foldl (reinitUnit h) h1)

/-- A booth at REINIT: a LIVE booth stands by; every source is FLOOR and every pin and flag clear (R136). -/
def reinitBooth (b : Booth) : Booth :=
  { b with state := if b.state = .live then .standby else b.state, source := .floor, pin := none, noPivot := false,
           displaced := false }

/-- REINIT is applied (R179). -/
def reinitApply (s : State) : State :=
  let m := computeMap s.scanner
  let h0 := reinitFloor s.hall
  let plans := placeWindows [] (m.map (freshPlan s.scanner))
  let h1 := replaceRooms h0 allSegs m fun r => freshRoom s.scanner h0 r (planOf plans r)
  let h2 := { h1 with
    booths := tab fun b => reinitBooth h1.booths[b],
    ports := tab fun p => { h1.ports[p] with reinitPending := false } }
  { s with
    regroup := { s.regroup with
      state := restState s.scanner, isOpen := false, affected := 0, consent := [], holds := [], silent := [],
      deadline := none, pendingMap := m },
    hall := raise .regroup allSegs (raise .room allSegs (raise .booth allSegs h2)) }

end Sys2Proof.Machine
end

