-- ==== Sys2Proof/Machine/Operands.lean ====
section
/-! DEFINITION. How command payloads carry fields and answers carry values (9.2.1): identifiers, settings, enumerated
values, lists, selections of named fields and presence bytes; and the clamping of settings (R16, R92, R172). -/

namespace Sys2Proof.Machine

/-! ## Identifiers: out of range is none -/

/-- A byte as an identifier below `n`. -/
def idOf (n : Nat) (b : Byte) : Option (Fin n) := if h : b.toNat < n then some ⟨b.toNat, h⟩ else none

/-- A unit from its two bytes, trunk then address 1 to 60 (9.2.1). -/
def unitOf (t a : Byte) : Option UnitId :=
  match idOf 4 t, idOf 61 a with
  | some x, some y => if hy : y.val = 0 then none else some { trunk := x, addr := ⟨y.val - 1, by omega⟩ }
  | _, _ => none

/-- An identifier, or the named value coded 255 (9.2.1); out of range is none. -/
def idOrNamed (n : Nat) (b : Byte) : Option (Option (Fin n)) :=
  if b.toNat = 255 then some none else (idOf n b).map some

/-- A two-byte value, high byte first (9.2.1). -/
def wordOf (hi lo : Byte) : Nat := hi.toNat * 256 + lo.toNat

/-! ## Enumerated values: the position in the list that the owning rule gives -/

def modeOf : Nat → Option Mode
  | 0 => some .auto
  | 1 => some .manual
  | 2 => some .override
  | _ => none

def overrideOf : Nat → Option Override
  | 0 => some .follow
  | 1 => some .forceOpen
  | 2 => some .forceClosed
  | _ => none

def classOf : Nat → Option UnitClass
  | 0 => some .delegate
  | 1 => some .vip
  | 2 => some .chair
  | _ => none

def powerOf : Nat → Option PowerMode
  | 0 => some .off
  | 1 => some .on
  | 2 => some .auto
  | _ => none

def sideOf : Nat → Option Side
  | 0 => some .a
  | 1 => some .b
  | _ => none

/-- On or off, in the order "on or off" of R125, R118 and R148: on is 0 (log entry 8). -/
def onOffOf : Nat → Option Bool
  | 0 => some true
  | 1 => some false
  | _ => none

def ackOf : Nat → Option AckMode
  | 0 => some .readClears
  | 1 => some .explicit
  | _ => none

def attOf : Nat → Option AttMode
  | 0 => some .level
  | 1 => some .pulse
  | _ => none

def modeCode : Mode → Nat
  | .auto => 0
  | .manual => 1
  | .override => 2

def readingCode : Reading → Nat
  | .closed => 0
  | .opened => 1
  | .moving => 2
  | .conflict => 3

def settledCode : Settled → Nat
  | .closed => 0
  | .opened => 1
  | .fault => 2

def overrideCode : Override → Nat
  | .follow => 0
  | .forceOpen => 1
  | .forceClosed => 2

def regStateCode : RegState → Nat
  | .steady => 0
  | .settling => 1
  | .consent => 2
  | .drain => 3
  | .commitWait => 4

def placementCode : Placement → Nat
  | .asBase => 0
  | .relocated => 1
  | .shrunk => 2
  | .noWindow => 3
  | .moved => 4

def powerCode : PowerMode → Nat
  | .off => 0
  | .on => 1
  | .auto => 2

def trunkStateCode : TrunkState → Nat
  | .unpowered => 0
  | .tripped => 1
  | .up => 2
  | .degraded => 3
  | .down => 4

def classCode : UnitClass → Nat
  | .delegate => 0
  | .vip => 1
  | .chair => 2

def floorStateCode : FloorState → Nat
  | .idle => 0
  | .waiting => 1
  | .granted => 2
  | .opening => 3
  | .opened => 4
  | .closing => 5

def entryStateCode : EntryState → Nat
  | .granted => 0
  | .opening => 1
  | .opened => 2
  | .closing => 3

def boothStateCode : BoothState → Nat
  | .unassigned => 0
  | .standby => 1
  | .live => 2

def sideCode : Side → Nat
  | .a => 0
  | .b => 1

def roleCode : Role → Nat
  | .unused => 0
  | .console => 1
  | .desk => 2
  | .venue => 3

def ackCode : AckMode → Nat
  | .readClears => 0
  | .explicit => 1

def attCode : AttMode → Nat
  | .level => 0
  | .pulse => 1

/-- The status codes of Table 9-3. -/
def statusCode : Status → Nat
  | .done => 0
  | .doneClamped => 1
  | .busy => 2
  | .check => 3
  | .role => 4
  | .scope => 5
  | .stale => 6
  | .range => 7
  | .full => 8
  | .noSlot => 9
  | .duplicate => 10
  | .loop => 11
  | .overlap => 12
  | .locked => 13
  | .state => 14
  | .unknown => 15

/-! ## Reading payloads -/

/-- The expected generation that begins a room-selecting command's payload: a presence byte and two generation bytes,
ignored when it is 0; with any other presence byte, or too short, none (9.2.1, R171 step 4). -/
def condHead : List Byte → Option (Option (BitVec 16) × List Byte)
  | c :: hi :: lo :: rest =>
    if c = 0 then some (none, rest)
    else if c = 1 then some (some (BitVec.ofNat 16 (wordOf hi lo)), rest)
    else none
  | _ => none

/-- A list: a count byte followed by exactly its items (9.2.1). -/
def wholeList : List Byte → Option (List Nat)
  | c :: items => if items.length = c.toNat then some (items.map (·.toNat)) else none
  | [] => none

/-- The value of a named field: a two-byte value, or a list (9.2.1). -/
inductive FieldValue where
  | word (n : Nat)
  | list (l : List Nat)
  deriving DecidableEq, Repr

/-- Exactly `n` named fields. `kind` says of a field number whether it is a list field, and is none for a number the
command does not have (9.2.1, R171 step 4). -/
def fieldItems (kind : Nat → Option Bool) : Nat → List Byte → Option (List (Nat × FieldValue))
  | 0, [] => some []
  | 0, _ :: _ => none
  | _ + 1, [] => none
  | n + 1, f :: rest =>
    match kind f.toNat with
    | none => none
    | some false =>
      match rest with
      | hi :: lo :: tail => (fieldItems kind n tail).map fun l => (f.toNat, .word (wordOf hi lo)) :: l
      | _ => none
    | some true =>
      match rest with
      | c :: tail =>
        if tail.length < c.toNat then none
        else (fieldItems kind n (tail.drop c.toNat)).map fun l =>
          (f.toNat, .list ((tail.take c.toNat).map (·.toNat))) :: l
      | [] => none

/-- A selection of named fields: a count byte and its items (9.2.1). -/
def fieldsOf (kind : Nat → Option Bool) : List Byte → Option (List (Nat × FieldValue))
  | c :: rest => fieldItems kind c.toNat rest
  | [] => none

/-- The fields of SET-ROOM: 1 to 14, in the order of R92. -/
def roomFieldKind (n : Nat) : Option Bool := if 1 ≤ n ∧ n ≤ 14 then some false else none

/-- The fields of SET-SEGMENT-DEFAULTS: 1 to 18, in the order of R15; 17 is the wanted list. -/
def defaultsFieldKind (n : Nat) : Option Bool :=
  if n = 17 then some true else if 1 ≤ n ∧ n ≤ 18 then some false else none

/-- The fields of SET-UNIT: 1 seat override, 2 class, 3 gain, in the order of R72. -/
def unitFieldKind (n : Nat) : Option Bool := if 1 ≤ n ∧ n ≤ 3 then some false else none

/-! ## Clamping of settings -/

/-- A value brought to the nearer end of a range. -/
def clampTo (lo hi n : Nat) : Nat := max lo (min n hi)

/-- A speak limit: 0, or 10 to 3600 s; 1 to 9 becomes 10 (R16). -/
def clampSpeak (n : Nat) : Nat := if n = 0 then 0 else clampTo 10 3600 n

/-- A ramp length: the allowed length at or next above the value, or 768 (R16). -/
def clampRamp (n : Nat) : Nat := if n ≤ 96 then 96 else if n ≤ 192 then 192 else if n ≤ 384 then 384 else 768

/-- A probe count: the allowed count at or next below the value, or 8 (R54). -/
def clampProbes (n : Nat) : Nat := if n < 1 then 0 else if n < 2 then 1 else if n < 4 then 2 else if n < 8 then 4 else 8

/-- One named setting written, brought into its range, with whether it was clamped (R15, R16, R92). The mode is an
enumerated value, checked before anything is written. -/
def writeSetting (s : Settings) (field n : Nat) : Settings × Bool :=
  match field with
  | 1 => (match modeOf n with | some m => { s with mode := m } | none => s, false)
  | 2 => ({ s with openLimit := clampTo 1 8 n }, clampTo 1 8 n ≠ n)
  | 3 => ({ s with queueLimit := clampTo 1 48 n }, clampTo 1 48 n ≠ n)
  | 4 => ({ s with speakLimit := clampSpeak n }, clampSpeak n ≠ n)
  | 5 => ({ s with vip := clampTo 0 15 n }, clampTo 0 15 n ≠ n)
  | 6 => ({ s with langBonus := clampTo 0 7 n }, clampTo 0 7 n ≠ n)
  | 7 => ({ s with segBonus := clampTo 0 7 n }, clampTo 0 7 n ≠ n)
  | 8 => ({ s with jump := clampTo 0 15 n }, clampTo 0 15 n ≠ n)
  | 9 => ({ s with max := clampTo 0 15 n }, clampTo 0 15 n ≠ n)
  | 10 => ({ s with guard := clampTo 1 32 n }, clampTo 1 32 n ≠ n)
  | 11 => ({ s with duck := clampTo 0 16384 n }, clampTo 0 16384 n ≠ n)
  | 12 => ({ s with gain := clampTo 0 32767 n }, clampTo 0 32767 n ≠ n)
  | 13 => ({ s with ramp := clampRamp n }, clampRamp n ≠ n)
  | 14 => ({ s with idle := clampTo 0 240 n }, clampTo 0 240 n ≠ n)
  | _ => (s, false)

/-- The jump rule, applied after the named fields are written: with max above 0 and jump at or above max, jump
becomes max − 1 (R16). -/
def jumpRule (s : Settings) : Settings × Bool :=
  if 0 < s.max && s.max ≤ s.jump then ({ s with jump := s.max - 1 }, true) else (s, false)

/-- The named settings written in order, then the jump rule; with whether any value was clamped (R16, R92). -/
def writeSettings (s : Settings) (fs : List (Nat × FieldValue)) : Settings × Bool :=
  let x := fs.foldl (fun (acc : Settings × Bool) f => match f.2 with
    | .word n => let y := writeSetting acc.1 f.1 n; (y.1, acc.2 || y.2)
    | .list _ => acc) (s, false)
  let y := jumpRule x.1
  (y.1, x.2 || y.2)

/-- A named mode that is none of the three modes (R16, R92). -/
def badMode (fs : List (Nat × FieldValue)) : Bool :=
  fs.any fun f => match f.2 with | .word n => f.1 = 1 && (modeOf n).isNone | .list _ => false

/-! ## Writing answers -/

/-- A value in one byte. -/
def b1 (n : Nat) : List Byte := [BitVec.ofNat 8 n]

/-- A value in two bytes, high byte first. -/
def b2 (n : Nat) : List Byte := [BitVec.ofNat 8 (n / 256), BitVec.ofNat 8 n]

/-- A value in four bytes, high byte first. -/
def b4 (n : Nat) : List Byte :=
  [BitVec.ofNat 8 (n / 16777216), BitVec.ofNat 8 (n / 65536), BitVec.ofNat 8 (n / 256), BitVec.ofNat 8 n]

/-- A value that may be absent, none or stopped (9.2.1). -/
def bOpt {α : Type} (f : α → List Byte) : Option α → List Byte
  | some x => b1 1 ++ f x
  | none => b1 0

/-- A list: a count byte followed by its items (9.2.1). -/
def bList {α : Type} (f : α → List Byte) (l : List α) : List Byte := b1 l.length ++ l.flatMap f

/-- A record field whose two values the record table lists, the first of them when `x` (9.2.1; log entry 8). -/
def bFirst (x : Bool) : List Byte := b1 (if x then 0 else 1)

/-- The answer to "whether", 1 for yes (log entry 8). -/
def bWhether (x : Bool) : List Byte := b1 (if x then 1 else 0)

def bSeg (x : SegId) : List Byte := b1 x.val

def bSegSet (x : SegSet) : List Byte := [x]

def bUnit (u : UnitId) : List Byte := b1 u.trunk.val ++ b1 (u.addr.val + 1)

def bPort (p : PortId) : List Byte := b1 p.val

def bStamp (x : Stamp) : List Byte := b4 x.toNat

/-- A source: the booth's number, or 255 for FLOOR (9.2.1). -/
def bSource : Source → List Byte
  | .floor => b1 255
  | .booth b => b1 b.val

end Sys2Proof.Machine
end

