-- ==== Sys2Proof/Machine/Ports.lean ====
section
/-! DEFINITION. The port interfaces (Chapter 9): the answer buffer and its frame (R168, R169, Table 9-2), and the
checks a taken command passes before its owning rule's (R171), for a command that selects no room and for one that
does (R172, R176, R177). -/

namespace Sys2Proof.Machine

/-- What the owning rule of a command answers: a refusal with its status, or the state the command leaves, with
whether a setting was clamped and the values a read returns. -/
inductive Reply where
  | refuse (st : Status)
  | done (clamped : Bool) (payload : List Byte) (s : State)

/-- Change the record of a port. -/
def State.setPort (s : State) (p : PortId) (x : Port) : State :=
  { s with hall := { s.hall with ports := put s.hall.ports p x } }

/-- A port's answer buffer takes an answer (R169). -/
def setAnswer (s : State) (p : PortId) (tag : Byte) (st : Status) (payload : List Byte) : State :=
  s.setPort p { s.hall.ports[p] with answer := { tag := tag, status := st, payload := payload } }

/-- The bytes of an answer frame (Table 9-2). -/
def answerFrame (a : Answer) : List Byte :=
  let body := a.tag :: BitVec.ofNat 8 (statusCode a.status) :: (b2 a.payload.length ++ a.payload)
  body ++ checkBytes body

/-- The `n` bytes a port shifts out during a transaction: its answer frame, then 00 (R169). -/
def shiftOut (s : State) (p : PortId) (n : Nat) : List Byte :=
  (answerFrame (s.hall.ports[p]).answer ++ List.replicate n 0).take n

/-- DONE, or DONE-CLAMPED when a setting was brought into range (R172). -/
def doneStatus (clamped : Bool) : Status := if clamped then .doneClamped else .done

/-- The roles named "Any" in Table 9-4. -/
def anyRole : List Role := [.console, .desk, .venue]

/-- The checks of R171 on a command that selects no room: BUSY, ROLE, RANGE for a payload that is not the command's,
then the owning rule's; and the answer. `args` is the payload as read, none where it cannot be. -/
def takeCommand {α : Type} (s : State) (p : PortId) (tag : Byte) (roles : List Role) (args : Option α)
    (body : α → Reply) : State :=
  if (s.hall.ports[p]).reinitPending then setAnswer s p tag .busy []
  else if !roles.contains (s.hall.ports[p]).role then setAnswer s p tag .role []
  else match args with
    | none => setAnswer s p tag .range []
    | some a =>
      match body a with
      | .refuse st => setAnswer s p tag st []
      | .done c l s' => setAnswer s' p tag (doneStatus c) l

/-- The field that selects a room: a segment byte, or the two bytes of a unit (Table 9-4). -/
inductive Selector where
  | seg (b : Byte)
  | unit (t a : Byte)
  deriving DecidableEq, Repr

/-- The room a command selects, or the answer of R171, step 5: RANGE for an identifier out of range, STATE for a unit
with no seat segment. -/
def selectRoom (h : Hall) : Selector → Except Status SegId
  | .seg b =>
    match idOf 8 b with
    | none => .error .range
    | some sg => match h.roomOf sg with
      | some i => .ok i
      | none => .error .state
  | .unit t a =>
    match unitOf t a with
    | none => .error .range
    | some u => match h.unitRoom u with
      | some i => .ok i
      | none => .error .state

/-- The room id and generation that a room-selecting command's answer carries (R172). -/
def roomTail (h : Hall) (i : SegId) : List Byte :=
  bSeg i ++ b2 (match h.room i with | some r => r.gen.toNat | none => 0)

/-- The scope check (R176): the venue passes; a console passes when its scope holds the room's lead segment. -/
def scopeOk (h : Hall) (p : PortId) (i : SegId) : Bool :=
  match (h.ports[p]).role with
  | .venue => true
  | .console => match h.room i with
    | some r => inSet (h.ports[p]).scope r.lead
    | none => false
  | .desk => false
  | .unused => false

/-- The generation check (R177): an expected generation that differs refuses the command. -/
def genOk (h : Hall) (i : SegId) (expected : Option (BitVec 16)) : Bool :=
  match expected, h.room i with
  | some g, some r => g = r.gen
  | _, _ => true

/-- The checks of R171 on a room-selecting command, which CONSOLE and VENUE may give (Table 9-4): BUSY, ROLE, the
payload, the room selected, SCOPE, STALE, then the owning rule's. -/
def takeRoomCommand {α : Type} (s : State) (p : PortId) (tag : Byte)
    (args : Option (Option (BitVec 16) × Selector × α)) (body : SegId → α → Reply) : State :=
  if (s.hall.ports[p]).reinitPending then setAnswer s p tag .busy []
  else if !([.console, .venue] : List Role).contains (s.hall.ports[p]).role then setAnswer s p tag .role []
  else match args with
    | none => setAnswer s p tag .range []
    | some (expected, sel, a) =>
      match selectRoom s.hall sel with
      | .error st => setAnswer s p tag st []
      | .ok i =>
        if !scopeOk s.hall p i then setAnswer s p tag .scope (roomTail s.hall i)
        else if !genOk s.hall i expected then setAnswer s p tag .stale (roomTail s.hall i)
        else match body i a with
          | .refuse st => setAnswer s p tag st (roomTail s.hall i)
          | .done c l s' => setAnswer s' p tag (doneStatus c) (roomTail s'.hall i ++ l)

/-- The state with its hall changed. -/
def State.withHall (s : State) (h : Hall) : State := { s with hall := h }

/-- The state with its hall changed by a floor event, after which the idle timers start or stop (R149). -/
def State.floorHall (s : State) (h : Hall) : State := { s with hall := idleSweep h }

/-- The state with its idle timers brought into line (R149). -/
def State.sweep (s : State) : State := s.floorHall s.hall

/-- The outcome of a meaning: the part never stops. -/
def answerNext (s : State) : Host.Outcome State Fault Refusal := .next s

end Sys2Proof.Machine
end

