-- ==== Sys2Proof/Machine/Walls.lean ====
section
/-! DEFINITION. The wall scanner (Chapter 1): contact events and the expiries of its timers, and the venue's commands
on walls, ranks and segment defaults. -/

namespace Sys2Proof.Machine

/-- Change the record of a wall. -/
def State.setWall (s : State) (w : WallId) (x : Wall) : State :=
  { s with scanner := { s.scanner with walls := put s.scanner.walls w x } }

/-- The state with an event raised. -/
def State.raised (s : State) (f : Flag) (x : SegSet) : State := { s with hall := raise f x s.hall }

/-- The segments of a wall's pair (R12). -/
def pairSegs (w : Wall) : SegSet := match w.pair with | some (a, b) => setOf a ||| setOf b | none => 0

/-- The stuck timer of a wall just defined: started at 60 s on MOVING, otherwise stopped (R9). -/
def stuckFor (r : Reading) : Stuck := if r = .moving then .running Config.stuckMs else .stopped

/-- The record of a defined wall after a contact event: the settle timer restarts; a new reading of MOVING starts the
stuck timer at 60 s, an old reading of MOVING stops it (R3). -/
def Wall.contacted (w : Wall) (settleTime : Nat) (r : Reading) : Wall :=
  { w with
    raw := r, settle := some settleTime,
    stuck := if r = .moving then .running Config.stuckMs else if w.raw = .moving then .stopped else w.stuck }

/-- CONTACT_EVENT: an undefined wall takes its reading and nothing more (R2); a defined wall restarts its timers,
reports a wall change and raises WALL (R3, R12). Contacts that read as before are no event (R2). -/
def execContactEvent (w : WallId) (closed stowed : Bool) (s : State) : Host.Outcome State Fault Refusal :=
  let x := s.scanner.walls[w]
  let r := readingOf closed stowed
  if r = x.raw then .next s
  else if x.pair.isNone then .next (s.setWall w { x with raw := r })
  else .next ((wallChange (s.setWall w (x.contacted s.scanner.settleTime r))).raised .wall (pairSegs x))

/-- The settled state a settle expiry gives for a reading (R4). -/
def settledBy (r : Reading) (old : Settled) : Settled :=
  match r with
  | .closed => .closed
  | .opened => .opened
  | .conflict => .fault
  | .moving => old

/-- A wall's settled state has been written: WALL when it changed, a wall change report when it changed under FOLLOW,
and a rest report when the hall has come to rest (R4, R5, R8, R12). -/
def settledChanged (s : State) (before after : Wall) : State :=
  let s1 := if after.settled = before.settled then s else s.raised .wall (pairSegs after)
  let s2 := if effective after = effective before then s1 else wallChange s1
  restIfAtRest s2

/-- SETTLE_TIMER_EXPIRY of a defined wall whose settle timer runs (R4). -/
def execSettleTimerExpiry (w : WallId) (s : State) : Host.Outcome State Fault Refusal :=
  let x := s.scanner.walls[w]
  if x.pair.isSome && x.settle.isSome then
    let y := { x with settle := none, settled := settledBy x.raw x.settled }
    .next (settledChanged (s.setWall w y) x y).sweep
  else .next s

/-- STUCK_TIMER_EXPIRY of a defined wall whose stuck timer runs (R5). -/
def execStuckTimerExpiry (w : WallId) (s : State) : Host.Outcome State Fault Refusal :=
  let x := s.scanner.walls[w]
  match x.pair, x.stuck with
  | some _, .running _ =>
    let y := { x with stuck := .expired, settled := .fault }
    .next (settledChanged (s.setWall w y) x y).sweep
  | _, _ => .next s

/-- The alternatives of DEFINE-WALL: a wall with a pair, or a wall to undefine. -/
inductive WallDefinition where
  | pair (w a b : Byte)
  | undefine (w : Byte)
  deriving DecidableEq, Repr

/-- The payload of DEFINE-WALL: an option byte whose bit 0 is "undefine", the wall, and the pair without it. -/
def parseDefineWall : List Byte → Option WallDefinition
  | [o, w] => if o.getLsbD 0 then some (.undefine w) else none
  | [o, w, a, b] => if o.getLsbD 0 then none else some (.pair w a b)
  | _ => none

/-- A DEFINE-WALL that rewrites the record: the new record is stored, a wall change is reported, WALL is raised for
the old and the new pair, and a rest report follows when the hall is at rest (R8, R9, R12). -/
def rewriteWall (s : State) (w : WallId) (y : Wall) : State :=
  let x := s.scanner.walls[w]
  restIfAtRest ((wallChange (s.setWall w y)).raised .wall (pairSegs x ||| pairSegs y))

/-- The record of a wall that is defined or redefined with a pair (R9). -/
def Wall.definedAs (w : Wall) (settleTime : Nat) (a b : SegId) : Wall :=
  { w with pair := some (a, b), settled := .closed, settle := some settleTime, stuck := stuckFor w.raw }

/-- The record of a wall that is undefined (R9). -/
def Wall.undefined (w : Wall) : Wall :=
  { w with pair := none, settled := .closed, settle := none, stuck := .stopped }

/-- The body of DEFINE-WALL, in the order of R9. -/
def defineWallBody (s : State) (d : WallDefinition) : Reply :=
  if s.scanner.lock then .refuse .locked
  else match d with
    | .undefine wb =>
      match idOf 12 wb with
      | none => .refuse .range
      | some w =>
        let x := s.scanner.walls[w]
        if x.pair.isNone then .done false [] s
        else .done false [] (rewriteWall s w x.undefined).sweep
    | .pair wb ab bb =>
      match idOf 12 wb, idOf 8 ab, idOf 8 bb with
      | some w, some a, some b =>
        let x := s.scanner.walls[w]
        if a = b then .refuse .range
        else if x.pair = some (a, b) || x.pair = some (b, a) then .done false [] s
        else .done false [] (rewriteWall s w (x.definedAs s.scanner.settleTime a b)).sweep
      | _, _, _ => .refuse .range

/-- DEFINE-WALL (R9). -/
def execDefineWall (p : PortId) (tag : Byte) (payload : List Byte) (s : State) : Host.Outcome State Fault Refusal :=
  answerNext (takeCommand s p tag [.venue] (parseDefineWall payload) (defineWallBody s))

/-- A payload of two bytes. -/
def parse2 : List Byte → Option (Byte × Byte)
  | [a, b] => some (a, b)
  | _ => none

/-- A payload of one byte. -/
def parse1 : List Byte → Option Byte
  | [a] => some a
  | _ => none

/-- An empty payload. -/
def parse0 : List Byte → Option Unit
  | [] => some ()
  | _ => none

/-- The override of a wall is stored (R10): WALL when it differs, a wall change when the effective state of a defined
wall changes, and then a rest report when the hall is at rest (R8). -/
def storeOverride (s : State) (w : WallId) (o : Override) : State :=
  let x := s.scanner.walls[w]
  if x.ovr = o then s
  else
    let y := { x with ovr := o }
    let s1 := (s.setWall w y).raised .wall (pairSegs x)
    (if effective y = effective x then s1 else restIfAtRest (wallChange s1)).sweep

/-- The body of WALL-OVERRIDE (R10). -/
def wallOverrideBody (s : State) (a : Byte × Byte) : Reply :=
  if s.scanner.lock then .refuse .locked
  else match idOf 12 a.1, overrideOf a.2.toNat with
    | some w, some o => .done false [] (storeOverride s w o)
    | _, _ => .refuse .range

/-- WALL-OVERRIDE (R10). -/
def execWallOverride (p : PortId) (tag : Byte) (payload : List Byte) (s : State) : Host.Outcome State Fault Refusal :=
  answerNext (takeCommand s p tag [.venue] (parse2 payload) (wallOverrideBody s))

/-- The body of LOCK-WALLS (R11): setting the lock raises WALL for every segment. -/
def lockWallsBody (s : State) (_ : Unit) : Reply :=
  if s.scanner.lock then .done false [] s
  else .done false [] (({ s with scanner := { s.scanner with lock := true } } : State).raised .wall allSegs)

/-- LOCK-WALLS (R11). -/
def execLockWalls (p : PortId) (tag : Byte) (payload : List Byte) (s : State) : Host.Outcome State Fault Refusal :=
  answerNext (takeCommand s p tag [.venue] (parse0 payload) (lockWallsBody s))

/-- The payload of SET-SEGMENT-DEFAULTS: a segment and a selection of the 18 fields of R15. -/
def parseDefaults : List Byte → Option (Byte × List (Nat × FieldValue))
  | sg :: rest => (fieldsOf defaultsFieldKind rest).map fun fs => (sg, fs)
  | [] => none

/-- One of the fields 15 to 18 of a defaults record written; field 16, the window size, is clamped (R16). -/
def writeDefault (d : Defaults) (f : Nat × FieldValue) : Defaults × Bool :=
  match f with
  | (15, .word n) => ({ d with base := n }, false)
  | (16, .word n) => ({ d with size := clampTo 1 16 n }, clampTo 1 16 n ≠ n)
  | (17, .list l) => ({ d with wanted := l }, false)
  | (18, .word n) => ({ d with floorLang := n }, false)
  | _ => (d, false)

/-- The named fields of a defaults record written, then the jump rule; with whether any was clamped (R16). -/
def writeDefaults (d : Defaults) (fs : List (Nat × FieldValue)) : Defaults × Bool :=
  let x := writeSettings d.settings fs
  fs.foldl (fun acc f => let y := writeDefault acc.1 f; (y.1, acc.2 || y.2)) ({ d with settings := x.1 }, x.2)

/-- A code list holds a code twice (R16, R120). -/
def repeats : List Nat → Bool
  | [] => false
  | c :: cs => cs.contains c || repeats cs

/-- A field of SET-SEGMENT-DEFAULTS whose identifier or enumerated value is out of range (R16). -/
def badDefault (f : Nat × FieldValue) : Bool :=
  match f with
  | (15, .word n) => 31 < n
  | (17, .list l) => l.any fun c => c = 0 || 63 < c
  | (18, .word n) => 63 < n
  | _ => false

/-- A wanted list among the fields satisfies `bad`. -/
def badWanted (bad : List Nat → Bool) (fs : List (Nat × FieldValue)) : Bool :=
  fs.any fun f => match f with | (17, .list l) => bad l | _ => false

/-- The body of SET-SEGMENT-DEFAULTS (R16): the whole command is checked before anything is written; a write that
changes a field raises WALL for the segment. -/
def setDefaultsBody (s : State) (a : Byte × List (Nat × FieldValue)) : Reply :=
  match idOf 8 a.1 with
  | none => .refuse .range
  | some sg =>
    if badMode a.2 || a.2.any badDefault then .refuse .range
    else if badWanted repeats a.2 then .refuse .duplicate
    else if badWanted (fun l => 15 < l.length) a.2 then .refuse .full
    else
      let d := s.scanner.defaults[sg]
      let x := writeDefaults d a.2
      let s1 := { s with scanner := { s.scanner with defaults := put s.scanner.defaults sg x.1 } }
      .done x.2 [] (if x.1 = d then s1 else s1.raised .wall (setOf sg))

/-- SET-SEGMENT-DEFAULTS (R16). -/
def execSetSegmentDefaults (p : PortId) (tag : Byte) (payload : List Byte) (s : State) :
    Host.Outcome State Fault Refusal :=
  answerNext (takeCommand s p tag [.venue] (parseDefaults payload) (setDefaultsBody s))

/-- The body of SET-LEAD-RANK (R14). -/
def setLeadRankBody (s : State) (a : Byte × Byte) : Reply :=
  match idOf 8 a.1 with
  | none => .refuse .range
  | some sg =>
    let n := min a.2.toNat 15
    let s1 := { s with scanner := { s.scanner with ranks := put s.scanner.ranks sg n } }
    .done (n ≠ a.2.toNat) [] (if n = s.scanner.ranks[sg] then s1 else s1.raised .wall (setOf sg))

/-- SET-LEAD-RANK (R14). -/
def execSetLeadRank (p : PortId) (tag : Byte) (payload : List Byte) (s : State) : Host.Outcome State Fault Refusal :=
  answerNext (takeCommand s p tag [.venue] (parse2 payload) (setLeadRankBody s))

end Sys2Proof.Machine
end

