-- ==== Sys2Proof/Machine/Consent.lean ====
section
/-! DEFINITION. The commands and the timer of a regroup (Chapter 2), and the commands on console scopes
(R173 to R175). -/

namespace Sys2Proof.Machine

/-- DEADLINE_EXPIRY in CONSENT with the deadline running: the consoles still in the consent set go to the silent list
and DRAIN begins (R33). -/
def execDeadlineExpiry (s : State) : Host.Outcome State Fault Refusal :=
  if s.regroup.state = .consent && s.regroup.deadline.isSome then
    .next (enterDrain { s with regroup :=
      { s.regroup with silent := s.regroup.consent, consent := [], deadline := none } }).sweep
  else .next s

/-- The values of SET-REGROUP-TIMES: settle time in ms, consent deadline and hold extension in s. -/
def parseTimes : List Byte → Option (Nat × Nat × Nat)
  | [a, b, c, d, e, f] => some (wordOf a b, wordOf c d, wordOf e f)
  | _ => none

/-- The body of SET-REGROUP-TIMES (R6, R29). -/
def setTimesBody (s : State) (a : Nat × Nat × Nat) : Reply :=
  let x := clampTo 100 5000 a.1
  let y := clampTo 1 30 a.2.1
  let z := clampTo 1 60 a.2.2
  .done (x ≠ a.1 || y ≠ a.2.1 || z ≠ a.2.2) []
    { s with
      scanner := { s.scanner with settleTime := x },
      regroup := { s.regroup with consentSecs := y, holdSecs := z } }

/-- SET-REGROUP-TIMES (R6, R29). -/
def execSetRegroupTimes (p : PortId) (tag : Byte) (payload : List Byte) (s : State) :
    Host.Outcome State Fault Refusal :=
  answerNext (takeCommand s p tag [.venue] (parseTimes payload) (setTimesBody s))

/-- The body of FORCE-REGROUP (R34). -/
def forceRegroupBody (s : State) (_ : Unit) : Reply :=
  if s.regroup.state = .consent then
    .done false [] (enterDrain { s with regroup := { s.regroup with consent := [], deadline := none } }).sweep
  else .refuse .state

/-- FORCE-REGROUP (R34). -/
def execForceRegroup (p : PortId) (tag : Byte) (payload : List Byte) (s : State) : Host.Outcome State Fault Refusal :=
  answerNext (takeCommand s p tag [.venue] (parse0 payload) (forceRegroupBody s))

/-- The payload of REGROUP-ANSWER (R30): the answer, and an expected consent round preceded by a presence byte. DESIGN
CHOICE (log entry 7): without an expected round the presence byte of 0 ends the payload, and no two ignored bytes follow
it as they do after that of an expected generation. -/
def parseRegroupAnswer : List Byte → Option (Byte × Option (BitVec 16))
  | [a, c] => if c = 0 then some (a, none) else none
  | [a, c, hi, lo] => if c = 1 then some (a, some (BitVec.ofNat 16 (wordOf hi lo))) else none
  | _ => none

/-- AGREE: the console leaves the consent set; DRAIN begins when the set is empty (R31). -/
def agree (s : State) (p : PortId) : State :=
  let s1 := { s with regroup := { s.regroup with consent := s.regroup.consent.filter fun q => q ≠ p } }
  if s1.regroup.consent.isEmpty then
    (enterDrain { s1 with regroup := { s1.regroup with deadline := none } }).sweep
  else s1

/-- The deadline after a HOLD: now plus the hold extension, unless it already lies later (R32). -/
def heldDeadline (rg : Regroup) : Option Nat := some (max (rg.deadline.getD 0) (rg.holdSecs * 1000))

/-- The consoles of `l` with `p`, in ascending order. -/
def withPort (l : List PortId) (p : PortId) : List PortId :=
  (List.finRange 4).filter fun q => q = p || l.contains q

/-- HOLD: the console is recorded among the holds used and the deadline extended (R32). -/
def hold (s : State) (p : PortId) : State :=
  { s with regroup := { s.regroup with holds := withPort s.regroup.holds p, deadline := heldDeadline s.regroup } }

/-- The body of REGROUP-ANSWER from port `p`: the checks of R30 in their order, then AGREE (0) or HOLD (1). -/
def regroupAnswerBody (s : State) (p : PortId) (a : Byte × Option (BitVec 16)) : Reply :=
  if 1 < a.1.toNat then .refuse .range
  else if a.2.isSome && a.2 ≠ some s.regroup.round then .refuse .stale
  else if s.regroup.state ≠ .consent then .refuse .state
  else if !s.regroup.consent.contains p then .refuse .state
  else if a.1.toNat = 0 then .done false [] (agree s p)
  else if s.regroup.holds.contains p then .refuse .state
  else .done false [] (hold s p)

/-- REGROUP-ANSWER (R30 to R32). -/
def execRegroupAnswer (p : PortId) (tag : Byte) (payload : List Byte) (s : State) : Host.Outcome State Fault Refusal :=
  answerNext (takeCommand s p tag [.console] (parseRegroupAnswer payload) (regroupAnswerBody s p))

/-! ## Scope -/

/-- The controlling console of every room whose lead segment lies in `x` is set from the scopes, with a ROOM event for
each such room (R19). -/
def setConsoles (h : Hall) (x : SegSet) : Hall :=
  let one (r : Room) : Room := if inSet x r.lead then { r with console := consoleOf h r.lead } else r
  let h1 := { h with rooms := tab fun i => (h.rooms[i]).map one }
  (h.roomIds.filter fun i => match h.room i with | some r => inSet x r.lead | none => false).foldl
    (fun g i => raiseRoom .room i g) h1

/-- The hall with the scope of a port replaced. -/
def setScope (h : Hall) (p : PortId) (x : SegSet) : Hall :=
  { h with ports := put h.ports p { h.ports[p] with scope := x } }

/-- The segments held by consoles other than `p`. -/
def heldByOthers (h : Hall) (p : PortId) : SegSet :=
  (List.finRange 4).foldl
    (fun x q => if q ≠ p && (h.ports[q]).role = .console then x ||| (h.ports[q]).scope else x) 0

/-- The body of CLAIM-SEGMENTS from port `p` (R173). -/
def claimBody (s : State) (p : PortId) (x : Byte) : Reply :=
  let old := (s.hall.ports[p]).scope
  if (x &&& heldByOthers s.hall p) ≠ 0 then .refuse .scope
  else .done false [] (s.withHall (setConsoles (setScope s.hall p (old ||| x)) (x &&& ~~~old)))

/-- CLAIM-SEGMENTS (R173). -/
def execClaimSegments (p : PortId) (tag : Byte) (payload : List Byte) (s : State) : Host.Outcome State Fault Refusal :=
  answerNext (takeCommand s p tag [.console] (parse1 payload) (claimBody s p))

/-- The body of RELEASE-SEGMENTS from port `p` (R174). -/
def releaseBody (s : State) (p : PortId) (x : Byte) : Reply :=
  let old := (s.hall.ports[p]).scope
  .done false [] (s.withHall (setConsoles (setScope s.hall p (old &&& ~~~x)) (old &&& x)))

/-- RELEASE-SEGMENTS (R174). -/
def execReleaseSegments (p : PortId) (tag : Byte) (payload : List Byte) (s : State) :
    Host.Outcome State Fault Refusal :=
  answerNext (takeCommand s p tag [.console] (parse1 payload) (releaseBody s p))

/-- The scopes after ASSIGN-SCOPE: the port's is the set; each other console loses the segments named (R175). -/
def assignScopes (h : Hall) (q : PortId) (x : SegSet) : Hall :=
  { h with ports := tab fun i =>
      if i = q then { h.ports[i] with scope := x }
      else if (h.ports[i]).role = .console then { h.ports[i] with scope := (h.ports[i]).scope &&& ~~~x }
      else h.ports[i] }

/-- The segments whose holder differs between two halls (R175). -/
def changedHands (a b : Hall) : SegSet := setWhere fun sg => consoleOf a sg ≠ consoleOf b sg

/-- The body of ASSIGN-SCOPE (R175). -/
def assignScopeBody (s : State) (a : Byte × Byte) : Reply :=
  match idOf 4 a.1 with
  | none => .refuse .range
  | some q =>
    if (s.hall.ports[q]).role ≠ .console then .refuse .state
    else
      let h1 := assignScopes s.hall q a.2
      .done false [] (s.withHall (setConsoles h1 (changedHands s.hall h1)))

/-- ASSIGN-SCOPE (R175). -/
def execAssignScope (p : PortId) (tag : Byte) (payload : List Byte) (s : State) : Host.Outcome State Fault Refusal :=
  answerNext (takeCommand s p tag [.venue] (parse2 payload) (assignScopeBody s))

end Sys2Proof.Machine
end

