-- ==== Sys2Proof/Machine/Trunks.lean ====
section
/-! DEFINITION. The trunk interfaces (Chapter 3): power (R50 to R52), poll rounds and the orders polls carry (R53 to
R56), replies and what they deliver (R57 to R63, R65), presence and absence, the round end (R64), and the layout of
polls and replies (R69). -/

namespace Sys2Proof.Machine

/-! ## The trunk record -/

/-- Change the record of a trunk. -/
def State.setTrunk (s : State) (t : TrunkId) (x : Trunk) : State := { s with trunks := put s.trunks t x }

/-- A trunk is powered (R50): UP, DEGRADED or DOWN. -/
def powered : TrunkState → Bool
  | .unpowered => false
  | .tripped => false
  | .up => true
  | .degraded => true
  | .down => true

/-- TRUNK events for the seat segments of units, as they are (R68); none for a unit without one (log entry 32). -/
def raiseUnits (h : Hall) (us : List UnitId) : Hall :=
  us.foldl (fun g u => match (h.unit u).seat with | some sg => raise .trunk (setOf sg) g | none => g) h

/-- Units become ABSENT one by one, each with its TRUNK event (R61, R68). -/
def loseUnits (h : Hall) (us : List UnitId) : Hall := makeAbsent (raiseUnits h us) us

/-- Every PRESENT unit of a trunk becomes ABSENT, under one TRUNK event for all segments (R50, R51, R64, R68). -/
def loseTrunk (h : Hall) (t : TrunkId) : Hall := makeAbsent (raise .trunk allSegs h) (presentOn h t)

/-- Power is applied: UP, with silent rounds and failures this round at 0 (R50), and a TRUNK event (R68). -/
def applyPower (s : State) (t : TrunkId) : State :=
  (s.setTrunk t { s.trunks[t] with state := .up, silent := 0, failures := 0, round := none }).raised .trunk allSegs

/-- Power is removed from a powered trunk, which enters `st`: a round in progress ends at once without its round-end
step, and every PRESENT unit becomes ABSENT (R50, R51). -/
def removePower (s : State) (t : TrunkId) (st : TrunkState) : State :=
  (s.setTrunk t { s.trunks[t] with state := st, round := none }).withHall (loseTrunk s.hall t)

/-- SENSE_LINE_CHANGE: recorded in every state; in AUTO it applies power to an UNPOWERED trunk and removes it from a
powered one (R50). -/
def execSenseLineChange (t : TrunkId) (chain : Bool) (s : State) : Host.Outcome State Fault Refusal :=
  let x := s.trunks[t]
  if chain = x.sense then .next s
  else
    let s1 := s.setTrunk t { x with sense := chain }
    if x.mode = .auto then
      if chain && x.state = .unpowered then .next (applyPower s1 t)
      else if !chain && powered x.state then .next (removePower s1 t .unpowered).sweep
      else .next s1
    else .next s1

/-- OVERCURRENT on a powered trunk: TRIPPED (R51); on another trunk it has no effect. -/
def execOvercurrent (t : TrunkId) (s : State) : Host.Outcome State Fault Refusal :=
  if powered (s.trunks[t]).state then .next (removePower s t .tripped).sweep else .next s

/-- What TRUNK-POWER does to a trunk by its state, the mode being stored (R52). -/
def powerAct (s : State) (t : TrunkId) : State :=
  let x := s.trunks[t]
  let wanted := x.mode = .on || (x.mode = .auto && x.sense)
  match x.state with
  | .unpowered => if wanted then applyPower s t else s
  | .tripped =>
    if x.mode = .off then s
    else if wanted then applyPower s t
    else (s.setTrunk t { x with state := .unpowered }).raised .trunk allSegs
  | .up => if wanted then s else (removePower s t .unpowered).sweep
  | .degraded => if wanted then s else (removePower s t .unpowered).sweep
  | .down => if wanted then s else (removePower s t .unpowered).sweep

/-- The body of TRUNK-POWER (R52). -/
def trunkPowerBody (s : State) (a : Byte × Byte) : Reply :=
  match idOf 4 a.1, powerOf a.2.toNat with
  | some t, some m =>
    let x := s.trunks[t]
    let s1 := s.setTrunk t { x with mode := m }
    .done false [] (powerAct (if m = x.mode then s1 else s1.raised .trunk allSegs) t)
  | _, _ => .refuse .range

/-- TRUNK-POWER (R52). -/
def execTrunkPower (p : PortId) (tag : Byte) (payload : List Byte) (s : State) : Host.Outcome State Fault Refusal :=
  answerNext (takeCommand s p tag [.venue] (parse2 payload) (trunkPowerBody s))

/-- The body of SET-ROLLCALL (R54). -/
def setRollcallBody (s : State) (a : Byte × Byte) : Reply :=
  match idOf 4 a.1 with
  | none => .refuse .range
  | some t =>
    let n := clampProbes a.2.toNat
    .done (n ≠ a.2.toNat) [] (s.setTrunk t { s.trunks[t] with probes := n })

/-- SET-ROLLCALL (R54). -/
def execSetRollcall (p : PortId) (tag : Byte) (payload : List Byte) (s : State) : Host.Outcome State Fault Refusal :=
  answerNext (takeCommand s p tag [.venue] (parse2 payload) (setRollcallBody s))

/-! ## The round end -/

/-- The units of a trunk whose confirmation count is lowered at this round's end: those whose count runs and whose
GRANT was not delivered in this round (R62). -/
def confirming (h : Hall) (t : TrunkId) (fresh : List AddrIx) : List UnitId :=
  (unitsOf t).filter fun u => (h.addr u).confirm.isSome && !fresh.contains u.addr

/-- The running confirmation counts are lowered by one; a count that reaches 0 makes its unit ABSENT (R62, R64). -/
def lowerConfirms (h : Hall) (t : TrunkId) (fresh : List AddrIx) : Hall :=
  let us := confirming h t fresh
  let spent := us.filter fun u => (h.addr u).confirm.getD 0 ≤ 1
  loseUnits
    (us.foldl (fun g u => g.setAddr u { g.addr u with confirm := (g.addr u).confirm.map (· - 1) }) h) spent

/-- A trunk's state at a round end (R64). -/
def healthAfter (st : TrunkState) (silent failures : Nat) : TrunkState :=
  match st with
  | .up => if silent = 3 then .down else if 8 < failures then .degraded else .up
  | .degraded => if silent = 3 then .down else if failures ≤ 2 then .up else .degraded
  | .down => .down
  | .unpowered => .unpowered
  | .tripped => .tripped

/-- The round-end step of a round (R64). -/
def endRound (s : State) (t : TrunkId) (rd : Round) : State :=
  let x := s.trunks[t]
  let h1 := lowerConfirms s.hall t rd.fresh
  let silent := if rd.good then x.silent else min 3 (x.silent + 1)
  let st := healthAfter x.state silent x.failures
  let h2 :=
    if st = x.state then h1
    else if st = .down then loseTrunk h1 t
    else raise .trunk allSegs h1
  ((s.setTrunk t { x with silent := silent, state := st, round := none }).withHall h2).sweep

/-- ROUND_END of the round in progress (R64). -/
def execRoundEnd (t : TrunkId) (s : State) : Host.Outcome State Fault Refusal :=
  match (s.trunks[t]).round with
  | some rd => .next (endRound s t rd)
  | none => .next s

/-- CONFIRMATION_COUNT_EXPIRY of a running count: the unit becomes ABSENT (R61, R62). -/
def execConfirmationCountExpiry (u : UnitId) (s : State) : Host.Outcome State Fault Refusal :=
  if (s.hall.addr u).confirm.isSome then .next (s.floorHall (loseUnits s.hall [u])) else .next s

/-! ## The round -/

/-- The addresses a round probes: ABSENT ones, in ascending order after the roll-call pointer, wrapping, at most the
probe count (R53). -/
def probeList (h : Hall) (t : TrunkId) (x : Trunk) : List AddrIx :=
  let absent := (List.finRange 60).filter fun a => !(h.unit { trunk := t, addr := a }).present
  ((absent.filter fun a => x.pointer ≤ a.val) ++ (absent.filter fun a => a.val < x.pointer)).take x.probes

/-- POLL_ROUND_START of a powered trunk (R53): failures this round to 0, the list fixed, the pointer set; a round
with no poll at all ends as it starts. -/
def execPollRoundStart (t : TrunkId) (s : State) : Host.Outcome State Fault Refusal :=
  let x := s.trunks[t]
  if powered x.state then
    let probes := probeList s.hall t x
    let rd : Round :=
      { todo := ((presentOn s.hall t).map fun u => (u.addr, false)) ++ probes.map fun a => (a, true),
        sent := none, good := false, fresh := [] }
    let pointer := match probes.getLast? with | some a => a.val + 1 | none => x.pointer
    let s1 := s.setTrunk t { x with failures := 0, pointer := pointer, round := some rd }
    if rd.todo.isEmpty then .next (endRound s1 t rd) else .next s1
  else .next s

/-- A pending GRANT is held back while the last mic report of another address of the trunk is mic-live on its slot
(R56). -/
def heldBack (h : Hall) (u : UnitId) : Bool :=
  match (h.addr u).floorOrder with
  | some (.grant k) => (unitsOf u.trunk).any fun v => v ≠ u && (h.addr v).lastMic = some k
  | _ => false

/-- The order a poll carries (R56). -/
def orderFor (h : Hall) (u : UnitId) : Option Order :=
  match (h.addr u).floorOrder with
  | some o => if heldBack h u then (h.addr u).notice.map .notice else some (.floor o)
  | none => (h.addr u).notice.map .notice

/-- Byte 2 of a poll: the order code of Table 3-3 in bits 7 to 4 and the slot of a GRANT in bits 2 to 0 (R69). -/
def orderByte : Option Order → Byte
  | none => 0x00
  | some (.floor (.grant k)) => 0x10 + BitVec.ofNat 8 k.val
  | some (.floor .release) => 0x20
  | some (.floor .deny) => 0x30
  | some (.notice .warn) => 0x40
  | some (.notice .clearWarn) => 0x50

/-- The five bytes of a poll (Table 3-1). -/
def pollBytes (a : AddrIx) (o : Option Order) : List Byte :=
  let b1 : Byte := BitVec.ofNat 8 (a.val + 1)
  let b2 := orderByte o
  [Config.startMarker, b1, b2, 0 - (b1 + b2), Config.stopMarker]

/-- The next poll to send, polls to units that have become ABSENT being skipped (R53), with those left. -/
def nextPoll (h : Hall) (t : TrunkId) : List (AddrIx × Bool) → Option ((AddrIx × Bool) × List (AddrIx × Bool))
  | [] => none
  | p :: rest =>
    if p.2 || (h.unit { trunk := t, addr := p.1 }).present then some (p, rest) else nextPoll h t rest

/-- POLL_SEND: the next poll of the round's list goes out on the line with the order it carries (R53, R56, R69). While
a reply is awaited, and outside a round, nothing is sent. -/
def execPollSend (t : TrunkId) (s : State) : Host.Outcome State Fault Refusal :=
  let x := s.trunks[t]
  match x.round with
  | none => .next s
  | some rd =>
    if rd.sent.isSome then .next s
    else match nextPoll s.hall t rd.todo with
      | none => .next (s.setTrunk t { x with round := some { rd with todo := [] } })
      | some (p, rest) =>
        let o := if p.2 then none else orderFor s.hall { trunk := t, addr := p.1 }
        .next (s.setTrunk t
          { x with
            round := some { rd with todo := rest, sent := some { addr := p.1, probe := p.2, order := o } },
            pollOut := pollBytes p.1 o })

/-! ## Replies -/

/-- How a reply fails (R57). -/
inductive Failure where
  | late | framing | check | overrun
  deriving DecidableEq, Repr

/-- What a reply reports (Table 3-2). -/
structure Report where
  latch  : Bool
  next   : Bool
  allOff : Bool
  mic    : Option SlotIx
  lang   : Nat
  seat   : SegId
  deriving DecidableEq, Repr

/-- The fields of a reply's status, language and seat bytes (Table 3-2). -/
def reportOf (status lang seat : Byte) : Report :=
  { latch := status.getLsbD 7, next := status.getLsbD 6, allOff := status.getLsbD 5,
    mic := if status.getLsbD 4 then some ⟨status.toNat % 8, by omega⟩ else none,
    lang := lang.toNat % 64, seat := ⟨seat.toNat % 8, by omega⟩ }

/-- The checks of R57 on the bytes received for a poll of an address, in order. DESIGN CHOICE (log entry 27): the reply
begins at the first byte received, so that one whose first byte is not the start marker is Late, also where a start
marker follows later in the window; and bytes beyond the seven of a reply make it a framing failure. -/
def checkReply (a : AddrIx) (handOverFull : Bool) (rx : List Byte) : Except Failure Report :=
  if rx.head? ≠ some Config.startMarker then .error .late
  else match rx with
    | [_, addr, status, lang, seat, chk, stop] =>
      if stop ≠ Config.stopMarker || addr.toNat ≠ a.val + 1 then .error .framing
      else if addr + status + lang + seat + chk ≠ 0 then .error .check
      else if handOverFull then .error .overrun
      else .ok (reportOf status lang seat)
    | _ => .error .framing

/-- A counter that stops at 65535 (R57). -/
def saturate (n : Nat) : Nat := min 65535 (n + 1)

/-- A failure counted on the trunk (R57). -/
def Trunk.failed (x : Trunk) (f : Failure) : Trunk :=
  let y := { x with failures := x.failures + 1 }
  match f with
  | .late => { y with cLate := saturate x.cLate }
  | .framing => { y with cFraming := saturate x.cFraming }
  | .check => { y with cCheck := saturate x.cCheck }
  | .overrun => { y with cOverrun := saturate x.cOverrun }

/-- A failed poll of a PRESENT unit counts a miss; the third makes it ABSENT (R59). -/
def missUnit (h : Hall) (u : UnitId) : Hall :=
  if (h.unit u).present then
    let n := (h.addr u).miss + 1
    if n < 3 then h.setAddr u { h.addr u with miss := n } else loseUnits h [u]
  else h

/-- A reply that failed (R57, R59): a late probe counts nothing. -/
def badReply (s : State) (t : TrunkId) (sent : Sent) (f : Failure) : State :=
  if sent.probe && f = .late then s
  else
    let s1 := s.setTrunk t ((s.trunks[t]).failed f)
    if sent.probe then s1 else s1.floorHall (missUnit s1.hall { trunk := t, addr := sent.addr })

/-- The report is a stray one: mic-live on a slot that the unit's speaking entry, if any, does not hold (R63). -/
def isStray (h : Hall) (u : UnitId) (r : Report) : Bool :=
  r.mic.isSome && (h.entryOf u).map (·.1.slot) ≠ r.mic

/-- The stray count, the RELEASE of a stray unit and the last mic report (R63). -/
def strayStep (h : Hall) (u : UnitId) (r : Report) : Hall :=
  let a := h.addr u
  if isStray h u r then
    h.setAddr u { a with lastMic := r.mic, floorOrder := some .release, stray := a.stray + 1 }
  else h.setAddr u { a with lastMic := r.mic, stray := 0 }

/-- The pending order that a good reply has delivered is removed (R55, R58): the order the poll carried, if it is
still the one pending. The second result says that it was a GRANT, whose confirmation count starts (R62). DEDUCED:
it starts also where the unit's entry has left GRANTED before the delivery (log entry 33). -/
def deliver (h : Hall) (u : UnitId) (o : Option Order) : Hall × Bool :=
  let a := h.addr u
  match o with
  | some (.floor f) =>
    if a.floorOrder = some f then
      match f with
      | .grant _ => (h.setAddr u { a with floorOrder := none, confirm := some 3 }, true)
      | .release => (h.setAddr u { a with floorOrder := none }, false)
      | .deny => (h.setAddr u { a with floorOrder := none }, false)
    else (h, false)
  | some (.notice n) => if a.notice = some n then (h.setAddr u { a with notice := none }, false) else (h, false)
  | none => (h, false)

/-- The reply as it is placed in the hand-over: mic-live and slot shown clear for a stray report, marked with the
pending floor order as it now stands (R58, R63). -/
def placed (h : Hall) (u : UnitId) (r : Report) (stray : Bool) : HandOver :=
  { addr := u.addr, latch := r.latch, next := r.next, allOff := r.allOff, mic := if stray then none else r.mic,
    lang := r.lang, seat := r.seat, mark := (h.addr u).floorOrder }

/-- The confirmation count stops where the GRANT of the unit's entry is delivered and the reply reports mic-live on the
entry's slot (R58 step 5, R62). As in R62, this asks for no state of the entry: a GRANT may be delivered only after a
mic report has taken the entry out of GRANTED (R80). -/
def confirmed (h : Hall) (u : UnitId) (r : Report) : Hall :=
  match h.entryOf u with
  | some (k, _) => if !h.grantPending u && r.mic = some k.slot then stopConfirm h u else h
  | none => h

/-- The mic report, the hand-over and the confirmation count of a good reply (R58 steps 3 to 5, R63). A unit that its
third stray report makes ABSENT places no reply. -/
def takeReport (s : State) (t : TrunkId) (u : UnitId) (r : Report) : State :=
  let h1 := strayStep s.hall u r
  if 3 ≤ (h1.addr u).stray then s.floorHall (loseUnits h1 [u])
  else
    (s.setTrunk t { s.trunks[t] with handOver := some (placed h1 u r (isStray s.hall u r)) }).floorHall
      (confirmed h1 u r)

/-- A good reply to a probe makes the unit PRESENT, with a clean address record and the reported seat, and raises a
TRUNK event for its seat segment (R60, R68, R71). -/
def foundUnit (h : Hall) (u : UnitId) (r : Report) : Hall :=
  let h1 := h.setAddr u AddrRec.reset
  let h2 := alignSeat (h1.setUnit u { h1.unit u with present := true, reported := some r.seat }) u
  raiseUnits h2 [u]

/-- A good reply to a poll of a PRESENT unit: miss count 0 and the carried order delivered (R58 steps 1 and 2). The
second result says that a GRANT was delivered. -/
def goodPoll (h : Hall) (u : UnitId) (o : Option Order) : Hall × Bool :=
  deliver (h.setAddr u { h.addr u with miss := 0 }) u o

/-- The trunk's part of a good reply: silent rounds 0, the round marked, and DOWN left for UP (R58, R65). -/
def Trunk.heard (x : Trunk) : Trunk :=
  { x with
    silent := 0, state := if x.state = .down then .up else x.state,
    round := x.round.map fun rd => { rd with good := true } }

/-- A good reply (R58, R60, R65). -/
def goodReply (s : State) (t : TrunkId) (sent : Sent) (r : Report) : State :=
  let u : UnitId := { trunk := t, addr := sent.addr }
  let x := s.trunks[t]
  let s1 := s.setTrunk t x.heard
  let s2 := if x.state = .down then s1.raised .trunk allSegs else s1
  if sent.probe then takeReport (s2.withHall (foundUnit s2.hall u r)) t u r
  else if (s2.hall.unit u).present then
    let g := goodPoll s2.hall u sent.order
    let s3 := s2.withHall g.1
    let y := s3.trunks[t]
    let s4 :=
      if g.2 then
        s3.setTrunk t { y with round := y.round.map fun rd => { rd with fresh := rd.fresh ++ [sent.addr] } }
      else s3
    takeReport s4 t u r
  else s2

/-- POLL_REPLY to the poll awaited: the checks of R57, then the good reply or the failure. Outside a round, and with
no poll awaited, a reply is not counted (R50). -/
def execPollReply (t : TrunkId) (rx : List Byte) (s : State) : Host.Outcome State Fault Refusal :=
  let x := s.trunks[t]
  match x.round with
  | none => .next s
  | some rd =>
    match rd.sent with
    | none => .next s
    | some sent =>
      let s1 := s.setTrunk t { x with round := some { rd with sent := none } }
      match checkReply sent.addr x.handOver.isSome rx with
      | .error f => .next (badReply s1 t sent f)
      | .ok r => .next (goodReply s1 t sent r)

/-- HAND_OVER_TAKEN: the floor controller takes the reply held in the trunk's hand-over and reads it (R79, R80). -/
def execHandOverTaken (t : TrunkId) (s : State) : Host.Outcome State Fault Refusal :=
  let x := s.trunks[t]
  match x.handOver with
  | none => .next s
  | some r =>
    .next ((s.setTrunk t { x with handOver := none }).floorHall (readReply s.hall { trunk := t, addr := r.addr } r))

end Sys2Proof.Machine
end

