-- ==== Sys2Proof/Machine/FloorCommands.lean ====
section
/-! DEFINITION. The floor's commands and timers (Chapters 4, 5 and 8.6): SET-UNIT, SET-ROOM, GRANT, GRANT-NEXT, DROP,
CANCEL-REQUEST, ELEVATE, ALL-OFF, STAGE-GAIN and APPLY-GAINS, the speak limit, and the idle timer of a room. -/

namespace Sys2Proof.Machine

/-! ## SET-UNIT -/

/-- The payload of SET-UNIT: a unit and a selection of the fields seat override, class and gain (R72). -/
def parseSetUnit : List Byte → Option ((Byte × Byte) × List (Nat × FieldValue))
  | t :: a :: rest => (fieldsOf unitFieldKind rest).map fun fs => ((t, a), fs)
  | _ => none

/-- A named seat override: a segment, or 255 for none (R72, 9.2.1). -/
def seatOf (n : Nat) : Option (Option SegId) :=
  if n = 255 then some none else if h : n < 8 then some (some ⟨n, h⟩) else none

/-- A field of SET-UNIT that is out of range (R72). -/
def badUnitField (f : Nat × FieldValue) : Bool :=
  match f with
  | (1, .word n) => (seatOf n).isNone
  | (2, .word n) => (classOf n).isNone
  | _ => false

/-- A field of SET-UNIT written to a unit record. -/
def writeUnitField (r : UnitRec) (f : Nat × FieldValue) : UnitRec :=
  match f with
  | (1, .word n) => (match seatOf n with | some x => { r with seatOvr := x } | none => r)
  | (2, .word n) => (match classOf n with | some c => { r with cls := c } | none => r)
  | (3, .word n) => { r with gain := min n Config.maxGain }
  | _ => r

/-- A named gain above the range (R72). -/
def gainClamped (fs : List (Nat × FieldValue)) : Bool :=
  fs.any fun f => match f with | (3, .word n) => Config.maxGain < n | _ => false

/-- The hall after SET-UNIT has written a unit's record: the seat segment of an IDLE unit follows, and a change of
class raises FLOOR for the unit's room (R71, R72). DESIGN CHOICE: a unit without a seat segment is in no room, and a
change of its class raises no event (R182; log entry 32). -/
def storeUnit (h : Hall) (u : UnitId) (r : UnitRec) : Hall :=
  let h1 := alignSeat (h.setUnit u r) u
  if r.cls = (h.unit u).cls then h1 else raiseSeat (h1.unit u).seat h1

/-- The body of SET-UNIT (R72). -/
def setUnitBody (s : State) (a : (Byte × Byte) × List (Nat × FieldValue)) : Reply :=
  match unitOf a.1.1 a.1.2 with
  | none => .refuse .range
  | some u =>
    let r := s.hall.unit u
    let r' := a.2.foldl writeUnitField r
    if a.2.any badUnitField then .refuse .range
    else if (r'.seatOvr ≠ r.seatOvr || r'.cls ≠ r.cls) && s.hall.floorState u ≠ .idle then .refuse .state
    else .done (gainClamped a.2) [] (s.withHall (storeUnit s.hall u r'))

/-- SET-UNIT (R72). -/
def execSetUnit (p : PortId) (tag : Byte) (payload : List Byte) (s : State) : Host.Outcome State Fault Refusal :=
  answerNext (takeCommand s p tag [.venue] (parseSetUnit payload) (setUnitBody s))

/-! ## SET-ROOM -/

/-- The payload of SET-ROOM: expected generation, segment, settings (R92, R177). -/
def parseSetRoom (l : List Byte) : Option (Option (BitVec 16) × Selector × List (Nat × FieldValue)) :=
  match condHead l with
  | some (g, sg :: rest) => (fieldsOf roomFieldKind rest).map fun fs => (g, .seg sg, fs)
  | _ => none

/-- Step 1 of R93 on one counted entry: OPENING or OPEN is sent to CLOSING, GRANTED is recalled. -/
def shedEntry (h : Hall) (r : SlotRef) : Hall :=
  match h.entry r with
  | some e => if e.state = .granted then recallEntry h r e else closeEntry h r
  | none => h

/-- Step 1 of R93: the oldest counted entries beyond the open limit are shed. -/
def shedCount (h : Hall) (i : SegId) (limit : Nat) : Hall :=
  ((((h.speaking i).filter fun x => x.2.counted).map (·.1)).take (h.count i - limit)).foldl shedEntry h

/-- Steps 1 to 3 of R93, with the FLOOR event when an entry or a request was changed. -/
def trimRoom (h : Hall) (i : SegId) (st : Settings) : Hall :=
  let h1 := cutQueue (shedCount h i st.openLimit) i
  let h2 := lowerScores h1 (h1.segsOf i) st.max st.guard
  if h2.pools = h.pools && h2.requests = h.requests then h2 else raiseRoom .floor i h2

/-- Step 4 of R93: a changed speak limit is measured against the room's running speak timers. -/
def remeasure (h : Hall) (i : SegId) (old new : Settings) : Hall :=
  if new.speakLimit = old.speakLimit then h
  else ((h.speaking i).map (·.1)).foldl (measureTimer new.speakLimit) h

/-- Step 5 of R93: a changed mode or a raised open limit runs the room's grant handling (R82, R83). -/
def regrant (h : Hall) (i : SegId) (old new : Settings) : Hall :=
  if new.mode ≠ old.mode || old.openLimit < new.openLimit then grantHandling h i else h

/-- The settings of a room written, with its generation and ROOM event when any changed, and its wake (R18, R92,
R151). -/
def storeSettings (h : Hall) (i : SegId) (r : Room) (st : Settings) : Hall :=
  if st = r.settings then wake h i
  else wake (raiseRoom .room i (h.setRoom i (some { r with settings := st }.genUp))) i

/-- The hall after SET-ROOM (R92, R93). -/
def setRoomHall (h : Hall) (i : SegId) (r : Room) (st : Settings) : Hall :=
  regrant (remeasure (trimRoom (storeSettings h i r st) i st) i r.settings st) i r.settings st

/-- The body of SET-ROOM (R92). -/
def setRoomBody (s : State) (i : SegId) (fs : List (Nat × FieldValue)) : Reply :=
  if badMode fs then .refuse .range
  else match s.hall.room i with
    | none => .refuse .state
    | some r =>
      let x := writeSettings r.settings fs
      .done x.2 [] (s.floorHall (setRoomHall s.hall i r x.1))

/-- SET-ROOM (R92, R93). -/
def execSetRoom (p : PortId) (tag : Byte) (payload : List Byte) (s : State) : Host.Outcome State Fault Refusal :=
  answerNext (takeRoomCommand s p tag (parseSetRoom payload) (setRoomBody s))

/-! ## Commands on one unit -/

/-- The payload of a command that names a unit and an option byte. -/
def parseUnitOption (l : List Byte) : Option (Option (BitVec 16) × Selector × (Byte × Byte × Byte)) :=
  match condHead l with
  | some (g, [t, a, o]) => some (g, .unit t a, (t, a, o))
  | _ => none

/-- The payload of a command that names a unit. -/
def parseUnit (l : List Byte) : Option (Option (BitVec 16) × Selector × (Byte × Byte)) :=
  match condHead l with
  | some (g, [t, a]) => some (g, .unit t a, (t, a))
  | _ => none

/-- The payload of a command that names a segment. -/
def parseSeg (l : List Byte) : Option (Option (BitVec 16) × Selector × Unit) :=
  match condHead l with
  | some (g, [sg]) => some (g, .seg sg, ())
  | _ => none

/-- A grant by GRANT with the bump of an entry: the entry is sent to CLOSING, the unit granted, and the grant handling
run once after it (R89). -/
def bumpGrant (h : Hall) (i : SegId) (u : UnitId) (r : SlotRef) : Hall :=
  grantHandling (grantUnit (closeEntry h r) u none) i

/-- The body of GRANT, in the order of R89; bit 0 of the option byte is "bump". -/
def grantBody (s : State) (i : SegId) (a : Byte × Byte × Byte) : Reply :=
  match unitOf a.1 a.2.1 with
  | none => .refuse .range
  | some u =>
    let h := s.hall
    let waits := h.floorState u = .idle || h.floorState u = .waiting
    if !(h.unit u).present || !waits then .refuse .state
    else if h.frozen i then .refuse .state
    else if h.freeCount u.trunk = 0 then .refuse .noSlot
    else if (h.unit u).cls ≠ .chair && !h.underLimit i then
      if a.2.2.getLsbD 0 then
        match oldestOpen h i none with
        | some r => .done false [] (s.floorHall (bumpGrant h i u r))
        | none => .refuse .full
      else .refuse .full
    else .done false [] (s.floorHall (grantUnit h u none))

/-- GRANT (R89). -/
def execGrant (p : PortId) (tag : Byte) (payload : List Byte) (s : State) : Host.Outcome State Fault Refusal :=
  answerNext (takeRoomCommand s p tag (parseUnitOption payload) (grantBody s))

/-- The body of GRANT-NEXT, in the order of R90, then the single selection of R116. -/
def grantNextBody (s : State) (i : SegId) (_ : Unit) : Reply :=
  let h := s.hall
  if h.frozen i then .refuse .state
  else if (h.queue i).isEmpty then .refuse .state
  else if (h.queue i).all fun q => h.freeCount q.unit.trunk = 0 then .refuse .noSlot
  else if !h.underLimit i then .refuse .full
  else .done false [] (s.floorHall ((selectOnce h i).getD h))

/-- GRANT-NEXT (R90, R116). -/
def execGrantNext (p : PortId) (tag : Byte) (payload : List Byte) (s : State) : Host.Outcome State Fault Refusal :=
  answerNext (takeRoomCommand s p tag (parseSeg payload) (grantNextBody s))

/-- The body of DROP (R91). -/
def dropBody (s : State) (_ : SegId) (a : Byte × Byte) : Reply :=
  match unitOf a.1 a.2 with
  | none => .refuse .range
  | some u =>
    match s.hall.entryOf u with
    | none => .refuse .state
    | some (r, e) =>
      match e.state with
      | .granted => .done false [] (s.floorHall (cancelAndHandOn s.hall r e))
      | .opening => .done false [] (s.floorHall (closeAndHandle s.hall r))
      | .opened => .done false [] (s.floorHall (closeAndHandle s.hall r))
      | .closing => .done false [] s

/-- DROP (R91). -/
def execDrop (p : PortId) (tag : Byte) (payload : List Byte) (s : State) : Host.Outcome State Fault Refusal :=
  answerNext (takeRoomCommand s p tag (parseUnit payload) (dropBody s))

/-- The body of CANCEL-REQUEST (R91). -/
def cancelRequestBody (s : State) (i : SegId) (a : Byte × Byte) : Reply :=
  match unitOf a.1 a.2 with
  | none => .refuse .range
  | some u =>
    if (s.hall.requestOf u).isSome then .done false [] (s.floorHall (raiseRoom .floor i (denyWaiting s.hall u)))
    else .refuse .state

/-- CANCEL-REQUEST (R91). -/
def execCancelRequest (p : PortId) (tag : Byte) (payload : List Byte) (s : State) : Host.Outcome State Fault Refusal :=
  answerNext (takeRoomCommand s p tag (parseUnit payload) (cancelRequestBody s))

/-! ## ELEVATE -/

/-- The payload of ELEVATE: expected generation, the option byte whose bit 0 is "clear", then a segment with it or a
unit without it (R111, 9.2.1). -/
def parseElevate (l : List Byte) : Option (Option (BitVec 16) × Selector × Option (Byte × Byte)) :=
  match condHead l with
  | some (g, [o, sg]) => if o.getLsbD 0 then some (g, .seg sg, none) else none
  | some (g, [o, t, a]) => if o.getLsbD 0 then none else some (g, .unit t a, some (t, a))
  | _ => none

/-- The elevated mark of room `i` becomes `m`, with a FLOOR event when it changed (R110). -/
def setElevated (h : Hall) (i : SegId) (m : Option UnitId) : Hall :=
  match h.room i with
  | some r => if r.elevated = m then h else raiseRoom .floor i (h.setRoom i (some { r with elevated := m }))
  | none => h

/-- The body of ELEVATE (R111). -/
def elevateBody (s : State) (i : SegId) (a : Option (Byte × Byte)) : Reply :=
  match a with
  | none => .done false [] (s.withHall (setElevated s.hall i none))
  | some x =>
    match unitOf x.1 x.2 with
    | none => .refuse .range
    | some u =>
      if (s.hall.requestOf u).isSome then .done false [] (s.withHall (setElevated s.hall i (some u)))
      else .refuse .state

/-- ELEVATE (R111). -/
def execElevate (p : PortId) (tag : Byte) (payload : List Byte) (s : State) : Host.Outcome State Fault Refusal :=
  answerNext (takeRoomCommand s p tag (parseElevate payload) (elevateBody s))

/-! ## ALL-OFF, STAGE-GAIN and APPLY-GAINS -/

/-- The body of ALL-OFF (R88). -/
def allOffBody (s : State) (i : SegId) (_ : Unit) : Reply := .done false [] (s.floorHall (allOff s.hall i))

/-- ALL-OFF (R88). -/
def execAllOff (p : PortId) (tag : Byte) (payload : List Byte) (s : State) : Host.Outcome State Fault Refusal :=
  answerNext (takeRoomCommand s p tag (parseSeg payload) (allOffBody s))

/-- The payload of STAGE-GAIN: expected generation, unit, gain (R164). -/
def parseStageGain (l : List Byte) : Option (Option (BitVec 16) × Selector × (Byte × Byte × Nat)) :=
  match condHead l with
  | some (g, [t, a, hi, lo]) => some (g, .unit t a, (t, a, wordOf hi lo))
  | _ => none

/-- A pair written to a staging area: in place of the unit's pair, or at the end (R164). -/
def stagePair (l : List (UnitId × Nat)) (u : UnitId) (g : Nat) : List (UnitId × Nat) :=
  if l.any fun x => x.1 = u then l.map fun x => if x.1 = u then (u, g) else x else l ++ [(u, g)]

/-- The body of STAGE-GAIN, in the order of R164. -/
def stageGainBody (s : State) (i : SegId) (a : Byte × Byte × Nat) : Reply :=
  match unitOf a.1 a.2.1, s.hall.room i with
  | none, _ => .refuse .range
  | _, none => .refuse .state
  | some u, some r =>
    if r.staging.pending then .refuse .busy
    else if Config.stagePairs ≤ r.staging.pairs.length && !(r.staging.pairs.any fun x => x.1 = u) then .refuse .full
    else
      let pairs := stagePair r.staging.pairs u (min a.2.2 Config.maxGain)
      .done (Config.maxGain < a.2.2) []
        (s.withHall (s.hall.setRoom i (some { r with staging := { r.staging with pairs := pairs } })))

/-- STAGE-GAIN (R164). -/
def execStageGain (p : PortId) (tag : Byte) (payload : List Byte) (s : State) : Host.Outcome State Fault Refusal :=
  answerNext (takeRoomCommand s p tag (parseStageGain payload) (stageGainBody s))

/-- The body of APPLY-GAINS (R165). -/
def applyGainsBody (s : State) (i : SegId) (_ : Unit) : Reply :=
  match s.hall.room i with
  | none => .refuse .state
  | some r =>
    if r.staging.pending then .refuse .busy
    else .done false []
      (s.withHall (s.hall.setRoom i (some { r with staging := { r.staging with pending := true, applied := false } })))

/-- APPLY-GAINS (R165). -/
def execApplyGains (p : PortId) (tag : Byte) (payload : List Byte) (s : State) : Host.Outcome State Fault Refusal :=
  answerNext (takeRoomCommand s p tag (parseSeg payload) (applyGainsBody s))

/-! ## Timers -/

/-- The speaking entry of a unit whose speak timer runs in a room with a speak limit (R94). -/
def limitedEntry (h : Hall) (u : UnitId) : Option SlotRef :=
  match h.entryOf u with
  | some (r, e) =>
    match (h.roomOf e.seg).bind h.room with
    | some rm => if e.timer.isSome && !e.chair && rm.settings.speakLimit ≠ 0 then some r else none
    | none => none
  | none => none

/-- SPEAK_LIMIT_WARNING: the unit is given WARN and marked warned (R94). -/
def execSpeakLimitWarning (u : UnitId) (s : State) : Host.Outcome State Fault Refusal :=
  match limitedEntry s.hall u with
  | some _ => .next (s.withHall (warnUnit s.hall u))
  | none => .next s

/-- SPEAK_LIMIT_EXPIRY: the entry is sent to CLOSING (R94, R76). -/
def execSpeakLimitExpiry (u : UnitId) (s : State) : Host.Outcome State Fault Refusal :=
  match limitedEntry s.hall u with
  | some r => .next (s.floorHall (closeAndHandle s.hall r))
  | none => .next s

/-- IDLE_TIMER_EXPIRY of a room whose idle timer runs: it becomes DORMANT, with a ROOM event (R150). -/
def execIdleTimerExpiry (i : SegId) (s : State) : Host.Outcome State Fault Refusal :=
  match s.hall.room i with
  | some r =>
    if r.idle.isSome then
      .next (s.withHall (raiseRoom .room i (s.hall.setRoom i (some { r with dormant := true, idle := none }))))
    else .next s
  | none => .next s

end Sys2Proof.Machine
end

