-- ==== Sys2Proof/Machine/BoothCommands.lean ====
section
/-! DEFINITION. The commands on interpretation booths (Chapter 6): DEFINE-BOOTH, BOOTH-STATE, BOOTH-OUTPUT, BOOTH-MIC,
BOOTH-GAIN, PIN-SOURCE and UNPIN-SOURCE. -/

namespace Sys2Proof.Machine

/-- Change the record of a booth. -/
def Hall.setBooth (h : Hall) (b : BoothId) (x : Booth) : Hall := { h with booths := put h.booths b x }

/-- The segments of an optional room; a booth that belongs to no room concerns no segment (R138). -/
def Hall.segsAt (h : Hall) (i : Option SegId) : SegSet := match i with | some j => h.segsOf j | none => 0

/-- A BOOTH event for the room of a booth (R138). -/
def raiseBooth (h : Hall) (b : BoothId) : Hall := raise .booth (h.segsAt (h.boothRoom b)) h

/-- The commands on booths are the desk's and the venue's (Table 9-4). -/
def boothRoles : List Role := [.desk, .venue]

/-! ## DEFINE-BOOTH -/

/-- The alternatives of DEFINE-BOOTH (R120). -/
inductive BoothDefinition where
  | undefine
  | team (home a b : Byte) (passive : List Nat)
  deriving DecidableEq, Repr

/-- The payload of DEFINE-BOOTH: an option byte whose bit 0 is "undefine", the booth, and without it the home segment
or 255, the A and the B language and the passive list. -/
def parseDefineBooth : List Byte → Option (Byte × BoothDefinition)
  | [o, b] => if o.getLsbD 0 then some (b, .undefine) else none
  | o :: b :: home :: x :: y :: rest =>
    if o.getLsbD 0 then none else (wholeList rest).map fun l => (b, .team home x y l)
  | _ => none

/-- A booth record after DEFINE-BOOTH with the home and languages given (R120). -/
def Booth.definedAs (x : Booth) (defined : Bool) (home : Option SegId) (a b : Nat) (passive : List Nat) : Booth :=
  { x with
    defined := defined, home := home, langA := a, langB := b, passive := passive, side := .a, source := .floor,
    pin := none, noPivot := false, displaced := false,
    state := if defined && home.isSome then .standby else .unassigned }

/-- The hall after an accepted DEFINE-BOOTH, with the BOOTH event for the room before and the room after (R120). -/
def redefineBooth (h : Hall) (b : BoothId) (x : Booth) : Hall :=
  let h1 := h.setBooth b x
  raise .booth (h.segsAt (h.boothRoom b) ||| h1.segsAt (h1.boothRoom b)) h1

/-- The codes of a team's definition; a B language of 0 is none (R118, R120). -/
def teamCodes (a b : Nat) (passive : List Nat) : List Nat := a :: ((if b = 0 then [] else [b]) ++ passive)

/-- The body of DEFINE-BOOTH, in the order of R120. -/
def defineBoothBody (s : State) (a : Byte × BoothDefinition) : Reply :=
  match idOf 12 a.1 with
  | none => .refuse .range
  | some b =>
    let x := s.hall.booths[b]
    match a.2 with
    | .undefine =>
      if x.state = .live then .refuse .state
      else .done false [] (s.withHall (redefineBooth s.hall b (x.definedAs false none 0 0 [])))
    | .team home la lb l =>
      match idOrNamed 8 home with
      | none => .refuse .range
      | some sg =>
        if la.toNat = 0 || 63 < la.toNat || 63 < lb.toNat || l.any (fun c => c = 0 || 63 < c) then .refuse .range
        else if 2 < l.length then .refuse .full
        else if repeats (teamCodes la.toNat lb.toNat l) then .refuse .duplicate
        else if x.state = .live then .refuse .state
        else .done false [] (s.withHall (redefineBooth s.hall b (x.definedAs true sg la.toNat lb.toNat l)))

/-- DEFINE-BOOTH (R120). -/
def execDefineBooth (p : PortId) (tag : Byte) (payload : List Byte) (s : State) : Host.Outcome State Fault Refusal :=
  answerNext (takeCommand s p tag boothRoles (parseDefineBooth payload) (defineBoothBody s))

/-! ## BOOTH-STATE and BOOTH-OUTPUT -/

/-- Another LIVE booth of room `i` outputs a language (R121, check 1). -/
def outputClash (h : Hall) (i : SegId) (b : BoothId) (code : Nat) : Bool :=
  (h.liveBooths i).any fun c => c ≠ b && (h.booths[c]).output = code

/-- A language is not in the room's list and the list has no spare index (R121, check 2). -/
def noIndex (h : Hall) (i : SegId) (code : Nat) : Bool :=
  match h.room i with
  | some r => !r.langs.contains code && r.size - 1 ≤ r.langs.length
  | none => true

/-- Booth `b` of room `i` has become, or stays, LIVE with a new output language: it is appended where the list lacks
it, relay is re-evaluated, and BOOTH is raised (R121, R122, R124). -/
def settleOutput (h : Hall) (i : SegId) (code : Nat) : Hall :=
  raiseRoom .booth i (reevaluate (appendLang h i code) i)

/-- Booth `b` goes LIVE in room `i`; a booth with its mic on wakes the room (R121, R151). -/
def goLive (h : Hall) (i : SegId) (b : BoothId) : Hall :=
  let x := h.booths[b]
  let h1 := settleOutput (h.setBooth b { x with state := .live, displaced := false }) i x.output
  if x.mic then wake h1 i else h1

/-- A booth loses what names booth `b`: a pin to it and a source from it (R123). -/
def forgetPivot (b : BoothId) (x : Booth) : Booth :=
  { x with
    pin := if x.pin = some (.booth b) then none else x.pin,
    source := if x.source = .booth b then .floor else x.source }

/-- LIVE booth `b` of room `i` stands by (R123). -/
def leaveLive (h : Hall) (i : SegId) (b : BoothId) : Hall :=
  let bs : Vector Booth 12 :=
    tab fun c => if c = b then standBy (h.booths[c]).displaced h.booths[c] else forgetPivot b h.booths[c]
  raiseRoom .booth i (reevaluate { h with booths := bs } i)

/-- The target state of BOOTH-STATE, true for LIVE: its values are LIVE and STANDBY, in that order (R121; log
entry 8). -/
def targetOf : Nat → Option Bool
  | 0 => some true
  | 1 => some false
  | _ => none

/-- The body of BOOTH-STATE (R121, R123). -/
def boothStateBody (s : State) (a : Byte × Byte) : Reply :=
  match idOf 12 a.1, targetOf a.2.toNat with
  | some b, some live =>
    let x := s.hall.booths[b]
    match s.hall.boothRoom b with
    | none => .refuse .state
    | some i =>
      if x.state = .unassigned then .refuse .state
      else if live then
        if x.state = .live then .done false [] s
        else if outputClash s.hall i b x.output then .refuse .duplicate
        else if noIndex s.hall i x.output then .refuse .full
        else .done false [] (s.floorHall (goLive s.hall i b))
      else if x.state = .live then .done false [] (s.floorHall (leaveLive s.hall i b))
      else .done false [] s
  | _, _ => .refuse .range

/-- BOOTH-STATE (R121, R123). -/
def execBoothState (p : PortId) (tag : Byte) (payload : List Byte) (s : State) : Host.Outcome State Fault Refusal :=
  answerNext (takeCommand s p tag boothRoles (parse2 payload) (boothStateBody s))

/-- The body of BOOTH-OUTPUT (R124). -/
def boothOutputBody (s : State) (a : Byte × Byte) : Reply :=
  match idOf 12 a.1, sideOf a.2.toNat with
  | some b, some side =>
    let x := s.hall.booths[b]
    let y := { x with side := side }
    if !x.defined then .refuse .state
    else if side = .b && x.langB = 0 then .refuse .state
    else if side = x.side then .done false [] s
    else if x.state = .live then
      match s.hall.boothRoom b with
      | none => .refuse .state
      | some i =>
        if outputClash s.hall i b y.output then .refuse .duplicate
        else if noIndex s.hall i y.output then .refuse .full
        else .done false [] (s.floorHall (settleOutput (s.hall.setBooth b y) i y.output))
    else .done false [] (s.withHall (raiseBooth (s.hall.setBooth b y) b))
  | _, _ => .refuse .range

/-- BOOTH-OUTPUT (R124). -/
def execBoothOutput (p : PortId) (tag : Byte) (payload : List Byte) (s : State) : Host.Outcome State Fault Refusal :=
  answerNext (takeCommand s p tag boothRoles (parse2 payload) (boothOutputBody s))

/-! ## BOOTH-MIC and BOOTH-GAIN -/

/-- The mic of a booth is stored: a change raises BOOTH for the booth's room, and a mic turned on wakes it (R125). -/
def storeMic (h : Hall) (b : BoothId) (on : Bool) : Hall :=
  let x := h.booths[b]
  if x.mic = on then h
  else
    let h1 := raiseBooth (h.setBooth b { x with mic := on }) b
    match on, h1.boothRoom b with
    | true, some i => wake h1 i
    | _, _ => h1

/-- The body of BOOTH-MIC (R125). -/
def boothMicBody (s : State) (a : Byte × Byte) : Reply :=
  match idOf 12 a.1, onOffOf a.2.toNat with
  | some b, some on => .done false [] (s.floorHall (storeMic s.hall b on))
  | _, _ => .refuse .range

/-- BOOTH-MIC (R125). -/
def execBoothMic (p : PortId) (tag : Byte) (payload : List Byte) (s : State) : Host.Outcome State Fault Refusal :=
  answerNext (takeCommand s p tag boothRoles (parse2 payload) (boothMicBody s))

/-- A payload of one byte and a two-byte value. -/
def parseByteWord : List Byte → Option (Byte × Nat)
  | [a, hi, lo] => some (a, wordOf hi lo)
  | _ => none

/-- The body of BOOTH-GAIN (R125). -/
def boothGainBody (s : State) (a : Byte × Nat) : Reply :=
  match idOf 12 a.1 with
  | none => .refuse .range
  | some b =>
    .done (Config.maxGain < a.2) []
      (s.withHall (s.hall.setBooth b { s.hall.booths[b] with gain := min a.2 Config.maxGain }))

/-- BOOTH-GAIN (R125). -/
def execBoothGain (p : PortId) (tag : Byte) (payload : List Byte) (s : State) : Host.Outcome State Fault Refusal :=
  answerNext (takeCommand s p tag boothRoles (parseByteWord payload) (boothGainBody s))

/-! ## Pins -/

/-- A source from its byte: a booth, or 255 for FLOOR (9.2.1). -/
def sourceOf (b : Byte) : Option Source :=
  match idOrNamed 12 b with
  | none => none
  | some none => some .floor
  | some (some t) => some (.booth t)

/-- Some booth other than `b` has `b` as its source. -/
def isPivot (h : Hall) (b : BoothId) : Bool :=
  (List.finRange 12).any fun c => c ≠ b && (h.booths[c]).source = .booth b

/-- Checks 3 to 8 of R131 on a pin of LIVE booth `b` of room `i` to booth `t`. -/
def pinRefusal (h : Hall) (i : SegId) (b t : BoothId) : Option Status :=
  if t = b then some .loop
  else if h.floorMatched b then some .state
  else if !(h.liveBooths i).contains t then some .state
  else if (h.booths[t]).source ≠ .floor then some .loop
  else if (h.booths[t]).noPivot then some .state
  else if isPivot h b then some .state
  else none

/-- Relay re-evaluated in room `i` after a command has set or cleared a pin. The re-evaluation sees the room as the
command leaves it, and raises BOOTH when it changes a source, a pin or a no-pivot flag there; a pin that it leaves with
everything else as the command wrote it raises nothing (R127, R130, R138; log entry 19). -/
def repin (h : Hall) (i : SegId) (b : BoothId) (x : Booth) : Hall := reevaluate (h.setBooth b x) i

/-- The body of PIN-SOURCE, in the order of R131. -/
def pinSourceBody (s : State) (a : Byte × Byte) : Reply :=
  match idOf 12 a.1, sourceOf a.2 with
  | some b, some src =>
    let x := s.hall.booths[b]
    match s.hall.boothRoom b with
    | none => .refuse .state
    | some i =>
      if x.state ≠ .live then .refuse .state
      else match (match src with | .floor => none | .booth t => pinRefusal s.hall i b t) with
        | some st => .refuse st
        | none =>
          if x.pin = some src then .done false [] s
          else .done false [] (s.withHall (repin s.hall i b { x with pin := some src, source := src }))
  | _, _ => .refuse .range

/-- PIN-SOURCE (R131). -/
def execPinSource (p : PortId) (tag : Byte) (payload : List Byte) (s : State) : Host.Outcome State Fault Refusal :=
  answerNext (takeCommand s p tag boothRoles (parse2 payload) (pinSourceBody s))

/-- The body of UNPIN-SOURCE (R132). -/
def unpinSourceBody (s : State) (a : Byte) : Reply :=
  match idOf 12 a with
  | none => .refuse .range
  | some b =>
    let x := s.hall.booths[b]
    match x.pin, s.hall.boothRoom b with
    | none, _ => .done false [] s
    | some _, none => .done false [] (s.withHall (s.hall.setBooth b { x with pin := none }))
    | some _, some i => .done false [] (s.withHall (repin s.hall i b { x with pin := none }))

/-- UNPIN-SOURCE (R132). -/
def execUnpinSource (p : PortId) (tag : Byte) (payload : List Byte) (s : State) : Host.Outcome State Fault Refusal :=
  answerNext (takeCommand s p tag boothRoles (parse1 payload) (unpinSourceBody s))

end Sys2Proof.Machine
end

