-- ==== Sys2Proof/Machine/ChannelCommands.lean ====
section
/-! DEFINITION. The commands on windows and radiators (Chapter 7): SET-WINDOW and SET-RADIATORS. -/

namespace Sys2Proof.Machine

/-- The payload of SET-WINDOW: expected generation, segment, base, size (R145). -/
def parseSetWindow (l : List Byte) : Option (Option (BitVec 16) × Selector × (Nat × Nat)) :=
  match condHead l with
  | some (g, [sg, base, size]) => some (g, .seg sg, (base.toNat, size.toNat))
  | _ => none

/-- A channel of the window of a base and a size lies in the window of a room other than `i` (R145, check 5). -/
def overlaps (h : Hall) (i : SegId) (base size : Nat) : Bool :=
  h.roomIds.any fun j => j ≠ i && match h.room j with
    | some r => (List.range size).any fun k => inWindow r (base + k)
    | none => false

/-- The hall after an accepted SET-WINDOW that changes the window (R145). -/
def moveWindow (h : Hall) (i : SegId) (r : Room) (base size : Nat) : Hall :=
  wake (raiseRoom .room i (h.setRoom i
    (some { r with base := base, size := size, placement := .moved, dropped := [] }.genUp))) i

/-- The body of SET-WINDOW, in the order of R145. -/
def setWindowBody (s : State) (i : SegId) (a : Nat × Nat) : Reply :=
  match s.hall.room i with
  | none => .refuse .state
  | some r =>
    if 31 < a.1 || a.2 < 1 || 16 < a.2 then .refuse .range
    else if r.frozen then .refuse .state
    else if Config.channels < a.1 + a.2 then .refuse .range
    else if a.2 < 1 + r.langs.length then .refuse .full
    else if overlaps s.hall i a.1 a.2 then .refuse .overlap
    else if a.1 = r.base && a.2 = r.size then .done false [] (s.floorHall (wake s.hall i))
    else .done false [] (s.floorHall (moveWindow s.hall i r a.1 a.2))

/-- SET-WINDOW (R145). -/
def execSetWindow (p : PortId) (tag : Byte) (payload : List Byte) (s : State) : Host.Outcome State Fault Refusal :=
  answerNext (takeRoomCommand s p tag (parseSetWindow payload) (setWindowBody s))

/-- Pairs of a segment and an enable. -/
def pairItems : List Byte → Option (List (Byte × Byte))
  | [] => some []
  | a :: b :: rest => (pairItems rest).map fun l => (a, b) :: l
  | [_] => none

/-- The payload of SET-RADIATORS: a list of one or more segments, each with an enable (R148). -/
def parseRadiators : List Byte → Option (List (Byte × Byte))
  | c :: rest => match pairItems rest with
    | some l => if l.length = c.toNat ∧ l ≠ [] then some l else none
    | none => none
  | [] => none

/-- A segment and an enable, or none where either is out of range (R148). -/
def radiatorItem (x : Byte × Byte) : Option (SegId × Bool) :=
  match idOf 8 x.1, onOffOf x.2.toNat with
  | some sg, some on => some (sg, on)
  | _, _ => none

/-- The items of a list, or none where one of them is none. -/
def allSome {α β : Type} (f : α → Option β) : List α → Option (List β)
  | [] => some []
  | x :: xs =>
    match f x, allSome f xs with
    | some y, some ys => some (y :: ys)
    | _, _ => none

/-- The venue enables stored, with a ROOM event concerning each segment whose enable changed (R148). DESIGN CHOICE: of a
segment named twice the last enable stands, and ROOM is raised for it only where that differs from the enable held before
the command (log entry 7). -/
def storeRadiators (h : Hall) (l : List (SegId × Bool)) : Hall :=
  let en := l.foldl (fun v x => put v x.1 x.2) h.radiators
  (allSegIds.filter fun sg => en[sg] ≠ h.radiators[sg]).foldl (fun g sg => raise .room (setOf sg) g)
    { h with radiators := en }

/-- The body of SET-RADIATORS (R148). -/
def setRadiatorsBody (s : State) (a : List (Byte × Byte)) : Reply :=
  match allSome radiatorItem a with
  | none => .refuse .range
  | some l => .done false [] (s.withHall (storeRadiators s.hall l))

/-- SET-RADIATORS (R148). -/
def execSetRadiators (p : PortId) (tag : Byte) (payload : List Byte) (s : State) : Host.Outcome State Fault Refusal :=
  answerNext (takeCommand s p tag [.venue] (parseRadiators payload) (setRadiatorsBody s))

end Sys2Proof.Machine
end

