-- ==== Sys2Proof/Machine/Mix.lean ====
section
/-! DEFINITION. The mix engine (Chapter 8): the block start with the commit, REINIT and gain apply it takes (R38, R154,
R165, R179), ramps (R155 to R157, R161), the block end and its clips (R160), and the sample of a word-clock period
(R156, R158, R159, R162, R163). -/

namespace Sys2Proof.Machine

/-! ## Ramp ends -/

/-- The state with an entry's ramp ended: e at the target, no ramp (R157). -/
def Entry.rampDone (e : Entry) (rp : Ramp) : Entry := { e with e := rp.target, ramp := none }

/-- A latched entry whose slot is `r`, once its entry has been removed: it keeps the unit the entry had (R167). -/
def LatchedEntry.removed (r : SlotRef) (u : Option AddrIx) (x : LatchedEntry) : LatchedEntry :=
  if x.ref = r && x.left.isNone then { x with left := some u } else x

/-- The latched entries after the entry of slot `r` has been removed, its unit being `u` (R167). -/
def Mix.entryLeft (m : Mix) (r : SlotRef) (u : Option AddrIx) : Mix :=
  { m with rooms := tab fun i => (m.rooms[i]).map fun x => { x with entries := x.entries.map (·.removed r u) } }

/-- A ramp ends (R157): an OPENING entry enters OPEN with a FLOOR event, a CLOSING entry at 0 is removed and DRAIN
tested for its end, and nothing is reported otherwise. -/
def endRamp (s : State) (r : SlotRef) (e : Entry) (rp : Ramp) : State :=
  let d := e.rampDone rp
  match e.state with
  | .granted => s.withHall (s.hall.setEntry r (some d))
  | .opened => s.withHall (s.hall.setEntry r (some d))
  | .opening => s.floorHall (raiseAt .floor e.seg (s.hall.setEntry r (some { d with state := .opened })))
  | .closing =>
    if rp.target = 0 then
      drainTest (({ s with mix := s.mix.entryLeft r e.unit } : State).floorHall (closingDone s.hall r d))
    else s.withHall (s.hall.setEntry r (some d))

/-- RAMP_END of the entry in a slot, when a ramp runs there (R157). -/
def execRampEnd (t : TrunkId) (k : SlotIx) (s : State) : Host.Outcome State Fault Refusal :=
  let r : SlotRef := { trunk := t, slot := k }
  match s.hall.entry r with
  | some e => match e.ramp with
    | some rp => .next (endRamp s r e rp)
    | none => .next s
  | none => .next s

/-- The ramp of a slot's entry, if it has mixed its last sample, ends. -/
def endIfMixed (s : State) (r : SlotRef) : State :=
  match s.hall.entry r with
  | some e => match e.ramp with
    | some rp => if rp.len ≤ rp.pos then endRamp s r e rp else s
    | none => s
  | none => s

/-! ## The block end -/

/-- A clipped room's counter rises, stopping at 65535, and a CLIP event is raised (R160). -/
def clipRoom (h : Hall) (i : SegId) : Hall :=
  raiseRoom .clip i (h.mapRoom i fun r => { r with clip := saturate r.clip })

/-- The end of the block in progress (R160). -/
def endBlock (s : State) : State :=
  { s with
    hall := (allSegIds.filter fun i => s.mix.clipped[i]).foldl clipRoom s.hall,
    mix := { s.mix with block := none, clipped := Vector.replicate 8 false } }

/-- MIX_BLOCK_END of the block in progress (R160). -/
def execMixBlockEnd (s : State) : Host.Outcome State Fault Refusal :=
  if s.mix.block.isSome then .next (endBlock s) else .next s

/-! ## The block start -/

/-- What the block before still owes when a block starts: the ends of the ramps that have mixed their last sample, and
its own end (R157, R160; log entry 6). -/
def settleBlock (s : State) : State :=
  let s1 := allSlots.foldl endIfMixed s
  if s1.mix.block.isSome then endBlock s1 else s1

/-- REINIT when the venue port has it pending, else the commit when one waits (R38, R179). -/
def applyPending (s : State) : State :=
  if (List.finRange 4).any fun p => (s.hall.ports[p]).reinitPending then reinitApply s
  else if s.regroup.state = .commitWait then commit s
  else s

/-- The gains of a staging area written to the unit table (R165). -/
def writeGains (h : Hall) (l : List (UnitId × Nat)) : Hall :=
  l.foldl (fun g x => g.setUnit x.1 { g.unit x.1 with gain := x.2 }) h

/-- A room's pending gain apply is made (R165). DESIGN CHOICE: the areas are written in ascending room id, so that of
two areas with one unit the higher room's gain stands (log entry 29). -/
def applyRoomGains (h : Hall) (i : SegId) : Hall :=
  match h.room i with
  | some r =>
    if r.staging.pending then (writeGains h r.staging.pairs).setRoom i (some { r with staging := Staging.empty })
    else h
  | none => h

/-- An entry ends at the block start that would latch it: CLOSING with e of 0, and no ramp that is itself on its way
to 0 (R155, R157; log entry 16). -/
def endsAtStart (e : Entry) : Bool :=
  e.state = .closing && e.e = 0 && match e.ramp with | some rp => rp.target ≠ 0 | none => true

/-- A CLOSING entry with e of 0 is removed at the block start (R157). DESIGN CHOICE: several are removed, and their
slots handed on, in trunk and slot order (log entry 30). -/
def endSilent (s : State) (r : SlotRef) : State :=
  match s.hall.entry r with
  | some e => if endsAtStart e then drainTest (s.withHall (closingDone s.hall r e)) else s
  | none => s

/-- An entry's latched target (R154): the unit's gain in OPENING or OPEN, 0 in CLOSING. -/
def targetGain (h : Hall) (t : TrunkId) (e : Entry) : Nat :=
  match e.state, holderOf t e with
  | .opening, some u => (h.unit u).gain
  | .opened, some u => (h.unit u).gain
  | _, _ => 0

/-- A room as latched (R154). -/
def latchRoom (h : Hall) (i : SegId) (r : Room) : LatchedRoom :=
  { segs := r.segs,
    entries := ((h.speaking i).filter fun x => x.2.state ≠ .granted).map fun x =>
      { ref := x.1, target := targetGain h x.1.trunk x.2, left := none },
    gain := r.settings.gain, duck := r.settings.duck, ramp := r.settings.ramp, dormant := r.dormant }

/-- A booth as latched (R154). -/
def latchBooth (h : Hall) (b : BoothId) : LatchedBooth :=
  let x := h.booths[b]
  { state := x.state, room := h.boothRoom b, lang := x.output, mic := x.mic, gain := x.gain, source := x.source,
    onAir := x.airing, matched := h.floorMatched b }

/-- The ramp state of a latched entry at a block start (R155). -/
def Entry.latched (e : Entry) (target len : Nat) : Entry :=
  let fresh : Entry := { e with ramp := some { start := e.e, target := target, len := len, pos := 0 } }
  match e.ramp with
  | some rp => if rp.target = target then e else fresh
  | none => if e.e ≠ target || e.state = .opening then fresh else e

/-- The ramps of a latched room's entries start (R155). -/
def startRamps (h : Hall) (r : LatchedRoom) : Hall :=
  r.entries.foldl (fun g x => g.setEntry x.ref ((g.entry x.ref).map fun e => e.latched x.target r.ramp)) h

/-- A booth's channel targets: voice and floor level (R161). -/
def channelTargets (b : LatchedBooth) (duck : Nat) : Nat × Nat := if b.onAir && !b.matched then (b.gain, duck) else (0, 16384)

/-- A channel state with its targets latched (R161). -/
def ChState.toward (c : ChState) (t : Nat × Nat) (len : Nat) : ChState :=
  let now := match c.ramp with | some rp => (rp.targetV, rp.targetD) | none => (c.v, c.d)
  if now = t then c
  else { c with ramp := some { startV := c.v, targetV := t.1, startD := c.d, targetD := t.2, len := len, pos := 0 } }

/-- A booth's channel state at a block start: reset while it is not LIVE and when its output language is another than
the last one latched, and sent toward its targets (R161). -/
def channelStart (rooms : Vector (Option LatchedRoom) 8) (old new : LatchedBooth) (c : ChState) : ChState :=
  if new.state ≠ .live then ChState.reset
  else
    let c1 := if old.lang = new.lang then c else ChState.reset
    match new.room.bind fun i => rooms[i] with
    | some r => c1.toward (channelTargets new r.duck) r.ramp
    | none => c1

/-- The latch of a block start, with the ramps it starts (R153 to R155, R161). -/
def latch (s : State) : State :=
  let h := s.hall
  let rooms : Vector (Option LatchedRoom) 8 := tab fun i => (h.room i).map (latchRoom h i)
  let booths : Vector LatchedBooth 12 := tab (latchBooth h)
  { s with
    hall := (allSegIds.filterMap fun i => rooms[i]).foldl startRamps h,
    mix :=
      { s.mix with
        blockCount := s.mix.blockCount + 1, block := some 0, rooms := rooms, booths := booths,
        chans := tab fun c => h.content c.val,
        chStates := tab fun b => channelStart rooms s.mix.booths[b] booths[b] s.mix.chStates[b],
        clipped := Vector.replicate 8 false } }

/-- A block start, in the order of its effects: what the last block owes, REINIT or the commit, the gain applies, the
entries that end, and the latch (R154, R157, R165, R179). -/
def startBlock (s : State) : State :=
  let s1 := applyPending (settleBlock s)
  let s2 := s1.withHall (allSegIds.foldl applyRoomGains s1.hall)
  latch (allSlots.foldl endSilent s2).sweep

/-- MIX_BLOCK_START (R154). -/
def execMixBlockStart (s : State) : Host.Outcome State Fault Refusal := .next (startBlock s)

/-! ## The arithmetic of a sample -/

/-- The value of a ramp at position `k` (R156). `len` is even. -/
def rampAt (start target len k : Nat) : Nat :=
  if start ≤ target then start + ((target - start) * k + len / 2) / len
  else start - ((start - target) * k + len / 2) / len

/-- The NOM factor of Table 8-1 (R158). -/
def nom (n : Nat) : Nat :=
  match n with
  | 0 => 16384
  | 1 => 16384
  | 2 => 11585
  | 3 => 9459
  | 4 => 8192
  | 5 => 7327
  | 6 => 6689
  | 7 => 6193
  | _ => 5793

/-- The coefficient of a mixed entry (R158). -/
def coefficient (e n g : Nat) : Nat := min 32767 ((e * nom n * g + 2 ^ 27) / 2 ^ 28)

/-- Saturation to 24 bits (R159). -/
def sat24 (x : Int) : Int := max (-8388608) (min x 8388607)

/-- The quotient of a product sum by 16384, rounded half up (R159, R162). -/
def rounded (acc : Int) : Int := (acc + 8192) / 16384

/-- A sample from its value. -/
def sampleOf (x : Int) : Sample := BitVec.ofInt 24 x

/-- The sample a trunk delivers in a slot: 0 while it is UNPOWERED or TRIPPED (R66). -/
def slotSample (s : State) (x : AudioIn) (r : SlotRef) : Int :=
  if powered (s.trunks[r.trunk]).state then ((x.slots[r.trunk])[r.slot]).toInt else 0

/-- The effective gain of the entry in a slot. -/
def gainAt (h : Hall) (r : SlotRef) : Nat := match h.entry r with | some e => e.e | none => 0

/-- A room's accumulator in a sample (R159). -/
def accumulate (s : State) (x : AudioIn) (r : LatchedRoom) : Int :=
  r.entries.foldl
    (fun acc e => acc + slotSample s x e.ref * (coefficient (gainAt s.hall e.ref) r.entries.length r.gain : Nat)) 0

/-- A language channel's value (R162). -/
def channelValue (voice floor : Int) (v d : Nat) : Int := sat24 (rounded (voice * (v : Nat) + floor * (d : Nat)))

/-- An entry's ramp advances by one sample (R156). -/
def Entry.advance (e : Entry) : Entry :=
  match e.ramp with
  | some rp =>
    if rp.pos < rp.len then
      { e with e := rampAt rp.start rp.target rp.len (rp.pos + 1), ramp := some { rp with pos := rp.pos + 1 } }
    else e
  | none => e

/-- A channel's ramp advances by one sample, and ends with its last (R156, R161). -/
def ChState.advance (c : ChState) : ChState :=
  match c.ramp with
  | some rp =>
    let k := rp.pos + 1
    { v := rampAt rp.startV rp.targetV rp.len k, d := rampAt rp.startD rp.targetD rp.len k,
      ramp := if rp.len ≤ k then none else some { rp with pos := k } }
  | none => c

/-- Every ramp advances by one sample (R156, R161). -/
def advanceRamps (s : State) : State :=
  { s with
    hall := { s.hall with pools := tab fun t => tab fun k => ((s.hall.pools[t])[k]).map Entry.advance },
    mix := { s.mix with chStates := tab fun b => (s.mix.chStates[b]).advance } }

/-! ## The sample -/

/-- The room floors of a sample before saturation (R159); 0 where there is no room. -/
def rawFloors (s : State) (x : AudioIn) : Vector Int 8 :=
  tab fun i => match s.mix.rooms[i] with | some r => rounded (accumulate s x r) | none => 0

/-- The floor sample of an optional room. -/
def floorAt (f : Vector Int 8) (i : Option SegId) : Int := match i with | some j => f[j] | none => 0

/-- The language channels of a sample: one for each booth latched as LIVE (R162). -/
def languageChannels (s : State) (x : AudioIn) (f : Vector Int 8) : Vector Int 12 :=
  tab fun b =>
    let l := s.mix.booths[b]
    if l.state = .live then
      channelValue (x.voices[b]).toInt (floorAt f l.room) (s.mix.chStates[b]).v (s.mix.chStates[b]).d
    else 0

/-- The content of a distribution channel in a sample (R163). -/
def contentValue (f : Vector Int 8) (lang : Vector Int 12) : ChanContent → Int
  | .silence => 0
  | .floor i => f[i]
  | .lang b => lang[b]

/-- The feed of a booth in a sample (R133, R163). -/
def feedValue (f : Vector Int 8) (lang : Vector Int 12) (l : LatchedBooth) : Int :=
  match l.state, l.source with
  | .unassigned, _ => 0
  | .standby, _ => floorAt f l.room
  | .live, .floor => floorAt f l.room
  | .live, .booth p => lang[p]

/-- The latched room that contains a segment (R163). -/
def latchedRoomOf (rooms : Vector (Option LatchedRoom) 8) (sg : SegId) : Option SegId :=
  allSegIds.find? fun i => match rooms[i] with | some r => inSet r.segs sg | none => false

/-- One sample is mixed in block `n` samples old: ramps advance, floors, language channels and outputs are formed, and
the rooms whose floor saturated are marked (R156 to R163). -/
def mixSample (s : State) (x : AudioIn) (n : Nat) : State :=
  let s1 := advanceRamps s
  let raw := rawFloors s1 x
  let f : Vector Int 8 := tab fun i => sat24 raw[i]
  let lang := languageChannels s1 x f
  { s1 with mix :=
    { s1.mix with
      block := some (n + 1),
      clipped := tab fun i => s1.mix.clipped[i] || raw[i] ≠ f[i],
      out :=
        { dist := tab fun c => sampleOf (contentValue f lang s1.mix.chans[c]),
          segs := tab fun sg => sampleOf (floorAt f (latchedRoomOf s1.mix.rooms sg)),
          feeds := tab fun b => sampleOf (feedValue f lang s1.mix.booths[b]) } } }

/-- WORD_CLOCK_PERIOD: one sample. Between blocks, and after the 48th sample, the period is the first of a new block,
which starts with it (R153; log entry 6). -/
def execWordClockPeriod (x : AudioIn) (s : State) : Host.Outcome State Fault Refusal :=
  match s.mix.block with
  | some n =>
    if n < Config.blockLength then .next (mixSample s x n) else .next (mixSample (startBlock s) x 0)
  | none => .next (mixSample (startBlock s) x 0)

end Sys2Proof.Machine
end

