-- ==== Sys2Proof/Machine/Reads.lean ====
section
/-! DEFINITION. The reads: READ-WALLS (R13), READ-REGROUP (R46), READ-ROOM (R20, R152, R167), READ-QUEUE and READ-UNIT
(R98), READ-BOOTH (R137), READ-TRUNK (R67, R101) and READ-FLAGS (R183), with their payloads and answers coded as
9.2.1 states (log entries 7 and 8). -/

namespace Sys2Proof.Machine

/-! ## Shared answer parts -/

/-- A time in milliseconds. -/
def bTime (ms : Nat) : List Byte := b4 ms

/-- A unit of trunk `t`, or 255 for "orphaned". -/
def bHolder (t : TrunkId) : Option AddrIx → List Byte
  | some a => bUnit { trunk := t, addr := a }
  | none => b1 255

/-- The fourteen settings, each a two-byte value, in the order of R92. -/
def bSettings (x : Settings) : List Byte :=
  b2 (modeCode x.mode) ++ b2 x.openLimit ++ b2 x.queueLimit ++ b2 x.speakLimit ++ b2 x.vip ++ b2 x.langBonus
  ++ b2 x.segBonus ++ b2 x.jump ++ b2 x.max ++ b2 x.guard ++ b2 x.duck ++ b2 x.gain ++ b2 x.ramp ++ b2 x.idle

/-! ## READ-WALLS -/

/-- The payload of READ-WALLS: an option byte whose bit 0 is "defaults", and a segment with it. -/
def parseReadWalls : List Byte → Option (Option Byte)
  | [o] => if o.getLsbD 0 then none else some none
  | [o, sg] => if o.getLsbD 0 then some (some sg) else none
  | _ => none

/-- The stuck timer: stopped, running with its remaining time, or expired. -/
def bStuck : Stuck → List Byte
  | .stopped => b1 0
  | .running ms => b1 1 ++ bTime ms
  | .expired => b1 2

/-- The answer's part for one wall (R13). -/
def bWall (w : Wall) : List Byte :=
  bOpt (fun x => bSeg x.1 ++ bSeg x.2) w.pair ++ b1 (readingCode w.raw) ++ b1 (settledCode w.settled)
  ++ b1 (overrideCode w.ovr) ++ bOpt (fun x => b1 (settledCode x)) (effective w) ++ bOpt bTime w.settle
  ++ bStuck w.stuck

/-- A defaults record, in the order of R15. -/
def bDefaults (d : Defaults) : List Byte :=
  bSettings d.settings ++ b2 d.base ++ b2 d.size ++ bList b1 d.wanted ++ b2 d.floorLang

/-- The answer of READ-WALLS without an option (R13). -/
def wallsAnswer (sc : Scanner) : List Byte :=
  ((List.finRange 12).flatMap fun i => bWall sc.walls[i]) ++ bWhether sc.lock ++ b2 sc.settleTime
  ++ (allSegIds.flatMap fun i => b1 sc.ranks[i]) ++ bWhether (atRest sc)

/-- The body of READ-WALLS (R13). -/
def readWallsBody (s : State) (a : Option Byte) : Reply :=
  match a with
  | none => .done false (wallsAnswer s.scanner) s
  | some b => match idOf 8 b with
    | none => .refuse .range
    | some sg => .done false (bDefaults s.scanner.defaults[sg]) s

/-- READ-WALLS (R13). -/
def execReadWalls (p : PortId) (tag : Byte) (payload : List Byte) (s : State) : Host.Outcome State Fault Refusal :=
  answerNext (takeCommand s p tag anyRole (parseReadWalls payload) (readWallsBody s))

/-! ## READ-REGROUP -/

/-- The answer of READ-REGROUP (R46), with the pending map as the regroup record holds it; that it equals the active map
in STEADY (R22) is part of `State.mapsOk`. DESIGN CHOICE: the consent set and the silent list are counted lists of
ports, the consent set with a hold mark after each, and the map is a counted list of rooms (log entry 7). -/
def regroupAnswerBytes (s : State) : List Byte :=
  let rg := s.regroup
  b1 (regStateCode rg.state) ++ bWhether rg.isOpen ++ b2 rg.round.toNat ++ bSegSet rg.affected
  ++ bList (fun p => bPort p ++ bWhether (rg.holds.contains p)) rg.consent ++ bOpt bTime rg.deadline
  ++ bList bPort rg.silent ++ bList (fun r => bSegSet r.segs ++ bSeg r.id ++ bSeg r.lead)
      rg.pendingMap
  ++ b2 rg.consentSecs ++ b2 rg.holdSecs

/-- The body of READ-REGROUP (R46). -/
def readRegroupBody (s : State) (_ : Unit) : Reply := .done false (regroupAnswerBytes s) s

/-- READ-REGROUP (R46). -/
def execReadRegroup (p : PortId) (tag : Byte) (payload : List Byte) (s : State) : Host.Outcome State Fault Refusal :=
  answerNext (takeCommand s p tag anyRole (parse0 payload) (readRegroupBody s))

/-! ## READ-ROOM -/

/-- The room record, in the order of R17. DESIGN CHOICE: the elevated request is returned as its unit after a presence
byte (log entry 7). -/
def bRoom (h : Hall) (i : SegId) (r : Room) : List Byte :=
  bSeg i ++ bSegSet r.segs ++ bSeg r.lead ++ b2 r.gen.toNat ++ bSettings r.settings ++ b1 r.base ++ b1 r.size
  ++ bList b1 r.langs ++ b1 r.floorLang ++ bOpt bSeg r.lastSpeaker ++ bOpt bUnit r.elevated
  ++ bList bUnit (h.chairsIn r.segs) ++ bFirst r.frozen ++ bFirst (!r.dormant) ++ bOpt bTime r.idle ++ b2 r.clip
  ++ bOpt bPort r.console

/-- The channel map's part for one distribution channel (R152). -/
def bChannel (h : Hall) (c : Nat) : List Byte :=
  bOpt (fun x : SegId × Room × Nat =>
    bSeg x.1 ++ b1 x.2.2 ++ bOpt b1 (if x.2.2 = 0 then none else x.2.1.langs[x.2.2 - 1]?)) (h.windowAt c)

/-- What the option "channels" adds (R152). DESIGN CHOICE (log entry 7): an item of the language list is its code and then
its index, one byte each; and of the two bytes for the radiators, a bit that is 1 means the line high, and the enable
on. -/
def channelsAnswer (h : Hall) (r : Room) : List Byte :=
  b1 r.base ++ b1 r.size
  ++ bList (fun k => b1 (r.langs.getD k 0) ++ b1 (k + 1)) (List.range r.langs.length)
  ++ b1 (placementCode r.placement) ++ bList b1 r.dropped
  ++ (List.range Config.channels).flatMap (bChannel h)
  ++ bSegSet (setWhere h.radiatorLine) ++ bSegSet (setWhere fun sg => h.radiators[sg])
  ++ bFirst (!r.dormant) ++ bOpt bTime r.idle

/-- A latched entry's unit, its effective gain and its ramp as the last sample mixed left them (R167): those of the
entry in its slot while it stands, and its unit, 0 and no ramp once its closing ramp has ended (R157). -/
def LatchedEntry.view (h : Hall) (x : LatchedEntry) : Option AddrIx × Nat × Option Ramp :=
  match x.left, h.entry x.ref with
  | some u, _ => (u, 0, none)
  | none, some e => (e.unit, e.e, e.ramp)
  | none, none => (none, 0, none)

/-- A latched entry in the answer (R167). -/
def bMixed (h : Hall) (x : LatchedEntry) : List Byte :=
  let v := x.view h
  bHolder x.ref.trunk v.1 ++ b2 v.2.1 ++ bOpt (fun rp : Ramp => b2 rp.target ++ b2 rp.pos ++ b2 rp.len) v.2.2

/-- A channel state (R167). -/
def bChState (c : ChState) : List Byte :=
  b2 c.v ++ b2 c.d ++ bOpt (fun rp : ChRamp => b2 rp.targetV ++ b2 rp.targetD ++ b2 rp.pos ++ b2 rp.len) c.ramp

/-- What the option "gains" adds (R167). Before a room's first latch its n and G are given as 0. -/
def gainsAnswer (s : State) (i : SegId) (r : Room) : List Byte :=
  let entries := match s.mix.rooms[i] with | some l => l.entries | none => []
  bList (fun x => bUnit x.1 ++ b2 x.2) r.staging.pairs ++ bWhether r.staging.pending ++ bWhether r.staging.applied
  ++ b4 s.mix.blockCount.toNat ++ b1 entries.length
  ++ b2 (match s.mix.rooms[i] with | some l => l.gain | none => 0)
  ++ bList (bMixed s.hall) entries
  ++ bList (fun b => bChState s.mix.chStates[b]) (s.hall.liveBooths i)

/-- The body of READ-ROOM; bit 0 of the option byte is "channels" and bit 1 "gains" (R20, R152, R167). -/
def readRoomBody (s : State) (a : Byte × Byte) : Reply :=
  match idOf 8 a.1 with
  | none => .refuse .range
  | some sg =>
    match s.hall.roomOf sg with
    | none => .refuse .state
    | some i =>
      match s.hall.room i with
      | none => .refuse .state
      | some r =>
        .done false (bRoom s.hall i r ++ (if a.2.getLsbD 0 then channelsAnswer s.hall r else [])
          ++ (if a.2.getLsbD 1 then gainsAnswer s i r else [])) s

/-- READ-ROOM (R20, R152, R167). -/
def execReadRoom (p : PortId) (tag : Byte) (payload : List Byte) (s : State) : Host.Outcome State Fault Refusal :=
  answerNext (takeCommand s p tag anyRole (parse2 payload) (readRoomBody s))

/-! ## READ-QUEUE and READ-UNIT -/

/-- A request's fields, in the order of R73. -/
def bRequest (q : Request) : List Byte :=
  bUnit q.unit ++ bStamp q.stamp ++ b1 q.lang ++ b1 (classCode q.cls) ++ b1 q.score ++ b1 q.guard ++ bFirst q.due
  ++ bFirst q.recalled

/-- A speaking entry as READ-QUEUE returns it (R98). -/
def bSpeaker (x : SlotRef × Entry) : List Byte :=
  bHolder x.1.trunk x.2.unit ++ b1 x.1.slot.val ++ bWhether x.2.chair ++ b1 (entryStateCode x.2.state)
  ++ bStamp x.2.reqStamp ++ bStamp x.2.grantStamp ++ bOpt bTime x.2.timer

/-- The answer of READ-QUEUE for room `i` (R98). -/
def queueAnswer (h : Hall) (i : SegId) (r : Room) : List Byte :=
  b2 (modeCode r.settings.mode) ++ b2 r.settings.openLimit ++ b1 (h.count i) ++ b2 r.settings.queueLimit
  ++ bFirst r.frozen
  ++ bList (fun q => bRequest q ++ bWhether (r.elevated = some q.unit)) (h.queue i)
  ++ bList bSpeaker (h.speaking i)
  ++ b1 (Config.poolSize - h.requests.length) ++ bStamp h.seq

/-- The body of READ-QUEUE (R98). -/
def readQueueBody (s : State) (a : Byte) : Reply :=
  match idOf 8 a with
  | none => .refuse .range
  | some sg =>
    match s.hall.roomOf sg with
    | none => .refuse .state
    | some i =>
      match s.hall.room i with
      | none => .refuse .state
      | some r => .done false (queueAnswer s.hall i r) s

/-- READ-QUEUE (R98). -/
def execReadQueue (p : PortId) (tag : Byte) (payload : List Byte) (s : State) : Host.Outcome State Fault Refusal :=
  answerNext (takeCommand s p tag anyRole (parse1 payload) (readQueueBody s))

/-- A speaking entry's fields, in the order of R74. DESIGN CHOICE: the ramp position takes two bytes after a presence
byte, and is absent while no ramp runs (log entry 7). -/
def bEntry (x : SlotRef × Entry) : List Byte :=
  bHolder x.1.trunk x.2.unit ++ b1 x.1.trunk.val ++ b1 x.1.slot.val ++ bSeg x.2.seg ++ bWhether x.2.chair
  ++ bStamp x.2.reqStamp ++ bStamp x.2.grantStamp ++ b1 (entryStateCode x.2.state)
  ++ bOpt (fun rp : Ramp => b2 rp.pos) x.2.ramp ++ bOpt bTime x.2.timer

/-- The answer of READ-UNIT: the record in the order of R70, then the unit's request and its speaking entry (R98). -/
def unitAnswer (h : Hall) (u : UnitId) : List Byte :=
  let r := h.unit u
  b1 (if r.present then 1 else 0) ++ bOpt bSeg r.seatOvr ++ bOpt bSeg r.reported ++ bOpt bSeg r.seat
  ++ b1 (classCode r.cls) ++ b2 r.gain ++ b1 r.lang ++ b1 (floorStateCode (h.floorState u)) ++ bFirst r.latch
  ++ bFirst r.next ++ bFirst r.allOff ++ bOpt (fun k : SlotIx => b1 k.val) r.mic ++ bFirst r.warned
  ++ bOpt bRequest (h.requestOf u) ++ bOpt bEntry (h.entryOf u)

/-- The body of READ-UNIT (R98). -/
def readUnitBody (s : State) (a : Byte × Byte) : Reply :=
  match unitOf a.1 a.2 with
  | none => .refuse .range
  | some u => .done false (unitAnswer s.hall u) s

/-- READ-UNIT (R98). -/
def execReadUnit (p : PortId) (tag : Byte) (payload : List Byte) (s : State) : Host.Outcome State Fault Refusal :=
  answerNext (takeCommand s p tag anyRole (parse2 payload) (readUnitBody s))

/-! ## READ-BOOTH -/

/-- The payload of READ-BOOTH: an option byte whose bit 0 is "all", and a booth without it. -/
def parseReadBooth : List Byte → Option (Option Byte)
  | [o] => if o.getLsbD 0 then some none else none
  | [o, b] => if o.getLsbD 0 then none else some (some b)
  | _ => none

/-- What READ-BOOTH returns for one booth (R137). -/
def bBooth (h : Hall) (b : BoothId) : List Byte :=
  let x := h.booths[b]
  bFirst x.defined ++ bOpt bSeg x.home ++ b1 x.langA ++ b1 x.langB ++ bList b1 x.passive ++ b1 (sideCode x.side)
  ++ b1 (boothStateCode x.state) ++ bFirst x.mic ++ b2 x.gain ++ bSource x.source ++ bOpt bSource x.pin
  ++ bFirst x.noPivot ++ bFirst x.displaced ++ bOpt bSeg (h.boothRoom b) ++ bList b1 x.understood ++ b1 x.output
  ++ bWhether x.airing ++ bWhether (h.floorMatched b)
  ++ bList (fun c : BoothId => b1 c.val) ((List.finRange 12).filter fun c => (h.booths[c]).source = .booth b)

/-- The index at which a code stands in a language list, counting from 1. -/
def indexIn (l : List Nat) (code : Nat) : Option Nat := (l.findIdx? fun c => c = code).map (· + 1)

/-- What READ-BOOTH adds for a booth named: the floor language of its room, and its language index (R137). -/
def bNamedBooth (h : Hall) (b : BoothId) : List Byte :=
  let r := (h.boothRoom b).bind h.room
  bOpt b1 (r.map fun x => x.floorLang) ++ bOpt b1 (r.bind fun x => indexIn x.langs (h.booths[b]).output)

/-- The body of READ-BOOTH (R137). -/
def readBoothBody (s : State) (a : Option Byte) : Reply :=
  match a with
  | none => .done false ((List.finRange 12).flatMap (bBooth s.hall)) s
  | some x => match idOf 12 x with
    | none => .refuse .range
    | some b => .done false (bBooth s.hall b ++ bNamedBooth s.hall b) s

/-- READ-BOOTH (R137). -/
def execReadBooth (p : PortId) (tag : Byte) (payload : List Byte) (s : State) : Host.Outcome State Fault Refusal :=
  answerNext (takeCommand s p tag anyRole (parseReadBooth payload) (readBoothBody s))

/-! ## READ-TRUNK -/

/-- A floor order, by its place in the list of R49, with the slot of a GRANT. -/
def bFloorOrder : FloorOrder → List Byte
  | .grant k => b1 1 ++ b1 k.val
  | .release => b1 2
  | .deny => b1 3

/-- A notice order, by its place in the list of R49. -/
def bNotice : Notice → List Byte
  | .warn => b1 1
  | .clearWarn => b1 2

/-- What READ-TRUNK returns for a PRESENT unit (R67). DESIGN CHOICE: its address alone, and each count takes one byte
(log entry 7). -/
def bPresent (h : Hall) (u : UnitId) : List Byte :=
  let a := h.addr u
  b1 (u.addr.val + 1) ++ b1 a.miss ++ b1 a.stray ++ bOpt bFloorOrder a.floorOrder ++ bOpt bNotice a.notice
  ++ bWhether (heldBack h u) ++ bOpt b1 a.confirm

/-- What the option "slots" adds for one slot (R101). -/
def bSlot (h : Hall) (r : SlotRef) : List Byte :=
  match h.entry r with
  | none => bWhether true
  | some e => bWhether false ++ bSeg ((h.roomOf e.seg).getD e.seg) ++ bHolder r.trunk e.unit ++ b1 (entryStateCode e.state)

/-- The answer of READ-TRUNK, with or without the option "slots" (R67, R101). DESIGN CHOICE: each error counter takes
two bytes and the silent rounds one (log entry 7). -/
def trunkAnswer (s : State) (t : TrunkId) (slots : Bool) : List Byte :=
  let x := s.trunks[t]
  b1 (trunkStateCode x.state) ++ b1 (powerCode x.mode) ++ bFirst x.sense ++ b1 x.probes ++ b1 x.pointer
  ++ b1 x.silent ++ b2 x.cCheck ++ b2 x.cFraming ++ b2 x.cLate ++ b2 x.cOverrun
  ++ bList (bPresent s.hall) (presentOn s.hall t)
  ++ (if slots then (slotsOf t).flatMap (bSlot s.hall) ++ bSeg s.hall.rotation[t] else [])

/-- A trunk with its four error counters at 0 (R67). -/
def Trunk.cleared (x : Trunk) : Trunk := { x with cCheck := 0, cFraming := 0, cLate := 0, cOverrun := 0 }

/-- The body of READ-TRUNK; bit 0 of the option byte is "clear" and bit 1 "slots" (R67, R101). -/
def readTrunkBody (s : State) (a : Byte × Byte) : Reply :=
  match idOf 4 a.1 with
  | none => .refuse .range
  | some t =>
    .done false (trunkAnswer s t (a.2.getLsbD 1))
      (if a.2.getLsbD 0 then s.setTrunk t (s.trunks[t]).cleared else s)

/-- READ-TRUNK (R67, R101). -/
def execReadTrunk (p : PortId) (tag : Byte) (payload : List Byte) (s : State) : Host.Outcome State Fault Refusal :=
  answerNext (takeCommand s p tag anyRole (parse2 payload) (readTrunkBody s))

/-! ## READ-FLAGS -/

/-- The answer of READ-FLAGS (R183). -/
def flagsAnswer (x : Port) : List Byte :=
  b1 x.flags.toNat ++ b1 (roleCode x.role) ++ bSegSet x.scope ++ b1 x.mask.toNat ++ b1 (ackCode x.ack)
  ++ b1 (attCode x.att)

/-- The body of READ-FLAGS from port `p`: in READ-CLEARS the flags returned are cleared (R183). -/
def readFlagsBody (s : State) (p : PortId) (_ : Unit) : Reply :=
  let x := s.hall.ports[p]
  .done false (flagsAnswer x) (if x.ack = .readClears then s.setPort p (portClear x x.flags) else s)

/-- READ-FLAGS (R183). -/
def execReadFlags (p : PortId) (tag : Byte) (payload : List Byte) (s : State) : Host.Outcome State Fault Refusal :=
  answerNext (takeCommand s p tag (.unused :: anyRole) (parse0 payload) (readFlagsBody s p))

end Sys2Proof.Machine
end

