-- ==== Sys2Proof/Machine/PortCommands.lean ====
section
/-! DEFINITION. The ports' own commands (Chapters 9 and 10): ACK-FLAGS, SET-ATTENTION, LINK-RESET and REINIT; frames
that fail and codes that name no command; the end of an attention pulse; and the full reset. -/

namespace Sys2Proof.Machine

/-- The body of ACK-FLAGS from port `p` (R184). -/
def ackFlagsBody (s : State) (p : PortId) (a : Byte) : Reply :=
  if a.getLsbD 7 then .refuse .range
  else .done false [] (s.setPort p (portClear s.hall.ports[p] (a.setWidth 7)))

/-- ACK-FLAGS (R184). -/
def execAckFlags (p : PortId) (tag : Byte) (payload : List Byte) (s : State) : Host.Outcome State Fault Refusal :=
  answerNext (takeCommand s p tag anyRole (parse1 payload) (ackFlagsBody s p))

/-- The payload of SET-ATTENTION: acknowledge mode, attention mode, enable mask (R186). -/
def parse3 : List Byte → Option (Byte × Byte × Byte)
  | [a, b, c] => some (a, b, c)
  | _ => none

/-- The body of SET-ATTENTION from port `p` (R186). -/
def setAttentionBody (s : State) (p : PortId) (a : Byte × Byte × Byte) : Reply :=
  match ackOf a.1.toNat, attOf a.2.1.toNat with
  | some ack, some att =>
    if a.2.2.getLsbD 7 then .refuse .range
    else .done false [] (s.setPort p (portAttention s.hall.ports[p] ack att (a.2.2.setWidth 7)))
  | _, _ => .refuse .range

/-- SET-ATTENTION (R186). -/
def execSetAttention (p : PortId) (tag : Byte) (payload : List Byte) (s : State) : Host.Outcome State Fault Refusal :=
  answerNext (takeCommand s p tag anyRole (parse3 payload) (setAttentionBody s p))

/-- The body of LINK-RESET from port `p` (R180). -/
def linkResetBody (s : State) (p : PortId) (_ : Unit) : Reply :=
  .done false [] (s.setPort p (portLinkReset s.hall.ports[p]))

/-- LINK-RESET (R180). -/
def execLinkReset (p : PortId) (tag : Byte) (payload : List Byte) (s : State) : Host.Outcome State Fault Refusal :=
  answerNext (takeCommand s p tag (.unused :: anyRole) (parse0 payload) (linkResetBody s p))

/-- The body of REINIT from port `p`: the pending mark is set (R178). -/
def reinitBody (s : State) (p : PortId) (_ : Unit) : Reply :=
  .done false [] (s.setPort p { s.hall.ports[p] with reinitPending := true })

/-- REINIT (R178); it is applied at the next block start (R179). -/
def execReinit (p : PortId) (tag : Byte) (payload : List Byte) (s : State) : Host.Outcome State Fault Refusal :=
  answerNext (takeCommand s p tag [.venue] (parse0 payload) (reinitBody s p))

/-- FAILED_FRAME: answered CHECK with the tag as received, or 0, and no payload (R170, R178). -/
def execFailedFrame (p : PortId) (tag : Option Byte) (s : State) : Host.Outcome State Fault Refusal :=
  .next (setAnswer s p (tag.getD 0) .check [])

/-- UNKNOWN_COMMAND: BUSY while REINIT is pending, else UNKNOWN (R171). -/
def execUnknownCommand (p : PortId) (_code tag : Byte) (_payload : List Byte) (s : State) :
    Host.Outcome State Fault Refusal :=
  .next (setAnswer s p tag (if (s.hall.ports[p]).reinitPending then .busy else .unknown) [])

/-- ATTENTION_PULSE_END (R185). -/
def execAttentionPulseEnd (p : PortId) (s : State) : Host.Outcome State Fault Refusal :=
  .next (s.withHall (pulseEnds s.hall p))

/-- FULL_RESET: every record takes its reset value, with the pins as they read at the end of the reset. The queue of
waiting commands belongs to the model, not to the part, and is kept. -/
def execFullReset (pins : Pins) (s : State) : Host.Outcome State Fault Refusal :=
  .next { State.powerOn pins with pending := s.pending }

end Sys2Proof.Machine
end

