-- ==== Sys2Proof/Machine/Time.lean ====
section
/-! DEFINITION. The part's own time (log entry 2): the event that is due of the part's own accord in a state, and the
passing of one millisecond of its time base. -/

namespace Sys2Proof.Machine

/-- The first attention pulse that runs (R185). -/
def pulseDue (s : State) : Option Instr :=
  ((List.finRange 4).find? fun p => (s.hall.ports[p]).pulse).map .attentionPulseEnd

/-- The first settle timer that has run out (R4). -/
def settleDue (s : State) : Option Instr :=
  ((List.finRange 12).find? fun w => (s.scanner.walls[w]).settle = some 0).map .settleTimerExpiry

/-- The first stuck timer that has run out (R5). -/
def stuckDue (s : State) : Option Instr :=
  ((List.finRange 12).find? fun w => (s.scanner.walls[w]).stuck = .running 0).map .stuckTimerExpiry

/-- The consent deadline has run out (R33). -/
def deadlineDue (s : State) : Option Instr :=
  if s.regroup.state = .consent && s.regroup.deadline = some 0 then some .deadlineExpiry else none

/-- The speak-limit event that an entry's elapsed time calls for (R94), by the limit of the room that it is filed in.
DESIGN CHOICE: an entry that a commit has refiled in a room with another speak limit is measured here for the first
time, against that limit (R40, R94; log entry 31). -/
def speakDueAt (h : Hall) (r : SlotRef) : Option Instr :=
  match h.entry r with
  | none => none
  | some e =>
    match e.timer, holderOf r.trunk e, (h.roomOf e.seg).bind h.room with
    | some ms, some u, some rm =>
      let l := rm.settings.speakLimit
      if l = 0 || e.chair then none
      else if l * 1000 ≤ ms then some (.speakLimitExpiry u)
      else if warnAt l ≤ ms && !(h.unit u).warned then some (.speakLimitWarning u)
      else none
    | _, _, _ => none

/-- The first room whose idle timer has run out (R150). -/
def idleDue (s : State) : Option Instr :=
  (allSegIds.find? fun i => match s.hall.room i with | some r => r.idle = some 0 | none => false).map
    .idleTimerExpiry

/-- The ramp of a slot's entry has mixed its last sample (R157). -/
def rampDueAt (h : Hall) (r : SlotRef) : Option Instr :=
  match h.entry r with
  | some e => match e.ramp with
    | some rp => if rp.len ≤ rp.pos then some (.rampEnd r.trunk r.slot) else none
    | none => none
  | none => none

/-- The block in progress has mixed its 48th sample (R153). -/
def blockDue (s : State) : Option Instr :=
  match s.mix.block with
  | some n => if Config.blockLength ≤ n then some .mixBlockEnd else none
  | none => none

/-- The first trunk whose round has sent its last poll and awaits no reply (R53). -/
def roundDue (s : State) : Option Instr :=
  ((List.finRange 4).find? fun t => match (s.trunks[t]).round with
    | some rd => rd.todo.isEmpty && rd.sent.isNone
    | none => false).map .roundEnd

/-- The first trunk whose hand-over holds a reply (R58). -/
def handOverDue (s : State) : Option Instr :=
  ((List.finRange 4).find? fun t => (s.trunks[t]).handOver.isSome).map .handOverTaken

/-- The event that is due of the part's own accord, in a fixed order where several are (log entry 2). -/
def dueEvent (s : State) : Option Instr :=
  [pulseDue s, allSlots.findSome? (rampDueAt s.hall), blockDue s, handOverDue s, roundDue s, settleDue s, stuckDue s,
    deadlineDue s, allSlots.findSome? (speakDueAt s.hall), idleDue s].findSome? id

/-- The stuck timer a millisecond later. -/
def Stuck.tick : Stuck → Stuck
  | .stopped => .stopped
  | .running ms => .running (ms - 1)
  | .expired => .expired

/-- A wall's timers a millisecond later. -/
def Wall.tick (w : Wall) : Wall := { w with settle := w.settle.map (· - 1), stuck := w.stuck.tick }

/-- One millisecond of the part's time base passes: the wall timers, the consent deadline and the idle timers count
down, and the speak timers up. -/
def tick (s : State) : State :=
  { s with
    scanner := { s.scanner with walls := tab fun w => (s.scanner.walls[w]).tick },
    regroup := { s.regroup with deadline := s.regroup.deadline.map (· - 1) },
    hall := { s.hall with
      rooms := tab fun i => (s.hall.rooms[i]).map fun r => { r with idle := r.idle.map (· - 1) },
      pools := tab fun t => tab fun k =>
        ((s.hall.pools[t])[k]).map fun e => { e with timer := e.timer.map (· + 1) } } }

end Sys2Proof.Machine
end

