-- ==== Sys2Proof/Machine/Dispatch.lean ====
section
/-! DEFINITION. One arm per command: each calls its meaning. -/

namespace Sys2Proof.Machine

def exec (i : Instr) (s : State) : Host.Outcome State Fault Refusal :=
  match i with
  | .fullReset pins => Sys2Proof.Machine.execFullReset pins s
  | .contactEvent w closed stowed => Sys2Proof.Machine.execContactEvent w closed stowed s
  | .settleTimerExpiry w => Sys2Proof.Machine.execSettleTimerExpiry w s
  | .stuckTimerExpiry w => Sys2Proof.Machine.execStuckTimerExpiry w s
  | .deadlineExpiry => Sys2Proof.Machine.execDeadlineExpiry s
  | .mixBlockStart => Sys2Proof.Machine.execMixBlockStart s
  | .rampEnd t k => Sys2Proof.Machine.execRampEnd t k s
  | .mixBlockEnd => Sys2Proof.Machine.execMixBlockEnd s
  | .senseLineChange t chain => Sys2Proof.Machine.execSenseLineChange t chain s
  | .overcurrent t => Sys2Proof.Machine.execOvercurrent t s
  | .pollRoundStart t => Sys2Proof.Machine.execPollRoundStart t s
  | .pollReply t rx => Sys2Proof.Machine.execPollReply t rx s
  | .roundEnd t => Sys2Proof.Machine.execRoundEnd t s
  | .confirmationCountExpiry u => Sys2Proof.Machine.execConfirmationCountExpiry u s
  | .handOverTaken t => Sys2Proof.Machine.execHandOverTaken t s
  | .speakLimitWarning u => Sys2Proof.Machine.execSpeakLimitWarning u s
  | .speakLimitExpiry u => Sys2Proof.Machine.execSpeakLimitExpiry u s
  | .idleTimerExpiry room => Sys2Proof.Machine.execIdleTimerExpiry room s
  | .attentionPulseEnd p => Sys2Proof.Machine.execAttentionPulseEnd p s
  | .failedFrame p tag => Sys2Proof.Machine.execFailedFrame p tag s
  | .unknownCommand p code tag payload => Sys2Proof.Machine.execUnknownCommand p code tag payload s
  | .defineWall p tag payload => Sys2Proof.Machine.execDefineWall p tag payload s
  | .wallOverride p tag payload => Sys2Proof.Machine.execWallOverride p tag payload s
  | .lockWalls p tag payload => Sys2Proof.Machine.execLockWalls p tag payload s
  | .setSegmentDefaults p tag payload => Sys2Proof.Machine.execSetSegmentDefaults p tag payload s
  | .setLeadRank p tag payload => Sys2Proof.Machine.execSetLeadRank p tag payload s
  | .setRegroupTimes p tag payload => Sys2Proof.Machine.execSetRegroupTimes p tag payload s
  | .forceRegroup p tag payload => Sys2Proof.Machine.execForceRegroup p tag payload s
  | .assignScope p tag payload => Sys2Proof.Machine.execAssignScope p tag payload s
  | .setUnit p tag payload => Sys2Proof.Machine.execSetUnit p tag payload s
  | .trunkPower p tag payload => Sys2Proof.Machine.execTrunkPower p tag payload s
  | .setRollcall p tag payload => Sys2Proof.Machine.execSetRollcall p tag payload s
  | .setRadiators p tag payload => Sys2Proof.Machine.execSetRadiators p tag payload s
  | .reinit p tag payload => Sys2Proof.Machine.execReinit p tag payload s
  | .claimSegments p tag payload => Sys2Proof.Machine.execClaimSegments p tag payload s
  | .releaseSegments p tag payload => Sys2Proof.Machine.execReleaseSegments p tag payload s
  | .setRoom p tag payload => Sys2Proof.Machine.execSetRoom p tag payload s
  | .setWindow p tag payload => Sys2Proof.Machine.execSetWindow p tag payload s
  | .grant p tag payload => Sys2Proof.Machine.execGrant p tag payload s
  | .grantNext p tag payload => Sys2Proof.Machine.execGrantNext p tag payload s
  | .drop p tag payload => Sys2Proof.Machine.execDrop p tag payload s
  | .cancelRequest p tag payload => Sys2Proof.Machine.execCancelRequest p tag payload s
  | .elevate p tag payload => Sys2Proof.Machine.execElevate p tag payload s
  | .allOff p tag payload => Sys2Proof.Machine.execAllOff p tag payload s
  | .stageGain p tag payload => Sys2Proof.Machine.execStageGain p tag payload s
  | .applyGains p tag payload => Sys2Proof.Machine.execApplyGains p tag payload s
  | .regroupAnswer p tag payload => Sys2Proof.Machine.execRegroupAnswer p tag payload s
  | .defineBooth p tag payload => Sys2Proof.Machine.execDefineBooth p tag payload s
  | .boothState p tag payload => Sys2Proof.Machine.execBoothState p tag payload s
  | .boothOutput p tag payload => Sys2Proof.Machine.execBoothOutput p tag payload s
  | .boothMic p tag payload => Sys2Proof.Machine.execBoothMic p tag payload s
  | .boothGain p tag payload => Sys2Proof.Machine.execBoothGain p tag payload s
  | .pinSource p tag payload => Sys2Proof.Machine.execPinSource p tag payload s
  | .unpinSource p tag payload => Sys2Proof.Machine.execUnpinSource p tag payload s
  | .readWalls p tag payload => Sys2Proof.Machine.execReadWalls p tag payload s
  | .readRegroup p tag payload => Sys2Proof.Machine.execReadRegroup p tag payload s
  | .readRoom p tag payload => Sys2Proof.Machine.execReadRoom p tag payload s
  | .readQueue p tag payload => Sys2Proof.Machine.execReadQueue p tag payload s
  | .readUnit p tag payload => Sys2Proof.Machine.execReadUnit p tag payload s
  | .readBooth p tag payload => Sys2Proof.Machine.execReadBooth p tag payload s
  | .readTrunk p tag payload => Sys2Proof.Machine.execReadTrunk p tag payload s
  | .readFlags p tag payload => Sys2Proof.Machine.execReadFlags p tag payload s
  | .ackFlags p tag payload => Sys2Proof.Machine.execAckFlags p tag payload s
  | .setAttention p tag payload => Sys2Proof.Machine.execSetAttention p tag payload s
  | .linkReset p tag payload => Sys2Proof.Machine.execLinkReset p tag payload s
  | .wordClockPeriod x => Sys2Proof.Machine.execWordClockPeriod x s
  | .pollSend t => Sys2Proof.Machine.execPollSend t s

end Sys2Proof.Machine
end

