-- ==== Sys2Proof/Safety.lean ====
section
/-! DEFINITION. What counts as a safe run: no step stops, and the records stay within the ranges the spec gives them.
Beside it stand the words of the statements: the core of the hall that floor events keep, the admission of a command at
a port, Table 9-4 as data (which roles may give a command), the head of the ten room-selecting commands, the settings
that named fields give, the invariants of windows, floor records, maps and booths, the events that are due of the part's
own accord, and what the larger events leave: a unit's absence, the beginning of DRAIN, and the parts of a block
start. -/

namespace Sys2Proof.Machine

/-! ## Ranges -/

/-- Settings within the ranges of R15, with the jump below the max when the max is above 0. -/
def Settings.ok (x : Settings) : Bool :=
  1 ≤ x.openLimit && x.openLimit ≤ 8 && 1 ≤ x.queueLimit && x.queueLimit ≤ 48
  && (x.speakLimit = 0 || (10 ≤ x.speakLimit && x.speakLimit ≤ 3600)) && x.vip ≤ 15 && x.langBonus ≤ 7
  && x.segBonus ≤ 7 && x.jump ≤ 15 && (x.max = 0 || x.jump < x.max) && x.max ≤ 15 && 1 ≤ x.guard && x.guard ≤ 32
  && x.duck ≤ 16384 && x.gain ≤ 32767 && [96, 192, 384, 768].contains x.ramp && x.idle ≤ 240

/-- A language code list: distinct codes from 1 to 63, at most `n`. -/
def codesOk (n : Nat) (l : List Nat) : Bool := l.length ≤ n && !repeats l && l.all fun c => 1 ≤ c && c ≤ 63

/-- A defaults record within the ranges of R15. -/
def Defaults.ok (d : Defaults) : Bool :=
  d.settings.ok && d.base ≤ 31 && 1 ≤ d.size && d.size ≤ 16 && codesOk 15 d.wanted && d.floorLang ≤ 63

/-- A wall record as R1 and R9 keep it: a pair of two segments; an undefined wall settled CLOSED with both timers
stopped. -/
def Wall.ok (w : Wall) : Bool :=
  match w.pair with
  | some (a, b) => a ≠ b
  | none => w.settled = .closed && w.settle = none && w.stuck = .stopped

/-- The wall scanner's records within their ranges (R1, R6, R14, R15). -/
def Scanner.ok (sc : Scanner) : Bool :=
  ((List.finRange 12).all fun w => (sc.walls[w]).ok) && 100 ≤ sc.settleTime && sc.settleTime ≤ 5000
  && (allSegIds.all fun i => sc.ranks[i] ≤ 15) && allSegIds.all fun i => (sc.defaults[i]).ok

/-- Every room's settings are within the ranges of the segment defaults (R17). -/
def Hall.settingsOk (h : Hall) : Bool := (allSegIds.filterMap h.room).all fun r => r.settings.ok

/-- The regroup settings within their ranges (R23). -/
def Regroup.timesOk (rg : Regroup) : Bool :=
  1 ≤ rg.consentSecs && rg.consentSecs ≤ 30 && 1 ≤ rg.holdSecs && rg.holdSecs ≤ 60

/-- The settings of the part are within their ranges. -/
def State.settingsOk (s : State) : Bool := s.scanner.ok && s.hall.settingsOk && s.regroup.timesOk

/-- A staging area: at most 16 pairs, gains in range (R164). -/
def Staging.ok (x : Staging) : Bool := x.pairs.length ≤ Config.stagePairs && x.pairs.all fun y => y.2 ≤ Config.maxGain

/-- Every gain of a unit, a booth and a staging area is in range (R70, R118, R164). -/
def Hall.gainsOk (h : Hall) : Bool :=
  (allUnits.all fun u => (h.unit u).gain ≤ Config.maxGain)
  && ((List.finRange 12).all fun b => (h.booths[b]).gain ≤ Config.maxGain)
  && (allSegIds.filterMap h.room).all fun r => r.staging.ok

/-- The request pool holds at most 96 entries (R73). -/
def Hall.poolOk (h : Hall) : Prop := h.requests.length ≤ Config.poolSize

/-- The windows of the rooms lie in the 32 channels and no two of them overlap; a window of size 0 is none (R139, R143,
R145). -/
def Hall.windowsApart (h : Hall) : Prop :=
  (∀ i r, h.room i = some r → r.size = 0 ∨ r.base + r.size ≤ 32) ∧
  ∀ i j r r', i ≠ j → h.room i = some r → h.room j = some r' → r.size ≠ 0 → r'.size ≠ 0 →
    r.base + r.size ≤ r'.base ∨ r'.base + r'.size ≤ r.base

/-- A unit has at most one request and at most one speaking entry, and not both (R73, R74). That a slot holds at most
one entry is the shape of `Hall.pools` (R75, R100). -/
def Hall.floorOk (h : Hall) : Prop :=
  (h.requests.map (·.unit)).Nodup ∧
  (∀ q q' e e' a, h.entry q = some e → h.entry q' = some e' → q.trunk = q'.trunk → e.unit = some a →
    e'.unit = some a → q = q') ∧
  ∀ q e a, h.entry q = some e → e.unit = some a → ∀ y ∈ h.requests, y.unit ≠ { trunk := q.trunk, addr := a }

/-- A map divides the eight segments: each lies in one room, a room's id is its lowest segment and its lead is one of
its segments, and the rooms stand in ascending id (R21, R22). -/
def dividesSegs (m : List MapRoom) : Prop :=
  (∀ sg : SegId, ∃ y ∈ m, inSet y.segs sg = true) ∧
  (∀ y ∈ m, inSet y.segs y.id = true ∧ inSet y.segs y.lead = true ∧ ∀ sg, inSet y.segs sg = true → y.id ≤ sg) ∧
  m.Pairwise fun y z => y.id < z.id ∧ (y.segs &&& z.segs) = 0

/-- The active map and the pending map divide the segments; from CONSENT to COMMIT-WAIT the affected set is where they
differ; and in STEADY they are equal, which does not look at their leads (R22, R26, R38, R46). -/
def State.mapsOk (s : State) : Prop :=
  dividesSegs s.hall.activeMap ∧ dividesSegs s.regroup.pendingMap ∧
  ((s.regroup.state = .consent ∨ s.regroup.state = .drain ∨ s.regroup.state = .commitWait) →
    s.regroup.affected = affectedSet s.hall.activeMap s.regroup.pendingMap) ∧
  (s.regroup.state = .steady → s.regroup.pendingMap.map (·.segs) = s.hall.activeMap.map (·.segs))

/-- Every LIVE booth belongs to a room whose list has its output language, and no two LIVE booths of one room output one
language (R119, R121, R124, R134). -/
def Hall.boothsOk (h : Hall) : Prop :=
  (∀ b : BoothId, (h.booths[b]).state = .live →
    ∃ i r, h.boothRoom b = some i ∧ h.room i = some r ∧ (h.booths[b]).output ∈ r.langs) ∧
  ∀ i b c, b ∈ h.liveBooths i → c ∈ h.liveBooths i → (h.booths[b]).output = (h.booths[c]).output → b = c

/-- A step is safe when it answers a next state. -/
def State.stepSafe (s : State) : Prop := ∃ t, step s = .next t

/-! ## What floor events keep

No floor event changes, of each room, anything but its floor (floor language, most recent speaker, elevated mark), its
freeze, its dormancy and its idle timer; of each unit, anything but its seat segment and its warned mark; of each
booth, anything but its relay (source, pin, no-pivot flag); the venue enables; and of each port, anything but its
flags and its pulse. The core of the hall gathers what is kept, and the frames of the statements are written
with it. -/

/-- What floor events keep of a room. -/
def Room.core (r : Room) :
    SegSet × SegId × BitVec 16 × Settings × Nat × Nat × List Nat × Placement × List Nat × Nat × Option PortId ×
      Staging :=
  (r.segs, r.lead, r.gen, r.settings, r.base, r.size, r.langs, r.placement, r.dropped, r.clip, r.console, r.staging)

/-- What floor events keep of a unit. -/
def UnitRec.core (r : UnitRec) :
    Bool × Option SegId × Option SegId × UnitClass × Nat × Nat × Bool × Bool × Bool × Option SlotIx :=
  (r.present, r.seatOvr, r.reported, r.cls, r.gain, r.lang, r.latch, r.next, r.allOff, r.mic)

/-- What a reply read and an absence keep of a unit as well. -/
def UnitRec.bare (r : UnitRec) : Option SegId × UnitClass × Nat := (r.seatOvr, r.cls, r.gain)

/-- What floor events keep of a booth. -/
def Booth.core (b : Booth) : Bool × Option SegId × Nat × Nat × List Nat × Side × BoothState × Bool × Nat × Bool :=
  (b.defined, b.home, b.langA, b.langB, b.passive, b.side, b.state, b.mic, b.gain, b.displaced)

/-- What events keep of a port. -/
def Port.core (p : Port) : Role × SegSet × Answer × Bool × BitVec 7 × AckMode × AttMode :=
  (p.role, p.scope, p.answer, p.reinitPending, p.mask, p.ack, p.att)

/-- What floor events keep of the hall. -/
def Hall.core (h : Hall) :=
  ((fun i : SegId => (h.room i).map Room.core), (fun u : UnitId => (h.unit u).core),
    (fun b : BoothId => (h.booths[b]).core), h.radiators, (fun p : PortId => (h.ports[p]).core))

/-- What a reply read and an absence keep of the hall as well. -/
def Hall.bare (h : Hall) :=
  ((fun i : SegId => (h.room i).map Room.core), (fun u : UnitId => (h.unit u).bare),
    (fun b : BoothId => (h.booths[b]).core), h.radiators, (fun p : PortId => (h.ports[p]).core))

/-! ## Admission (R171) -/

/-- A port passes the checks of R171, steps 1 and 3, for a command that the roles `rs` may give. -/
def State.admits (s : State) (p : PortId) (rs : List Role) : Prop :=
  (s.hall.ports[p]).reinitPending = false ∧ (s.hall.ports[p]).role ∈ rs

/-- A room-selecting command at port `p`, with expected generation `g` and the field `sel`, selects room `i` and passes
the checks of R171, steps 1 to 7. -/
def State.admitsRoom (s : State) (p : PortId) (g : Option (BitVec 16)) (sel : Selector) (i : SegId) : Prop :=
  s.admits p [.console, .venue] ∧ selectRoom s.hall sel = .ok i ∧ scopeOk s.hall p i = true ∧ genOk s.hall i g = true

/-- The scopes of the consoles do not overlap (R19). -/
def Hall.scopesApart (h : Hall) : Prop :=
  ∀ p q : PortId, p ≠ q → (h.ports[p]).role = .console → (h.ports[q]).role = .console →
    (h.ports[p]).scope &&& (h.ports[q]).scope = 0

/-! ## Events and what is due -/

/-- From `h` to `g` the change flag `f` has been set on the ports that take an event for one of the segment sets `about`
and have its enable on, and is on every other port as it was (R182). -/
def Hall.signalled (h g : Hall) (f : Flag) (about : SegSet → Prop) : Prop :=
  ∀ p : PortId, (g.ports[p]).flags &&& flagBit f ≠ 0 ↔
    ((h.ports[p]).flags &&& flagBit f ≠ 0 ∨
      ((g.ports[p]).mask &&& flagBit f ≠ 0 ∧ ∃ x, about x ∧ portTakes g.ports[p] f x = true))

/-- Every port that takes an event `f` for the segments `x` and has its enable on has the flag set (R182). -/
def Hall.told (h : Hall) (f : Flag) (x : SegSet) : Prop :=
  ∀ p : PortId, portTakes h.ports[p] f x = true → (h.ports[p]).mask &&& flagBit f ≠ 0 →
    (h.ports[p]).flags &&& flagBit f ≠ 0

/-- The speak timer of unit `u` runs with `ms` milliseconds elapsed in a room with a speak limit of `l` seconds: its
entry is not a chair's (R94). -/
def Hall.timed (h : Hall) (u : UnitId) (ms l : Nat) : Prop :=
  ∃ q e i r, h.entry q = some e ∧ q.trunk = u.trunk ∧ e.unit = some u.addr ∧ e.timer = some ms ∧ e.chair = false ∧
    h.roomOf e.seg = some i ∧ h.room i = some r ∧ r.settings.speakLimit = l ∧ l ≠ 0

/-- The ramp of an entry has mixed its last sample and its end is owed (R157). -/
def Entry.owesEnd (e : Entry) : Prop := ∃ rp, e.ramp = some rp ∧ rp.len ≤ rp.pos

/-- An event is due of the part's own accord: a pulse that runs, a ramp or a block that has mixed its last sample, a
reply held, a round with nothing left, and a timer that has run out (R4, R5, R33, R53, R58, R94, R149, R153, R157,
R185). The warning of a speak limit is due 30 s before it, unless the unit is warned. -/
def State.isDue (s : State) : Instr → Prop
  | .attentionPulseEnd p => (s.hall.ports[p]).pulse = true
  | .rampEnd t k => ∃ e, s.hall.entry { trunk := t, slot := k } = some e ∧ e.owesEnd
  | .mixBlockEnd => ∃ n, s.mix.block = some n ∧ 48 ≤ n
  | .handOverTaken t => (s.trunks[t]).handOver ≠ none
  | .roundEnd t => ∃ rd, (s.trunks[t]).round = some rd ∧ rd.todo = [] ∧ rd.sent = none
  | .settleTimerExpiry w => (s.scanner.walls[w]).settle = some 0
  | .stuckTimerExpiry w => (s.scanner.walls[w]).stuck = .running 0
  | .deadlineExpiry => s.regroup.state = .consent ∧ s.regroup.deadline = some 0
  | .speakLimitExpiry u => ∃ ms l, s.hall.timed u ms l ∧ l * 1000 ≤ ms
  | .speakLimitWarning u => ∃ ms l, s.hall.timed u ms l ∧ ms < l * 1000 ∧ (l - 30) * 1000 ≤ ms ∧
      (s.hall.unit u).warned = false
  | .idleTimerExpiry i => ∃ r, s.hall.room i = some r ∧ r.idle = some 0
  | _ => False

/-- The order in which events due together are taken, the lowest first; an event that is never due comes last. The order
is the model's choice (log entry 2). -/
def dueRank : Instr → Nat
  | .attentionPulseEnd _ => 0
  | .rampEnd _ _ => 1
  | .mixBlockEnd => 2
  | .handOverTaken _ => 3
  | .roundEnd _ => 4
  | .settleTimerExpiry _ => 5
  | .stuckTimerExpiry _ => 6
  | .deadlineExpiry => 7
  | .speakLimitExpiry _ => 8
  | .speakLimitWarning _ => 8
  | .idleTimerExpiry _ => 9
  | _ => 10

/-! ## What larger events leave -/

/-- Room `i` shares no segment with another room (R22: the active map divides the segments). -/
def Hall.apart (h : Hall) (i : SegId) : Prop :=
  ∀ j r r', j ≠ i → h.room i = some r → h.room j = some r' → (r.segs &&& r'.segs) = 0

/-- Unit `u` holds slot `r` with the entry `e`, no other slot, and no request (R74: a unit appears at most once). -/
def Hall.soleEntry (h : Hall) (u : UnitId) (r : SlotRef) (e : Entry) : Prop :=
  h.entry r = some e ∧ r.trunk = u.trunk ∧ e.unit = some u.addr ∧ h.requestOf u = none ∧
    ∀ q e', h.entry q = some e' → q.trunk = u.trunk → e'.unit = some u.addr → q = r

/-- An entry sent to CLOSING: its speak timer stopped, the rest kept (R76). -/
def Entry.closed (e : Entry) : Entry := { e with state := .closing, timer := none }

/-- From `s` to `t` unit `u` has become ABSENT (R61, R96): no request, a clean address record, no latch, no mic report,
not warned and IDLE; its GRANTED entry has left its slot, its entry in OPENING or OPEN is orphaned in CLOSING, and its
CLOSING entry is orphaned. -/
def State.unitGone (s t : State) (u : UnitId) : Prop :=
  t.hall.requestOf u = none
  ∧ t.hall.addr u =
      { miss := 0, floorOrder := none, notice := none, lastMic := none, stray := 0, confirm := none }
  ∧ (t.hall.unit u).core =
      { s.hall.unit u with present := false, latch := false, next := false, allOff := false, mic := none }.core
  ∧ (t.hall.unit u).warned = false
  ∧ ((∀ q e, s.hall.entry q = some e → q.trunk = u.trunk → e.unit ≠ some u.addr) → t.hall.floorState u = .idle)
  ∧ ∀ r e, s.hall.soleEntry u r e →
      t.hall.floorState u = .idle
      ∧ (e.state = .granted → ∀ e', t.hall.entry r = some e' → e'.state = .granted ∧ e'.unit ≠ some u.addr)
      ∧ (e.onAir = true → t.hall.entry r = some { e.closed with unit := none })
      ∧ (e.state = .closing → t.hall.entry r = some { e with unit := none, timer := none })

/-- From `s` to `t` nothing changed but trunk records, which are now `v`, and what an absence changes of the hall: the
PRESENT units for which `gone` holds have become ABSENT, and the units for which it does not hold keep their latches,
languages and reported seats, and their entries, like the orphaned ones, are as they were (R61, R96). -/
def State.unitsLost (s t : State) (v : Vector Trunk 4) (gone : UnitId → Bool) : Prop :=
  t.trunks = v ∧ (∀ u, (t.hall.unit u).present = ((s.hall.unit u).present && !gone u)) ∧ t.hall.bare = s.hall.bare
  ∧ t.scanner = s.scanner ∧ t.regroup = s.regroup ∧ t.mix = s.mix ∧ t.pending = s.pending
  ∧ (∀ u, gone u = true → (s.hall.unit u).present = true → s.unitGone t u)
  ∧ (∀ u, gone u = false → (t.hall.unit u).core = (s.hall.unit u).core)
  ∧ ∀ q e, s.hall.entry q = some e → (∀ a, e.unit = some a → gone { trunk := q.trunk, addr := a } = false) →
      t.hall.entry q = some e

/-- From `s` to `t` the GRANTED entries of the frozen rooms have been recalled (R35, R78): the slot is free or newly
granted to another unit, and the unit waits again with the stamp of its request, or, where its room's queue was at its
limit, is denied or released. The queue and the pool have space where they hold all that is recalled. -/
def State.recalls (s t : State) : Prop :=
  ∀ (i : SegId) (rm : Room) (u : UnitId) (r : SlotRef) (e : Entry),
    s.hall.room i = some rm → rm.frozen = true → s.hall.apart i → s.hall.soleEntry u r e → e.state = .granted →
    inSet rm.segs e.seg = true → (s.hall.unit u).seat = some e.seg →
    let undelivered := s.hall.grantPending u
    let given (o : FloorOrder) : Option FloorOrder :=
      if (s.hall.unit u).present then some o else (s.hall.addr u).floorOrder
    let n := (grantedInFrozen s.hall).length
    (∀ e', t.hall.entry r = some e' → e'.state = .granted ∧ e'.unit ≠ some u.addr)
    ∧ (t.hall.addr u).confirm = none
    ∧ ((s.hall.queue i).length + n ≤ rm.settings.queueLimit → s.hall.requests.length + n ≤ 96 →
        { unit := u, stamp := e.reqStamp, lang := (s.hall.unit u).lang, cls := (s.hall.unit u).cls, score := 0,
          guard := rm.settings.guard, due := false, recalled := !undelivered } ∈ t.hall.requests
        ∧ (t.hall.addr u).floorOrder = if undelivered then none else given .release)
    ∧ (rm.settings.queueLimit ≤ (s.hall.queue i).length →
        t.hall.requestOf u = none ∧ (t.hall.addr u).floorOrder = given (if undelivered then .deny else .release))

/-- From `s` to `t` the pending rooms made of affected segments have been trimmed (R36): of the non-chair entries in
OPENING or OPEN of each, oldest grant stamp first, all but the newest that its inherited limit allows are CLOSING, and
every other entry in OPENING, OPEN or CLOSING is as it was. `h` is the hall after the recall, which touches none of
these. -/
def State.trims (s t : State) : Prop :=
  ∃ h : Hall,
    (∀ q e, e.onAir = true → (h.entry q = some e ↔ s.hall.entry q = some e))
    ∧ (∀ x q, q ∈ openIn h x ↔ ∃ e, s.hall.entry q = some e ∧ inSet x e.seg = true ∧ e.chair = false ∧ e.onAir = true)
    ∧ (∀ x (base : Stamp), (∀ q e, h.entry q = some e → (e.grantStamp - base).toNat < 2 ^ 31) →
        (openIn h x).Pairwise fun a b => ∀ ea eb, h.entry a = some ea → h.entry b = some eb →
          (ea.grantStamp - base).toNat ≤ (eb.grantStamp - base).toNat)
    ∧ (∀ m ∈ s.regroup.pendingMap, (m.segs &&& s.regroup.affected) ≠ 0 →
        (∀ m' ∈ s.regroup.pendingMap, m' ≠ m → (m'.segs &&& m.segs) = 0) →
        let refs := openIn h m.segs
        let limit := inheritedLimit s.scanner s.hall m
        (∀ i r, s.hall.room i = some r → r.lead = m.lead →
          (∀ j r', s.hall.room j = some r' → r'.lead = m.lead → j = i) → limit = r.settings.openLimit)
        ∧ ((∀ i r, s.hall.room i = some r → r.lead ≠ m.lead) →
            limit = (s.scanner.defaults[m.lead]).settings.openLimit)
        ∧ (∀ q ∈ refs.take (refs.length - limit), t.hall.entry q = (s.hall.entry q).map Entry.closed)
        ∧ ∀ q ∈ refs.drop (refs.length - limit), t.hall.entry q = s.hall.entry q)
    ∧ ∀ q e, s.hall.entry q = some e → e.state ≠ .granted →
        (e.chair = true ∨ e.state = .closing ∨
          ∀ m ∈ s.regroup.pendingMap, (m.segs &&& s.regroup.affected) ≠ 0 → inSet m.segs e.seg = false) →
        t.hall.entry q = some e

/-- From `s`, in CONSENT, to `t` DRAIN has begun, and ended where no frozen room holds a CLOSING entry: the consent set
is empty and the deadline stopped, the silent list is `silent`, the rest of the regroup record is kept, the GRANTED
entries of the frozen rooms are recalled and the pending rooms trimmed, and every port that may raise REGROUP has it set
(R33 to R37, R182). -/
def State.drainBegun (s t : State) (silent : List PortId) : Prop :=
  t.regroup =
    { s.regroup with
      state := if closingInFrozen t.hall then .drain else .commitWait, consent := [], deadline := none,
      silent := silent }
  ∧ t.hall.core = s.hall.core ∧ t.scanner = s.scanner ∧ t.trunks = s.trunks ∧ t.mix = s.mix ∧ t.pending = s.pending
  ∧ (∀ p : PortId, (s.hall.ports[p]).role ≠ .unused → (s.hall.ports[p]).mask &&& 0x02 ≠ 0 →
      (t.hall.ports[p]).flags &&& 0x02 ≠ 0)
  ∧ s.recalls t ∧ s.trims t

/-- The regroup record after a wall change report (R24). -/
def Regroup.unrested (rg : Regroup) : Regroup :=
  { rg with state := .settling, deadline := if rg.state = .consent then none else rg.deadline }

/-! ## Settings by their named fields (R15, R16, R92) -/

/-- The value of the last of the named fields whose number is `k`. -/
def lastWord (fs : List (Nat × FieldValue)) (k : Nat) : Option Nat :=
  fs.reverse.findSome? fun f => match f.2 with
    | .word n => if f.1 = k then some n else none
    | .list _ => none

/-- The last of the lists named for field `k`. -/
def lastList (fs : List (Nat × FieldValue)) (k : Nat) : Option (List Nat) :=
  fs.reverse.findSome? fun f => match f.2 with
    | .word _ => none
    | .list l => if f.1 = k then some l else none

/-- The allowed value of a field that R16 stores for a value given; fields 1, 15 and 18 are refused out of range. -/
def nearest (field n : Nat) : Nat :=
  match field with
  | 2 => max 1 (min n 8)
  | 3 => max 1 (min n 48)
  | 4 => if n = 0 then 0 else max 10 (min n 3600)
  | 5 => min n 15
  | 6 => min n 7
  | 7 => min n 7
  | 8 => min n 15
  | 9 => min n 15
  | 10 => max 1 (min n 32)
  | 11 => min n 16384
  | 12 => min n 32767
  | 13 => if n ≤ 96 then 96 else if n ≤ 192 then 192 else if n ≤ 384 then 384 else 768
  | 14 => min n 240
  | 16 => max 1 (min n 16)
  | _ => n

/-- The value a field holds after the named fields are written: the allowed value of the last named, or the old one. -/
def fieldAfter (fs : List (Nat × FieldValue)) (k old : Nat) : Nat := ((lastWord fs k).map (nearest k)).getD old

/-- The settings after the named fields are written, the jump rule last (R16, R92). -/
def Settings.named (x : Settings) (fs : List (Nat × FieldValue)) : Settings :=
  let mx := fieldAfter fs 9 x.max
  let jp := fieldAfter fs 8 x.jump
  { mode := match lastWord fs 1 with
      | some 0 => .auto
      | some 1 => .manual
      | some 2 => .override
      | _ => x.mode,
    openLimit := fieldAfter fs 2 x.openLimit, queueLimit := fieldAfter fs 3 x.queueLimit,
    speakLimit := fieldAfter fs 4 x.speakLimit, vip := fieldAfter fs 5 x.vip,
    langBonus := fieldAfter fs 6 x.langBonus, segBonus := fieldAfter fs 7 x.segBonus,
    jump := if 0 < mx ∧ mx ≤ jp then mx - 1 else jp, max := mx, guard := fieldAfter fs 10 x.guard,
    duck := fieldAfter fs 11 x.duck, gain := fieldAfter fs 12 x.gain, ramp := fieldAfter fs 13 x.ramp,
    idle := fieldAfter fs 14 x.idle }

/-- A named value of the fields `lo` to `hi` is out of its range. -/
def outOfRange (fs : List (Nat × FieldValue)) (lo hi : Nat) : Bool :=
  fs.any fun f => match f.2 with
    | .word n => lo ≤ f.1 && f.1 ≤ hi && nearest f.1 n ≠ n
    | .list _ => false

/-- A named setting was brought into its range, or the jump rule acted (R16, R92). -/
def Settings.clampedBy (x : Settings) (fs : List (Nat × FieldValue)) : Bool :=
  let mx := fieldAfter fs 9 x.max
  outOfRange fs 2 14 || (0 < mx && mx ≤ fieldAfter fs 8 x.jump)

/-- A defaults record after the named fields are written (R15, R16). -/
def Defaults.named (d : Defaults) (fs : List (Nat × FieldValue)) : Defaults :=
  { settings := d.settings.named fs, base := fieldAfter fs 15 d.base, size := fieldAfter fs 16 d.size,
    wanted := (lastList fs 17).getD d.wanted, floorLang := fieldAfter fs 18 d.floorLang }

/-! ## What a block start does, part by part -/

/-- From `s` to `t` what the block before owed has been done: the ends of the ramps that have mixed their last sample,
slot by slot, each a RAMP_END, and then the block's own end, a MIX_BLOCK_END (R157, R160; log entry 6). -/
def State.settled (s t : State) : Prop :=
  exec .mixBlockEnd (allSlots.foldl endIfMixed s) = .next t
  ∧ (∀ (x : State) (r : SlotRef), (∃ e, x.hall.entry r = some e ∧ e.owesEnd) →
      exec (.rampEnd r.trunk r.slot) x = .next (endIfMixed x r))
  ∧ (∀ (x : State) (r : SlotRef), (∀ e, x.hall.entry r = some e → ¬e.owesEnd) → endIfMixed x r = x)
  ∧ ((∀ r e, s.hall.entry r = some e → ¬e.owesEnd) → s.mix.block = none → t = s)
  ∧ t.scanner = s.scanner ∧ t.trunks = s.trunks ∧ t.pending = s.pending ∧ t.mix.blockCount = s.mix.blockCount
  ∧ t.mix.out = s.mix.out ∧ t.mix.chStates = s.mix.chStates ∧ t.mix.booths = s.mix.booths
  ∧ ∀ p : PortId, (t.hall.ports[p]).core = (s.hall.ports[p]).core

/-- What a rebuilt room's record holds in the state `t` after a commit or REINIT, `m` being the room of the new map and
`p` its placed plan: its generation is one more than the highest of the rooms of `h` that share a segment with it, its
staging area is empty, it is unfrozen and awake (R39, R44, R47, R144, R165, R179). -/
def Room.rebuiltFrom (r : Room) (h : Hall) (m : MapRoom) (p : Plan) : Prop :=
  r.segs = m.segs ∧ r.lead = m.lead ∧ r.frozen = false ∧ r.dormant = false
  ∧ r.staging = { pairs := [], pending := false, applied := true } ∧ r.console = consoleOf h m.lead
  ∧ r.base = p.base ∧ r.size = p.size ∧ r.langs = p.langs ∧ r.placement = p.placement ∧ r.dropped = p.dropped
  ∧ ∀ j r', h.room j = some r' → (r'.segs &&& m.segs) ≠ 0 →
      (∀ k r2, h.room k = some r2 → (r2.segs &&& m.segs) ≠ 0 → r2.gen ≤ r'.gen) → r.gen = r'.gen + 1

/-- A record built from its lead segment's defaults, as a room that continues no room (R39, R47). -/
def Room.fromDefaults (r : Room) (d : Defaults) : Prop :=
  r.settings = d.settings ∧ r.floorLang = d.floorLang ∧ r.clip = 0 ∧ r.lastSpeaker = none ∧ r.elevated = none

/-- From `s` to `g`, the hall of a commit before its grant handling, the floor has been refiled (R40 to R42). In each
rebuilt room the entries beyond the open limit, oldest grant stamp first, are CLOSING; the oldest requests, as many as
the queue limit, stay with scores and guard counts brought within the room's, and the units of the others are denied;
and the elevated mark is the continued room's, where its request is still in the queue. Every other entry and request is
as it was. -/
def State.refiled (s : State) (g : Hall) : Prop :=
  let old := s.hall
  let ms := s.regroup.pendingMap.filter fun m => (m.segs &&& s.regroup.affected) ≠ 0
  (∀ m ∈ ms, ∃ r, g.room m.id = some r ∧
    (let waiting := old.queueIn m.segs
     let speakers := openIn old m.segs
     let beyond := speakers.length - r.settings.openLimit
     (∀ q ∈ speakers.take beyond, g.entry q = (old.entry q).map Entry.closed)
     ∧ (∀ q ∈ speakers.drop beyond, g.entry q = old.entry q)
     ∧ (∀ y ∈ waiting.take r.settings.queueLimit,
         { y with score := min y.score r.settings.max, guard := min y.guard r.settings.guard } ∈ g.requests)
     ∧ (∀ y ∈ waiting.drop r.settings.queueLimit, g.requestOf y.unit = none
         ∧ ((old.unit y.unit).present = true → (g.addr y.unit).floorOrder = some .deny))
     ∧ ∀ u, r.elevated = some u ↔
         (∃ j r', old.room j = some r' ∧ r'.lead = m.lead ∧ r'.elevated = some u)
         ∧ ∃ y ∈ waiting.take r.settings.queueLimit, y.unit = u))
  ∧ (∀ q, old.entry q = none → g.entry q = none)
  ∧ (∀ q e, old.entry q = some e → (e.chair = true ∨ e.onAir = false ∨ ∀ m ∈ ms, inSet m.segs e.seg = false) →
      g.entry q = some e)
  ∧ (∀ u, old.requestOf u = none → g.requestOf u = none ∧ g.addr u = { old.addr u with notice := (g.addr u).notice })
  ∧ (∀ y ∈ old.requests, (∀ m ∈ ms, old.seatedIn m.segs y.unit = false) → y ∈ g.requests)
  ∧ (∀ u, g.requestOf u ≠ none →
      (g.unit u).seat = (old.unit u).seat ∧ (g.addr u).floorOrder = (old.addr u).floorOrder)
  ∧ g.seq = old.seq ∧ g.rotation = old.rotation

/-- From `s` to `t` a commit has reassigned the booths (R134, R135, R138). Of the LIVE booths of one rebuilt room with
one output language in its list, the one that served the continued room stays LIVE, when exactly one did, else the
lowest id; every other LIVE booth of the room stands by, displaced. A pin to a booth that is not LIVE in the room is cleared,
relay is re-evaluated in each rebuilt room, and BOOTH is raised for the rebuilt rooms in which a booth changed. -/
def State.reassigned (s t : State) : Prop :=
  let old := s.hall
  let ms := s.regroup.pendingMap.filter fun m => (m.segs &&& s.regroup.affected) ≠ 0
  let live (m : MapRoom) (b : BoothId) : Prop :=
    (old.booths[b]).state = .live ∧ (old.booths[b]).defined = true ∧
    ∃ sg, (old.booths[b]).home = some sg ∧ inSet m.segs sg = true
  let rival (m : MapRoom) (b c : BoothId) : Prop := live m c ∧ (old.booths[c]).output = (old.booths[b]).output
  let served (m : MapRoom) (b : BoothId) : Prop :=
    ∃ j r sg, old.room j = some r ∧ r.lead = m.lead ∧ (old.booths[b]).home = some sg ∧ inSet r.segs sg = true
  let sole (m : MapRoom) (b c : BoothId) : Prop :=
    rival m b c ∧ served m c ∧ ∀ d, rival m b d → served m d → d = c
  let stays (m : MapRoom) (b : BoothId) : Prop :=
    (∃ r, t.hall.room m.id = some r ∧ (old.booths[b]).output ∈ r.langs) ∧
    (sole m b b ∨ ((∀ c, ¬sole m b c) ∧ ∀ c, rival m b c → b ≤ c))
  (∃ y : Vector Booth 12,
    (∀ m ∈ ms, ∀ b, live m b →
      (stays m b →
        ((∃ c, (old.booths[b]).pin = some (.booth c) ∧ ¬(live m c ∧ stays m c)) →
          y[b] = { old.booths[b] with pin := none })
        ∧ ((∀ c, (old.booths[b]).pin = some (.booth c) → live m c ∧ stays m c) → y[b] = old.booths[b]))
      ∧ (¬stays m b →
        y[b] = { old.booths[b] with
          state := .standby, source := .floor, pin := none, noPivot := false, displaced := true })
      ∧ t.hall.booths[b] = (reevaluate { t.hall with booths := y } m.id).booths[b])
    ∧ ∀ b, (∀ m ∈ ms, ¬live m b) → y[b] = old.booths[b] ∧ t.hall.booths[b] = old.booths[b])
  ∧ old.signalled t.hall .booth fun x => ∃ m ∈ ms, x = m.segs ∧ ∃ b, live m b ∧ t.hall.booths[b] ≠ old.booths[b]

/-- From `s`, in COMMIT-WAIT, to `t` the commit has been made (R38 to R45, R134, R135, R142 to R144). Which rooms the
old pending map rebuilds, what each holds, what the others keep, that the active map is then the old pending map where
the two agree outside the affected set, and that the regroup is closed. Where the maps and the floor records are sound,
the floor is refiled and the booths reassigned, REGROUP, ROOM and FLOOR are raised, and the grant handling of the
rebuilt rooms is run last, from the hall `g` (R117). -/
def State.committed (s t : State) : Prop :=
  let old := s.hall
  let x := s.regroup.affected
  let ms := s.regroup.pendingMap.filter fun m => (m.segs &&& x) ≠ 0
  let held := (allSegIds.filterMap old.room).filterMap fun r =>
    if (r.segs &&& x) = 0 then some (r.base, r.size) else none
  let plans := placeWindows held (ms.map (startPlan s.scanner old))
  t.scanner = s.scanner ∧ t.trunks = s.trunks ∧ t.mix = s.mix ∧ t.pending = s.pending
  ∧ t.regroup =
      { s.regroup with
        state := if atRest s.scanner then .steady else .settling, isOpen := false, affected := 0, consent := [],
        holds := [], pendingMap := t.hall.activeMap }
  ∧ (∀ u, (t.hall.unit u).core = (old.unit u).core) ∧ t.hall.radiators = old.radiators
  ∧ (∀ p : PortId, (t.hall.ports[p]).core = (old.ports[p]).core)
  ∧ (∀ q e, old.entry q = some e →
      (e.onAir = false → t.hall.entry q = some e)
      ∧ (e.onAir = true → t.hall.entry q = some e ∨ (e.chair = false ∧ t.hall.entry q = some e.closed)))
  ∧ ((s.regroup.pendingMap.map (·.id)).Nodup →
      (∀ m ∈ ms, ∃ r p, t.hall.room m.id = some r ∧ p ∈ plans ∧ p.id = m.id ∧ r.rebuiltFrom old m p
        ∧ (∀ j r', old.room j = some r' → r'.lead = m.lead →
            (∀ k r2, old.room k = some r2 → r2.lead = m.lead → k = j) →
            r.settings = r'.settings ∧ r.floorLang = r'.floorLang ∧ r.clip = r'.clip
            ∧ r.lastSpeaker = (r'.lastSpeaker.filter fun sg => inSet m.segs sg)
            ∧ (r.elevated = none ∨ r.elevated = r'.elevated))
        ∧ ((∀ j r', old.room j = some r' → r'.lead ≠ m.lead) → r.fromDefaults s.scanner.defaults[m.lead])
        ∧ (t.hall.queue m.id).length ≤ r.settings.queueLimit
        ∧ (∀ b ∈ t.hall.liveBooths m.id, (t.hall.booths[b]).output ∈ r.langs
            ∧ (∀ c ∈ t.hall.liveBooths m.id, c ≠ b → (t.hall.booths[c]).output ≠ (t.hall.booths[b]).output)
            ∧ ∀ c, (t.hall.booths[b]).pin = some (.booth c) → c ∈ t.hall.liveBooths m.id))
      ∧ (∀ j r', old.room j = some r' → (r'.segs &&& x) = 0 → (∀ m ∈ ms, m.id ≠ j) → ∃ r, t.hall.room j = some r
          ∧ r.core = r'.core ∧ r.floorLang = r'.floorLang ∧ r.lastSpeaker = r'.lastSpeaker ∧ r.frozen = false)
      ∧ (∀ j, (∀ r', old.room j = some r' → (r'.segs &&& x) ≠ 0) → (∀ m ∈ ms, m.id ≠ j) → t.hall.room j = none))
  ∧ (s.regroup.pendingMap.Pairwise (fun a b => a.id < b.id) →
      (∀ i y, (y &&& x) = 0 →
        ((∃ r, old.room i = some r ∧ r.segs = y) ↔ ∃ m ∈ s.regroup.pendingMap, m.id = i ∧ m.segs = y)) →
      (t.hall.activeMap.map fun m => (m.id, m.segs)) = s.regroup.pendingMap.map fun m => (m.id, m.segs))
  ∧ t.hall.told .regroup allSegs
  ∧ ((s.regroup.pendingMap.map (·.id)).Nodup → ∀ m ∈ ms, t.hall.told .room m.segs ∧ t.hall.told .floor m.segs)
  ∧ (s.mapsOk → s.hall.floorOk →
      s.reassigned t
      ∧ ∃ g, t.hall = unfreeze g (ms.map (·.id)) ∧ s.refiled g ∧ g.booths = t.hall.booths
        ∧ ∀ i r, t.hall.room i = some r → ∃ r0, g.room i = some r0 ∧ r0.core = r.core ∧ r0.floorLang = r.floorLang
          ∧ r0.lastSpeaker = r.lastSpeaker ∧ r0.frozen = false)

/-- From `s` to `t` REINIT has been applied (R47, R48, R99, R136, R146, R179). The active map and the pending map are
the map of the walls and ranks of the moment, with every room built from defaults; queues, speaking lists and slots are
empty; every unit is IDLE and unwarned, with the orders of R99; every booth has left LIVE; the regroup is closed; and
REGROUP, ROOM, FLOOR and BOOTH are raised for all segments. -/
def State.reinited (s t : State) : Prop :=
  let old := s.hall
  let m := computeMap s.scanner
  let plans := placeWindows [] (m.map (freshPlan s.scanner))
  t.scanner = s.scanner ∧ t.trunks = s.trunks ∧ t.mix = s.mix ∧ t.pending = s.pending
  ∧ t.regroup =
      { s.regroup with
        state := if atRest s.scanner then .steady else .settling, isOpen := false, affected := 0, consent := [],
        holds := [], silent := [], deadline := none, pendingMap := m }
  ∧ ((∀ i r, old.room i = some r → r.segs ≠ 0) → t.hall.activeMap = m)
  ∧ (∀ x ∈ m, ∃ r p, t.hall.room x.id = some r ∧ p ∈ plans ∧ p.id = x.id ∧ r.rebuiltFrom old x p
      ∧ r.fromDefaults s.scanner.defaults[x.lead])
  ∧ t.hall.requests = [] ∧ (∀ q, t.hall.entry q = none) ∧ t.hall.seq = old.seq ∧ t.hall.rotation = old.rotation
  ∧ t.hall.radiators = old.radiators
  ∧ (∀ u, (t.hall.unit u).core = (old.unit u).core ∧ (t.hall.unit u).warned = false ∧ t.hall.floorState u = .idle
      ∧ (t.hall.unit u).seat = (old.unit u).seatCalled
      ∧ (old.requestOf u ≠ none → t.hall.addr u =
          { old.addr u with
            floorOrder := if (old.unit u).present then some .deny else (old.addr u).floorOrder })
      ∧ (old.requestOf u = none → old.entryOf u ≠ none → t.hall.addr u =
          { old.addr u with
            confirm := none,
            floorOrder := if (old.unit u).present then some .release else (old.addr u).floorOrder,
            notice := if (old.unit u).present ∧ (old.unit u).warned then some .clearWarn else (old.addr u).notice })
      ∧ (old.requestOf u = none → old.entryOf u = none → t.hall.addr u = old.addr u))
  ∧ (∀ b : BoothId, t.hall.booths[b] =
      { old.booths[b] with
        state := if (old.booths[b]).state = .live then .standby else (old.booths[b]).state, source := .floor,
        pin := none, noPivot := false, displaced := false })
  ∧ (∀ p : PortId, (t.hall.ports[p]).core = { old.ports[p] with reinitPending := false }.core)
  ∧ t.hall.told .regroup allSegs ∧ t.hall.told .room allSegs ∧ t.hall.told .floor allSegs ∧ t.hall.told .booth allSegs

/-- An entry ends at the block start that would latch it: CLOSING with e of 0, unless a ramp is on its way to 0
(R155, R157; log entry 16). -/
def Entry.silentEnd (e : Entry) : Prop :=
  e.state = .closing ∧ e.e = 0 ∧ ∀ rp, e.ramp = some rp → rp.target ≠ 0

/-- From `s` to `t` the pending gain applies have been made (R165), the CLOSING entries that end at the block start have
left their slots (R157), and the idle timers are in line (R149). The entries end slot by slot, each as a RAMP_END at 0
ends one. Where none ends, all that the floor holds is kept: requests, slots, orders, stamps, seats, marks and flags.
Where one does, no flag is cleared, a slot that was free is free or newly granted, no request is new, and a unit without
a request or an entry that ends keeps its orders. -/
def State.prepared (s t : State) : Prop :=
  t = (allSlots.foldl endSilent (s.withHall (allSegIds.foldl applyRoomGains s.hall))).sweep
  ∧ (∀ (x : State) (r : SlotRef), (∀ e, x.hall.entry r = some e → ¬e.silentEnd) → endSilent x r = x)
  ∧ (∀ (x : State) (r : SlotRef) (e : Entry), x.hall.entry r = some e → e.silentEnd →
      ∃ y, exec (.rampEnd r.trunk r.slot)
          { x with hall := x.hall.setEntry r (some { e with ramp := some ⟨0, 0, 96, 96⟩ }) } = .next y
        ∧ (endSilent x r).sweep.hall = y.hall ∧ (endSilent x r).regroup = y.regroup)
  ∧ ((∀ q e, s.hall.entry q = some e → ¬e.silentEnd) →
      t.regroup = s.regroup ∧ t.hall.requests = s.hall.requests ∧ t.hall.addrs = s.hall.addrs ∧ t.hall.seq = s.hall.seq
      ∧ t.hall.rotation = s.hall.rotation ∧ t.hall.pools = s.hall.pools ∧ t.hall.ports = s.hall.ports
      ∧ (∀ u, t.hall.unit u = { s.hall.unit u with gain := (t.hall.unit u).gain })
      ∧ ∀ i r, s.hall.room i = some r →
          ∃ r', t.hall.room i = some r' ∧ r'.elevated = r.elevated ∧ r'.dormant = r.dormant)
  ∧ (∀ p : PortId, (s.hall.ports[p]).flags &&& ~~~(t.hall.ports[p]).flags = 0)
  ∧ (∀ q, s.hall.entry q = none → ∀ e', t.hall.entry q = some e' → e'.state = .granted)
  ∧ (∀ y ∈ t.hall.requests, ∃ y' ∈ s.hall.requests, y'.unit = y.unit ∧ y'.stamp = y.stamp)
  ∧ (∀ u, s.hall.requestOf u = none →
      (∀ q e, s.hall.entry q = some e → q.trunk = u.trunk → e.unit = some u.addr → ¬e.silentEnd) →
      t.hall.requestOf u = none ∧ t.hall.addr u = s.hall.addr u
      ∧ t.hall.unit u = { s.hall.unit u with gain := (t.hall.unit u).gain })
  ∧ t.scanner = s.scanner ∧ t.trunks = s.trunks ∧ t.mix = s.mix ∧ t.pending = s.pending
  ∧ t.regroup = { s.regroup with state := t.regroup.state }
  ∧ (t.regroup.state = s.regroup.state ∨ (s.regroup.state = .drain ∧ t.regroup.state = .commitWait))
  ∧ t.hall.booths = s.hall.booths ∧ t.hall.radiators = s.hall.radiators
  ∧ (∀ p : PortId, (t.hall.ports[p]).core = (s.hall.ports[p]).core) ∧ idleSweep t.hall = t.hall
  ∧ (∀ i, s.hall.room i = none → t.hall.room i = none)
  ∧ (∀ i r, s.hall.room i = some r → ∃ r', t.hall.room i = some r' ∧ r'.floorLang = r.floorLang
      ∧ r'.lastSpeaker = r.lastSpeaker ∧ r'.frozen = r.frozen
      ∧ (r'.elevated = r.elevated ∨ r'.elevated = none)
      ∧ r'.core =
          { r with
            staging :=
              if r.staging.pending then { pairs := [], pending := false, applied := true } else r.staging }.core)
  ∧ (∀ u, (t.hall.unit u).core = { s.hall.unit u with gain := (t.hall.unit u).gain }.core)
  ∧ (∀ u, (∀ i r, s.hall.room i = some r → r.staging.pending = true → ∀ y ∈ r.staging.pairs, y.1 ≠ u) →
      (t.hall.unit u).gain = (s.hall.unit u).gain)
  ∧ (∀ i r u n, s.hall.room i = some r → r.staging.pending = true → (u, n) ∈ r.staging.pairs →
      (∀ y ∈ r.staging.pairs, y.1 = u → y.2 = n) →
      (∀ j r', j ≠ i → s.hall.room j = some r' → r'.staging.pending = true → ∀ y ∈ r'.staging.pairs, y.1 ≠ u) →
      (t.hall.unit u).gain = n)
  ∧ ∀ q e, s.hall.entry q = some e →
      (¬e.silentEnd → t.hall.entry q = some e)
      ∧ (e.silentEnd → ∀ e', t.hall.entry q = some e' → e'.state = .granted)

/-- What an entry's ramp state is after a block start that latches it with a target in a room of ramp length `len`
(R155): as it was where its running ramp has that target, or where no ramp runs and e is the target, unless it is
OPENING; else a new ramp from the present e. -/
def Entry.ramped (e : Entry) (target len : Nat) (e' : Entry) : Prop :=
  (∀ rp, e.ramp = some rp → rp.target = target → e' = e)
  ∧ (e.ramp = none → e.e = target → e.state ≠ .opening → e' = e)
  ∧ (((∃ rp, e.ramp = some rp ∧ rp.target ≠ target) ∨ (e.ramp = none ∧ (e.e ≠ target ∨ e.state = .opening))) →
      e' = { e with ramp := some { start := e.e, target := target, len := len, pos := 0 } })

/-- What a channel state is after a block start that sends it toward the levels `v` and `d` with ramp length `len`
(R161). -/
def ChState.sent (c : ChState) (v d len : Nat) (c' : ChState) : Prop :=
  (∀ rp, c.ramp = some rp → rp.targetV = v → rp.targetD = d → c' = c)
  ∧ (c.ramp = none → c.v = v → c.d = d → c' = c)
  ∧ (((∃ rp, c.ramp = some rp ∧ (rp.targetV ≠ v ∨ rp.targetD ≠ d)) ∨ (c.ramp = none ∧ (c.v ≠ v ∨ c.d ≠ d))) →
      c' = { c with
        ramp := some { startV := c.v, targetV := v, startD := c.d, targetD := d, len := len, pos := 0 } })

/-- From `s` to `t` a block has been latched (R153, R154) with the ramps it starts (R155, R161): the block count is one
up, and rooms, entries, booths and the channel map are latched from the records; nothing else changes but ramps. -/
def State.latched (s t : State) : Prop :=
  t.scanner = s.scanner ∧ t.regroup = s.regroup ∧ t.trunks = s.trunks ∧ t.pending = s.pending
  ∧ t.hall = { s.hall with pools := t.hall.pools }
  ∧ t.mix.blockCount = s.mix.blockCount + 1 ∧ t.mix.block = some 0 ∧ t.mix.clipped = Vector.replicate 8 false
  ∧ t.mix.out = s.mix.out
  ∧ (∀ i, s.hall.room i = none → t.mix.rooms[i] = none)
  ∧ (∀ i r, s.hall.room i = some r → ∃ l, t.mix.rooms[i] = some l ∧ l.segs = r.segs ∧ l.gain = r.settings.gain
      ∧ l.duck = r.settings.duck ∧ l.ramp = r.settings.ramp ∧ l.dormant = r.dormant ∧ (l.entries.map (·.ref)).Nodup
      ∧ ∀ y, y ∈ l.entries ↔ ∃ e, s.hall.entry y.ref = some e ∧ inSet r.segs e.seg = true ∧ e.state ≠ .granted
          ∧ y.target = targetGain s.hall y.ref.trunk e ∧ y.left = none)
  ∧ (∀ (k : TrunkId) (e : Entry),
      (∀ a, e.unit = some a → e.onAir = true → targetGain s.hall k e = (s.hall.unit { trunk := k, addr := a }).gain)
      ∧ (e.state = .closing → targetGain s.hall k e = 0))
  ∧ (∀ b : BoothId, t.mix.booths[b] =
      { state := (s.hall.booths[b]).state, room := s.hall.boothRoom b, lang := (s.hall.booths[b]).output,
        mic := (s.hall.booths[b]).mic, gain := (s.hall.booths[b]).gain, source := (s.hall.booths[b]).source,
        onAir := (s.hall.booths[b]).state = .live && (s.hall.booths[b]).mic, matched := s.hall.floorMatched b })
  ∧ (∀ c : Fin 32, t.mix.chans[c] = s.hall.content c.val)
  ∧ (∀ q, s.hall.entry q = none → t.hall.entry q = none)
  ∧ (∀ q e, s.hall.entry q = some e → (e.state = .granted ∨ s.hall.roomOf e.seg = none) → t.hall.entry q = some e)
  ∧ (∀ q e i r, s.hall.entry q = some e → e.state ≠ .granted → s.hall.roomOf e.seg = some i →
      s.hall.room i = some r →
      ∃ e', t.hall.entry q = some e' ∧ e.ramped (targetGain s.hall q.trunk e) r.settings.ramp e')
  ∧ ∀ b : BoothId,
      ((s.hall.booths[b]).state ≠ .live → t.mix.chStates[b] = { v := 0, d := 16384, ramp := none })
      ∧ ∀ i r, (s.hall.booths[b]).state = .live → s.hall.boothRoom b = some i → s.hall.room i = some r →
          let now : ChState :=
            if (s.mix.booths[b]).lang = (s.hall.booths[b]).output then s.mix.chStates[b]
            else { v := 0, d := 16384, ramp := none }
          let speaks : Bool := (s.hall.booths[b]).mic && !s.hall.floorMatched b
          now.sent (if speaks then (s.hall.booths[b]).gain else 0) (if speaks then r.settings.duck else 16384)
            r.settings.ramp t.mix.chStates[b]

/-! ## Table 9-4 as data -/

/-- The roles that may give a command of Table 9-4; none for an event, a failed frame and an unknown command. -/
def rolesOf : Instr → Option (List Role)
  | .fullReset _ => none
  | .contactEvent _ _ _ => none
  | .settleTimerExpiry _ => none
  | .stuckTimerExpiry _ => none
  | .deadlineExpiry => none
  | .mixBlockStart => none
  | .rampEnd _ _ => none
  | .mixBlockEnd => none
  | .senseLineChange _ _ => none
  | .overcurrent _ => none
  | .pollRoundStart _ => none
  | .pollReply _ _ => none
  | .roundEnd _ => none
  | .confirmationCountExpiry _ => none
  | .handOverTaken _ => none
  | .speakLimitWarning _ => none
  | .speakLimitExpiry _ => none
  | .idleTimerExpiry _ => none
  | .attentionPulseEnd _ => none
  | .failedFrame _ _ => none
  | .unknownCommand _ _ _ _ => none
  | .defineWall _ _ _ => some [.venue]
  | .wallOverride _ _ _ => some [.venue]
  | .lockWalls _ _ _ => some [.venue]
  | .setSegmentDefaults _ _ _ => some [.venue]
  | .setLeadRank _ _ _ => some [.venue]
  | .setRegroupTimes _ _ _ => some [.venue]
  | .forceRegroup _ _ _ => some [.venue]
  | .assignScope _ _ _ => some [.venue]
  | .setUnit _ _ _ => some [.venue]
  | .trunkPower _ _ _ => some [.venue]
  | .setRollcall _ _ _ => some [.venue]
  | .setRadiators _ _ _ => some [.venue]
  | .reinit _ _ _ => some [.venue]
  | .claimSegments _ _ _ => some [.console]
  | .releaseSegments _ _ _ => some [.console]
  | .setRoom _ _ _ => some [.console, .venue]
  | .setWindow _ _ _ => some [.console, .venue]
  | .grant _ _ _ => some [.console, .venue]
  | .grantNext _ _ _ => some [.console, .venue]
  | .drop _ _ _ => some [.console, .venue]
  | .cancelRequest _ _ _ => some [.console, .venue]
  | .elevate _ _ _ => some [.console, .venue]
  | .allOff _ _ _ => some [.console, .venue]
  | .stageGain _ _ _ => some [.console, .venue]
  | .applyGains _ _ _ => some [.console, .venue]
  | .regroupAnswer _ _ _ => some [.console]
  | .defineBooth _ _ _ => some [.desk, .venue]
  | .boothState _ _ _ => some [.desk, .venue]
  | .boothOutput _ _ _ => some [.desk, .venue]
  | .boothMic _ _ _ => some [.desk, .venue]
  | .boothGain _ _ _ => some [.desk, .venue]
  | .pinSource _ _ _ => some [.desk, .venue]
  | .unpinSource _ _ _ => some [.desk, .venue]
  | .readWalls _ _ _ => some [.console, .desk, .venue]
  | .readRegroup _ _ _ => some [.console, .desk, .venue]
  | .readRoom _ _ _ => some [.console, .desk, .venue]
  | .readQueue _ _ _ => some [.console, .desk, .venue]
  | .readUnit _ _ _ => some [.console, .desk, .venue]
  | .readBooth _ _ _ => some [.console, .desk, .venue]
  | .readTrunk _ _ _ => some [.console, .desk, .venue]
  | .readFlags _ _ _ => some [.console, .desk, .venue, .unused]
  | .ackFlags _ _ _ => some [.console, .desk, .venue]
  | .setAttention _ _ _ => some [.console, .desk, .venue]
  | .linkReset _ _ _ => some [.console, .desk, .venue, .unused]
  | .wordClockPeriod _ => none
  | .pollSend _ => none

/-- The payload begins with a presence byte, 0 or 1, and two bytes of generation, and the rest of it is `ok`. -/
def withGeneration (ok : List Byte → Bool) : List Byte → Bool
  | c :: _ :: _ :: rest => c.toNat ≤ 1 && ok rest
  | _ => false

/-- The payload of a command frame has the fields of its command and no more (R171, step 4; the layouts of 9.2.1, and
where it leaves one open log entry 7). An event, a failed frame and an unknown command have none to check. -/
def payloadOk : Instr → Bool
  | .fullReset _ => true
  | .contactEvent _ _ _ => true
  | .settleTimerExpiry _ => true
  | .stuckTimerExpiry _ => true
  | .deadlineExpiry => true
  | .mixBlockStart => true
  | .rampEnd _ _ => true
  | .mixBlockEnd => true
  | .senseLineChange _ _ => true
  | .overcurrent _ => true
  | .pollRoundStart _ => true
  | .pollReply _ _ => true
  | .roundEnd _ => true
  | .confirmationCountExpiry _ => true
  | .handOverTaken _ => true
  | .speakLimitWarning _ => true
  | .speakLimitExpiry _ => true
  | .idleTimerExpiry _ => true
  | .attentionPulseEnd _ => true
  | .failedFrame _ _ => true
  | .unknownCommand _ _ _ _ => true
  | .wordClockPeriod _ => true
  | .pollSend _ => true
  | .defineWall _ _ l => match l with
    | o :: rest => rest.length = if o.getLsbD 0 then 1 else 3
    | [] => false
  | .wallOverride _ _ l => l.length = 2
  | .lockWalls _ _ l => l.length = 0
  | .setSegmentDefaults _ _ l => 1 ≤ l.length && (fieldsOf defaultsFieldKind (l.drop 1)).isSome
  | .setLeadRank _ _ l => l.length = 2
  | .setRegroupTimes _ _ l => l.length = 6
  | .forceRegroup _ _ l => l.length = 0
  | .assignScope _ _ l => l.length = 2
  | .setUnit _ _ l => 2 ≤ l.length && (fieldsOf unitFieldKind (l.drop 2)).isSome
  | .trunkPower _ _ l => l.length = 2
  | .setRollcall _ _ l => l.length = 2
  | .setRadiators _ _ l => match l with
    | c :: rest => 1 ≤ c.toNat && rest.length = 2 * c.toNat
    | [] => false
  | .reinit _ _ l => l.length = 0
  | .claimSegments _ _ l => l.length = 1
  | .releaseSegments _ _ l => l.length = 1
  | .setRoom _ _ l => withGeneration (fun x => 1 ≤ x.length && (fieldsOf roomFieldKind (x.drop 1)).isSome) l
  | .setWindow _ _ l => withGeneration (fun x => x.length = 3) l
  | .grant _ _ l => withGeneration (fun x => x.length = 3) l
  | .grantNext _ _ l => withGeneration (fun x => x.length = 1) l
  | .drop _ _ l => withGeneration (fun x => x.length = 2) l
  | .cancelRequest _ _ l => withGeneration (fun x => x.length = 2) l
  | .elevate _ _ l => withGeneration (fun x => match x with
      | o :: rest => rest.length = if o.getLsbD 0 then 1 else 2
      | [] => false) l
  | .allOff _ _ l => withGeneration (fun x => x.length = 1) l
  | .stageGain _ _ l => withGeneration (fun x => x.length = 4) l
  | .applyGains _ _ l => withGeneration (fun x => x.length = 1) l
  | .regroupAnswer _ _ l => match l with
    | _ :: c :: rest => c.toNat ≤ 1 && rest.length = 2 * c.toNat
    | _ => false
  | .defineBooth _ _ l => match l with
    | o :: rest =>
      if o.getLsbD 0 then rest.length = 1
      else match rest.drop 4 with
        | n :: codes => codes.length = n.toNat
        | [] => false
    | [] => false
  | .boothState _ _ l => l.length = 2
  | .boothOutput _ _ l => l.length = 2
  | .boothMic _ _ l => l.length = 2
  | .boothGain _ _ l => l.length = 3
  | .pinSource _ _ l => l.length = 2
  | .unpinSource _ _ l => l.length = 1
  | .readWalls _ _ l => match l with
    | o :: rest => rest.length = if o.getLsbD 0 then 1 else 0
    | [] => false
  | .readRegroup _ _ l => l.length = 0
  | .readRoom _ _ l => l.length = 2
  | .readQueue _ _ l => l.length = 1
  | .readUnit _ _ l => l.length = 2
  | .readBooth _ _ l => match l with
    | o :: rest => rest.length = if o.getLsbD 0 then 0 else 1
    | [] => false
  | .readTrunk _ _ l => l.length = 2
  | .readFlags _ _ l => l.length = 0
  | .ackFlags _ _ l => l.length = 1
  | .setAttention _ _ l => l.length = 3
  | .linkReset _ _ l => l.length = 0

/-- The field that selects a room in a room-selecting command, with the expected generation before it (Table 9-4,
R177); none for another command, and for a payload that is not the command's. -/
def roomHead : Instr → Option (Option (BitVec 16) × Selector)
  | .setRoom _ _ l => (parseSetRoom l).map fun x => (x.1, x.2.1)
  | .setWindow _ _ l => (parseSetWindow l).map fun x => (x.1, x.2.1)
  | .grant _ _ l => (parseUnitOption l).map fun x => (x.1, x.2.1)
  | .grantNext _ _ l => (parseSeg l).map fun x => (x.1, x.2.1)
  | .drop _ _ l => (parseUnit l).map fun x => (x.1, x.2.1)
  | .cancelRequest _ _ l => (parseUnit l).map fun x => (x.1, x.2.1)
  | .elevate _ _ l => (parseElevate l).map fun x => (x.1, x.2.1)
  | .allOff _ _ l => (parseSeg l).map fun x => (x.1, x.2.1)
  | .stageGain _ _ l => (parseStageGain l).map fun x => (x.1, x.2.1)
  | .applyGains _ _ l => (parseSeg l).map fun x => (x.1, x.2.1)
  | _ => none

end Sys2Proof.Machine
end

