-- ==== Sys2Proof/Certificates/Slice0/Obligations.lean ====
section
/-! DEFINITION. The statements about the HM-840 for the provers. Each docstring names the rules of spec/ that the
statement formalises, or says that it is the model's own choice. -/

open Sys2Proof Sys2Proof.Machine

/-! ## The step -/

/-- The command at the front of the queue is executed on the state with the queue's rest. -/
def Obligations.StepTakesFrontCommand : Prop :=
  ∀ (c : Instr) (s : State), step { s with pending := c :: s.pending } = exec c s

/-- Which event is due of the part's own accord (R4, R5, R33, R94, R149): a timer at 0, a speak timer at its limit or 30
s before it, and the others that `State.isDue` lists; one is due whenever any is. On an empty queue the due event of the
lowest rank is taken; where none is due, one millisecond of the part's time base passes: the walls' timers, the consent
deadline and the rooms' idle timers count down, the speak timers count up, and nothing else changes. The step on an
empty queue and the order of the events due together are the model's choice (log entry 2), and so is the measuring of a
refiled entry by its new room's limit (log entry 31). -/
def Obligations.StepOnEmptyQueue : Prop :=
  ∀ s : State,
    (∀ c, dueEvent s = some c → s.isDue c ∧ ∀ c', s.isDue c' → dueRank c ≤ dueRank c') ∧
    (dueEvent s = none → ∀ c, ¬s.isDue c) ∧
    (s.pending = [] →
      (∀ c, dueEvent s = some c → step s = exec c s) ∧
      (dueEvent s = none → ∃ t, step s = .next t ∧ t.trunks = s.trunks ∧ t.mix = s.mix ∧ t.pending = [] ∧
        t.hall.core = s.hall.core ∧ t.hall = { s.hall with rooms := t.hall.rooms, pools := t.hall.pools } ∧
        (∀ i : SegId, t.hall.room i = (s.hall.room i).map fun r => { r with idle := r.idle.map (· - 1) }) ∧
        (∀ r : SlotRef, t.hall.entry r = (s.hall.entry r).map fun e => { e with timer := e.timer.map (· + 1) }) ∧
        t.regroup = { s.regroup with deadline := s.regroup.deadline.map (· - 1) } ∧
        t.scanner = { s.scanner with walls := t.scanner.walls } ∧
        ∀ w : WallId, t.scanner.walls[w] =
          { s.scanner.walls[w] with
            settle := (s.scanner.walls[w]).settle.map (· - 1), stuck := (s.scanner.walls[w]).stuck.tick }))

/-- No command stops the part, and no command touches the queue of those that wait. That none touches the queue,
FULL_RESET included, is the model's choice: the queue is the model's own record, not the part's (log entry 25). -/
def Obligations.EveryCommandCompletes : Prop :=
  ∀ (c : Instr) (s : State), ∃ t, exec c s = .next t ∧ t.pending = s.pending

/-! ## Frames and admission (Chapter 9) -/

/-- Tables 9-1 and 9-4: what a port makes of the frame of a command is that command, whatever bytes follow the frame
in the transaction (R169). -/
def Obligations.FrameRoundTrip : Prop :=
  ∀ (i : Instr) (p : PortId) (bytes extra : List Byte), i.wellFormed = true → encodeFrame i = some (p, bytes) →
    decodeFrame p (bytes ++ extra) = some i

/-- R170: a frame that ends before its last check byte, or whose check does not match the sum of Table 9-1, is answered
CHECK with the tag as received, or 0, and no payload, and nothing else is done. -/
def Obligations.FailedFrame : Prop :=
  ∀ (p : PortId) (code : Byte), code ≠ 0 →
    decodeFrame p [code] = some (.failedFrame p none) ∧
    (∀ tag, decodeFrame p [code, tag] = some (.failedFrame p (some tag))) ∧
    (∀ (tag len : Byte) (body : List Byte),
      (body.length < len.toNat + 2 ∨
        (body.drop len.toNat).take 2 ≠ checkBytes (code :: tag :: len :: body.take len.toNat)) →
      decodeFrame p (code :: tag :: len :: body) = some (.failedFrame p (some tag))) ∧
    ∀ (s : State) (tag : Option Byte), ∃ t, exec (.failedFrame p tag) s = .next t ∧
      t = setAnswer s p (tag.getD 0) .check []

/-- R171, steps 1 to 4: while REINIT is pending at a port, every command frame is answered BUSY; a code that names no
command is answered UNKNOWN, which is the whole effect of UNKNOWN_COMMAND; a role that may not give the command
(Table 9-4) is answered ROLE; and a payload that has not the fields of the command, or has more, is answered RANGE.
Nothing else changes. How many bytes a field has where 9.2.1 leaves it open is the model's choice (log entry 7). -/
def Obligations.BusyUnknownRole : Prop :=
  (∀ (s : State) (p : PortId) (code tag : Byte) (l : List Byte), (s.hall.ports[p]).reinitPending = false →
    exec (.unknownCommand p code tag l) s = .next (setAnswer s p tag .unknown [])) ∧
  ∀ (c : Instr) (s : State) (p : PortId) (code tag : Byte) (l : List Byte), frameParts c = some (p, code, tag, l) →
    ((s.hall.ports[p]).reinitPending = true → exec c s = .next (setAnswer s p tag .busy [])) ∧
    ((s.hall.ports[p]).reinitPending = false →
      (rolesOf c = none → exec c s = .next (setAnswer s p tag .unknown [])) ∧
      ∀ rs, rolesOf c = some rs →
        ((s.hall.ports[p]).role ∉ rs → exec c s = .next (setAnswer s p tag .role [])) ∧
        ((s.hall.ports[p]).role ∈ rs → payloadOk c = false → exec c s = .next (setAnswer s p tag .range [])))

/-- R171, steps 5 to 7, with R172, R176 and R177. The room selected is the one that holds the segment named, or the seat
segment of the unit named; a segment above S7, a trunk above T3 and an address outside 1 to 60 are refused RANGE, and a
unit without a seat segment STATE. A room-selecting command whose room cannot be selected, whose port
does not control the room, or whose expected generation differs is refused, and from step 6 on the answer carries the
room's id and present generation. The venue port controls every room, and a console the rooms whose lead segment is in
its scope. -/
def Obligations.RoomAdmission : Prop :=
  (∀ (h : Hall) (sb tb ab : Byte),
    let only (i sg : SegId) : Prop := (∃ r, h.room i = some r ∧ inSet r.segs sg = true) ∧
      ∀ j r, h.room j = some r → inSet r.segs sg = true → j = i
    (7 < sb.toNat → selectRoom h (.seg sb) = .error .range) ∧
    (∀ sg i, sb.toNat = sg.val → only i sg → selectRoom h (.seg sb) = .ok i) ∧
    ((3 < tb.toNat ∨ ab.toNat = 0 ∨ 60 < ab.toNat) → selectRoom h (.unit tb ab) = .error .range) ∧
    ∀ u : UnitId, tb.toNat = u.trunk.val → ab.toNat = u.addr.val + 1 →
      ((h.unit u).seat = none → selectRoom h (.unit tb ab) = .error .state) ∧
      ∀ sg i, (h.unit u).seat = some sg → only i sg → selectRoom h (.unit tb ab) = .ok i) ∧
  ∀ (c : Instr) (s : State) (p : PortId) (code tag : Byte) (l : List Byte) (g : Option (BitVec 16)) (sel : Selector),
    frameParts c = some (p, code, tag, l) → roomHead c = some (g, sel) → s.admits p [.console, .venue] →
    (∀ st, selectRoom s.hall sel = .error st → exec c s = .next (setAnswer s p tag st [])) ∧
    ∀ i, selectRoom s.hall sel = .ok i →
      (scopeOk s.hall p i = false → exec c s = .next (setAnswer s p tag .scope (roomTail s.hall i))) ∧
      (scopeOk s.hall p i = true → genOk s.hall i g = false →
        exec c s = .next (setAnswer s p tag .stale (roomTail s.hall i))) ∧
      ∃ r, s.hall.room i = some r ∧ roomTail s.hall i = bSeg i ++ b2 r.gen.toNat ∧
        (scopeOk s.hall p i = true ↔
          ((s.hall.ports[p]).role = .venue ∨ inSet (s.hall.ports[p]).scope r.lead = true)) ∧
        (genOk s.hall i g = true ↔ (g = none ∨ g = some r.gen))

/-- R172: every refusal leaves every record as it was; only the answer of the port changes. -/
def Obligations.RefusalChangesOnlyTheAnswer : Prop :=
  ∀ (c : Instr) (s t : State) (p : PortId) (code tag : Byte) (l : List Byte), frameParts c = some (p, code, tag, l) →
    exec c s = .next t → (t.hall.ports[p]).answer.status ≠ .done → (t.hall.ports[p]).answer.status ≠ .doneClamped →
    ∃ st pl, t = setAnswer s p tag st pl

/-- Each port has a record of its own: a command frame at one port leaves every other port's role, answer, pending
REINIT, mask and modes as they were, and its scope too unless the command is ASSIGN-SCOPE (R168, R173 to R175). -/
def Obligations.PortsAreIsolated : Prop :=
  ∀ (c : Instr) (s t : State) (p q : PortId) (code tag : Byte) (l : List Byte), frameParts c = some (p, code, tag, l) →
    q ≠ p → exec c s = .next t →
    (t.hall.ports[q]).role = (s.hall.ports[q]).role ∧ (t.hall.ports[q]).answer = (s.hall.ports[q]).answer ∧
    (t.hall.ports[q]).reinitPending = (s.hall.ports[q]).reinitPending ∧
    (t.hall.ports[q]).mask = (s.hall.ports[q]).mask ∧ (t.hall.ports[q]).ack = (s.hall.ports[q]).ack ∧
    (t.hall.ports[q]).att = (s.hall.ports[q]).att ∧
    ((∀ p' t' l', c ≠ .assignScope p' t' l') → (t.hall.ports[q]).scope = (s.hall.ports[q]).scope)

/-! ## Reset and what every step keeps -/

/-- FULL_RESET: the reset value of every record, with the pins as they read (R1, R6, R14, R15, R17, R22, R23, R49, R70,
R73, R100, R101, R118, R139, R148, R153, R161, R164, R168, R181). The straps give a port its role: 00 UNUSED, 01
CONSOLE, 10 DESK, and 11 VENUE for the lowest-numbered port so strapped and UNUSED for every other (R168).
The queue of waiting commands is the model's own and is kept (log entry 25), and a reset value that the spec does not
state is the model's (log entry 26). -/
def Obligations.FullReset : Prop :=
  ∀ (pins : Pins) (s : State), ∃ t, exec (.fullReset pins) s = .next t ∧ t.pending = s.pending ∧
    (∀ w : WallId, t.scanner.walls[w] =
      { pair := none, raw := readingOf (pins.contacts[w]).1 (pins.contacts[w]).2, settled := .closed, ovr := .follow,
        settle := none, stuck := .stopped }) ∧
    t.scanner.lock = false ∧ t.scanner.settleTime = 750 ∧ (∀ i : SegId, t.scanner.ranks[i] = 0) ∧
    (∀ i : SegId, t.scanner.defaults[i] =
      { settings :=
          { mode := .auto, openLimit := 4, queueLimit := 24, speakLimit := 0, vip := 4, langBonus := 4, segBonus := 2,
            jump := 1, max := 15, guard := 16, duck := 3277, gain := 16384, ramp := 384, idle := 0 },
        base := 4 * i.val, size := 4, wanted := [], floorLang := 0 }) ∧
    t.regroup =
      { state := .steady, isOpen := false, affected := 0, consent := [], holds := [], deadline := none, silent := [],
        round := 0, consentSecs := 5, holdSecs := 15,
        pendingMap := allSegIds.map fun i => { id := i, segs := setOf i, lead := i } } ∧
    (∀ i : SegId, t.hall.room i = some
      { segs := setOf i, lead := i, gen := 0, settings := (t.scanner.defaults[i]).settings, base := 4 * i.val, size := 4,
        langs := [], placement := .asBase, dropped := [], floorLang := 0, lastSpeaker := none, elevated := none,
        frozen := false, dormant := false, idle := none, clip := 0, console := none,
        staging := { pairs := [], pending := false, applied := true } }) ∧
    (∀ u : UnitId, t.hall.unit u =
        { present := false, seatOvr := none, reported := none, seat := none, cls := .delegate, gain := 16384, lang := 0,
          latch := false, next := false, allOff := false, mic := none, warned := false } ∧
      t.hall.addr u =
        { miss := 0, floorOrder := none, notice := none, lastMic := none, stray := 0, confirm := none }) ∧
    t.hall.requests = [] ∧ t.hall.seq = 0 ∧ (∀ r : SlotRef, t.hall.entry r = none) ∧
    (∀ k : TrunkId, t.hall.rotation[k] = 0) ∧
    (∀ b : BoothId, t.hall.booths[b] =
      { defined := false, home := none, langA := 0, langB := 0, passive := [], side := .a, state := .unassigned,
        mic := false, gain := 16384, source := .floor, pin := none, noPivot := false, displaced := false }) ∧
    (∀ i : SegId, t.hall.radiators[i] = true) ∧
    (∀ p : PortId, t.hall.ports[p] =
      { role :=
          if pins.straps[p] = 0 then .unused else if pins.straps[p] = 1 then .console
          else if pins.straps[p] = 2 then .desk else if ∀ q : PortId, q < p → pins.straps[q] ≠ 3 then .venue
          else .unused,
        scope := 0, answer := { tag := 0, status := .done, payload := [] },
        reinitPending := false, flags := 0, mask := 0x7F, ack := .readClears, att := .level, pulse := false }) ∧
    (∀ k : TrunkId, t.trunks[k] =
      { mode := .auto, state := if pins.sense[k] then .up else .unpowered, sense := pins.sense[k], probes := 2,
        pointer := 0, silent := 0, failures := 0, cCheck := 0, cFraming := 0, cLate := 0, cOverrun := 0, round := none,
        handOver := none, pollOut := [] }) ∧
    t.mix.blockCount = 0 ∧ t.mix.block = none ∧ (∀ i : SegId, t.mix.rooms[i] = none ∧ t.mix.clipped[i] = false) ∧
    (∀ b : BoothId, t.mix.chStates[b] = { v := 0, d := 16384, ramp := none } ∧ t.mix.out.feeds[b] = 0 ∧
      t.mix.booths[b] =
        { state := .unassigned, room := none, lang := 0, mic := false, gain := 16384, source := .floor, onAir := false,
          matched := false }) ∧
    (∀ c : Fin 32, t.mix.out.dist[c] = 0 ∧ t.mix.chans[c] = .silence) ∧ ∀ i : SegId, t.mix.out.segs[i] = 0

/-- The reset state meets the invariants that steps keep: settings and gains in range, the request pool within its
entries, and sound scopes, windows, floor records, maps and booths. -/
def Obligations.RangesHoldAtReset : Prop :=
  State.reset.settingsOk = true ∧ State.reset.hall.gainsOk = true ∧ State.reset.hall.poolOk ∧
    State.reset.hall.scopesApart ∧ State.reset.hall.windowsApart ∧ State.reset.hall.floorOk ∧ State.reset.mapsOk ∧
    State.reset.hall.boothsOk

/-- Every step keeps the settings of walls, segments, rooms and the regroup controller within the ranges of R1, R6, R14,
R15, R17 and R23; and every step keeps the windows of the rooms within the 32 channels and apart from each other (R139,
R143, R145), from maps that are sound, in which every room has a segment (R22). -/
def Obligations.SettingsStayInRange : Prop :=
  (∀ s t : State, s.settingsOk = true → step s = .next t → t.settingsOk = true) ∧
  ∀ s t : State, s.mapsOk → s.hall.windowsApart → step s = .next t → t.hall.windowsApart

/-- Every step keeps the gains of units, booths and staging areas within 0 to 32767, and each staging area within 16
pairs (R70, R118, R164). -/
def Obligations.GainsStayInRange : Prop :=
  ∀ s t : State, s.hall.gainsOk = true → step s = .next t → t.hall.gainsOk = true

/-- Every step keeps the request pool within its 96 entries (R73); and every step keeps the floor records sound: a unit
has at most one request and at most one speaking entry, and not both, and a slot of a trunk holds at most one entry
(R73 to R75). -/
def Obligations.PoolStaysBounded : Prop :=
  (∀ s t : State, s.hall.poolOk → step s = .next t → t.hall.poolOk) ∧
  ∀ s t : State, s.hall.floorOk → step s = .next t → t.hall.floorOk

/-- Every step keeps the scopes of the consoles apart (R19, R173 to R175). -/
def Obligations.ScopesStayApart : Prop :=
  ∀ s t : State, s.hall.scopesApart → step s = .next t → t.hall.scopesApart

/-- Once the wall lock is set, nothing but a full reset clears it, and no command changes a wall's definition or its
override (R11). -/
def Obligations.WallLockStays : Prop :=
  ∀ (c : Instr) (s t : State), s.scanner.lock = true → (∀ pins, c ≠ .fullReset pins) → exec c s = .next t →
    t.scanner.lock = true ∧
    ∀ w : WallId, (t.scanner.walls[w]).pair = (s.scanner.walls[w]).pair ∧
      (t.scanner.walls[w]).ovr = (s.scanner.walls[w]).ovr

/-- Every step keeps the maps sound: the rooms of the active map and of the pending map divide the eight segments, each
in exactly one room with the lead among its segments; the affected set is where the two differ; and in STEADY they are
equal (R22, R26, R38, R46). The rooms of the active map change only at a mix block start, where commits and REINIT are
made, and at a full reset (R38, R179; a word-clock period starts a block where none is in progress, R153). -/
def Obligations.ActiveMapOnlyAtBlockStart : Prop :=
  (∀ s t : State, s.mapsOk → step s = .next t → t.mapsOk) ∧
  ∀ (c : Instr) (s t : State), (∀ pins, c ≠ .fullReset pins) → c ≠ .mixBlockStart → (∀ x, c ≠ .wordClockPeriod x) →
    exec c s = .next t →
    ∀ i : SegId, (t.hall.room i).map (fun r => (r.segs, r.lead)) = (s.hall.room i).map fun r => (r.segs, r.lead)

/-- Every step keeps the booths sound, from maps that are sound: every LIVE booth's output language is in its room's
list, and in every room at most one LIVE booth outputs a language (R119, R121, R124, R134). A booth's definition (its
home segment and its languages) is written by DEFINE-BOOTH alone (R118, R120, R136). -/
def Obligations.BoothDefinitionOwner : Prop :=
  (∀ s t : State, s.mapsOk → s.hall.boothsOk → step s = .next t → t.hall.boothsOk) ∧
  ∀ (c : Instr) (s t : State) (b : BoothId), (∀ pins, c ≠ .fullReset pins) → (∀ p tag l, c ≠ .defineBooth p tag l) →
    exec c s = .next t →
    (t.hall.booths[b]).defined = (s.hall.booths[b]).defined ∧ (t.hall.booths[b]).home = (s.hall.booths[b]).home ∧
    (t.hall.booths[b]).langA = (s.hall.booths[b]).langA ∧ (t.hall.booths[b]).langB = (s.hall.booths[b]).langB ∧
    (t.hall.booths[b]).passive = (s.hall.booths[b]).passive

/-- Relay after it is re-evaluated in a room (R127 to R130), for each LIVE booth of the room. Floor-matched booths lose
a pin to a booth; the floor set is then the booths pinned to FLOOR and the unpinned ones to which the floor language is
0 or understood, and these hear the floor. Of the others, one pinned to a booth of the floor set relays from it, and the
rest lose a pin to a booth: one that understands the floor language hears the floor, else it relays from the
lowest-numbered booth of the floor set whose output it understands, else it hears the floor with no-pivot set. So no
relay is of more than one hop. BOOTH is raised for the room when, and only when, the re-evaluation changes something. -/
def Obligations.RelayIsSound : Prop :=
  ∀ (h : Hall) (i : SegId) (r : Room) (b : BoothId), h.room i = some r → b ∈ h.liveBooths i →
    let after := (reevaluate h i).booths
    let floorLang := r.floorLang
    let x := h.booths[b]
    let member (c : BoothId) : Prop :=
      c ∈ h.liveBooths i ∧
        ((h.booths[c]).pin = some .floor ∨
          ((h.booths[c]).pin = none ∧ (floorLang = 0 ∨ (h.booths[c]).understood.contains floorLang = true)) ∨
          ((∃ d, (h.booths[c]).pin = some (.booth d)) ∧ floorLang ≠ 0 ∧ (h.booths[c]).output = floorLang))
    let hears (src : Source) (pin : Option Source) (noPivot : Bool) : Prop :=
      (after[b]).source = src ∧ (after[b]).pin = pin ∧ (after[b]).noPivot = noPivot
    (∀ c, (after[b]).source = .booth c →
      c ≠ b ∧ c ∈ h.liveBooths i ∧ (after[c]).source = .floor ∧ (after[c]).noPivot = false ∧
      ((after[b]).pin = none → (after[b]).understood.contains (after[c]).output = true)) ∧
    ((after[b]).noPivot = true →
      (after[b]).source = .floor ∧ (after[b]).pin = none ∧ (after[b]).understood.contains r.floorLang = false) ∧
    (member b → hears .floor (if x.pin = some .floor then some .floor else none) false) ∧
    (¬member b →
      (∀ d, x.pin = some (.booth d) → member d → hears (.booth d) (some (.booth d)) false) ∧
      ((∀ d, x.pin = some (.booth d) → ¬member d) →
        (x.understood.contains floorLang = true → hears .floor none false) ∧
        (x.understood.contains floorLang = false →
          (∀ c, member c → x.understood.contains (h.booths[c]).output = true →
            (∀ c', member c' → x.understood.contains (h.booths[c']).output = true → c ≤ c') →
            hears (.booth c) none false) ∧
          ((∀ c, member c → x.understood.contains (h.booths[c]).output = false) → hears .floor none true)))) ∧
    (∀ c : BoothId, (after[c]).core = (h.booths[c]).core ∧ (c ∉ h.liveBooths i → after[c] = h.booths[c])) ∧
    (after = h.booths → reevaluate h i = h) ∧
    (after ≠ h.booths → reevaluate h i = raise .booth r.segs { h with booths := after })

/-! ## Walls (Chapter 1) -/

/-- The raw reading of the two contacts, and a contact event (R2, R3). Contacts that read as before change nothing,
which is the model's choice (log entry 23). An undefined wall takes the reading and nothing more. A defined wall stores
it and restarts its settle timer; a reading of MOVING starts the stuck timer at 60 s, and the end of one stops it; the
settled state stays; a wall change reaches the regroup controller, and WALL is raised for the wall's segments. -/
def Obligations.ContactEvent : Prop :=
  readingOf true false = .closed ∧ readingOf false true = .opened ∧ readingOf false false = .moving ∧
  readingOf true true = .conflict ∧
  ∀ (w : WallId) (closed stowed : Bool) (s : State),
    let x := s.scanner.walls[w]
    let r := readingOf closed stowed
    (r = x.raw → exec (.contactEvent w closed stowed) s = .next s) ∧
    (x.pair = none → ∃ t, exec (.contactEvent w closed stowed) s = .next t ∧
      t = { s with scanner := { s.scanner with walls := put s.scanner.walls w { x with raw := r } } }) ∧
    ∀ a b, x.pair = some (a, b) → r ≠ x.raw → ∃ t, exec (.contactEvent w closed stowed) s = .next t ∧
      t = { s with
        scanner := { s.scanner with
          walls := put s.scanner.walls w
            { pair := x.pair, raw := r, settled := x.settled, ovr := x.ovr, settle := some s.scanner.settleTime,
              stuck := if r = .moving then .running 60000 else if x.raw = .moving then .stopped else x.stuck } },
        regroup := { s.regroup with
          state := .settling, deadline := if s.regroup.state = .consent then none else s.regroup.deadline },
        hall := raise .wall (setOf a ||| setOf b) s.hall }

/-- The expiry of a defined wall's settle timer (R4) and stuck timer (R5). The wall's record changes as the rules say; a
change of its effective state is a wall change (R8, R24), a change of its settled state raises WALL (R12), and a hall
that has come to rest sends a rest report (R8). An undefined wall has no effective state; that of a defined wall is its
override, where one is set, and otherwise its settled state (R7). The hall is at rest while no defined wall's settle or
stuck timer runs (R8). Without a running timer there is no expiry, and the event changes
nothing (log entry 3). -/
def Obligations.WallTimerExpiry : Prop :=
  (∀ w : Wall,
    (w.pair = none → effective w = none) ∧
    (w.pair ≠ none →
      (w.ovr = .forceOpen → effective w = some .opened) ∧ (w.ovr = .forceClosed → effective w = some .closed) ∧
      (w.ovr = .follow → effective w = some w.settled)) ∧
    ∀ a b, w.pair = some (a, b) → pairSegs w = setOf a ||| setOf b) ∧
  (∀ sc : Scanner, atRest sc = true ↔ ∀ w : WallId, (sc.walls[w]).pair ≠ none →
    (sc.walls[w]).settle = none ∧ ∀ ms, (sc.walls[w]).stuck ≠ .running ms) ∧
  ∀ (w : WallId) (s : State),
    let x := s.scanner.walls[w]
    let after (y : Wall) : State :=
      { s with
        scanner := { s.scanner with walls := put s.scanner.walls w y },
        regroup := if effective y = effective x then s.regroup else s.regroup.unrested,
        hall := if y.settled = x.settled then s.hall else raise .wall (pairSegs x) s.hall }
    let reported (s1 : State) : State := (if atRest s1.scanner then restReport s1 else s1).sweep
    ((x.pair = none ∨ x.settle = none) → exec (.settleTimerExpiry w) s = .next s) ∧
    ((x.pair ≠ none ∧ x.settle ≠ none) → ∃ t, exec (.settleTimerExpiry w) s = .next t ∧
      t = reported (after
        { x with
          settle := none,
          settled := match x.raw with
            | .closed => .closed
            | .opened => .opened
            | .conflict => .fault
            | .moving => x.settled })) ∧
    ((x.pair = none ∨ ∀ ms, x.stuck ≠ .running ms) → exec (.stuckTimerExpiry w) s = .next s) ∧
    ∀ ms, x.pair ≠ none → x.stuck = .running ms → ∃ t, exec (.stuckTimerExpiry w) s = .next t ∧
      t = reported (after { x with stuck := .expired, settled := .fault })

/-- DEFINE-WALL (R9): a new pair takes the raw reading at once, the settled state CLOSED and a settle timer, so the hall
is out of rest; undefining stops both timers and keeps the override and the raw reading; in both cases a wall change is
reported and WALL raised for the old and the new pair. The same pair again, and undefining an undefined wall, change
nothing. The effective state and the hall at rest are those of R7 and R8, as WallTimerExpiry states them. The lock and
an identifier out of range refuse. -/
def Obligations.DefineWall : Prop :=
  ∀ (s : State) (p : PortId) (tag o wb ab bb : Byte), s.admits p [.venue] →
    let done (t : State) : State := setAnswer t p tag .done []
    (s.scanner.lock = true →
      (o.getLsbD 0 = false → exec (.defineWall p tag [o, wb, ab, bb]) s = .next (setAnswer s p tag .locked [])) ∧
      (o.getLsbD 0 = true → exec (.defineWall p tag [o, wb]) s = .next (setAnswer s p tag .locked []))) ∧
    (s.scanner.lock = false → o.getLsbD 0 = false →
      ((idOf 12 wb = none ∨ idOf 8 ab = none ∨ idOf 8 bb = none ∨ ab = bb) →
        exec (.defineWall p tag [o, wb, ab, bb]) s = .next (setAnswer s p tag .range [])) ∧
      ∀ w a b, idOf 12 wb = some w → idOf 8 ab = some a → idOf 8 bb = some b → a ≠ b →
        let x := s.scanner.walls[w]
        ((x.pair = some (a, b) ∨ x.pair = some (b, a)) →
          exec (.defineWall p tag [o, wb, ab, bb]) s = .next (done s)) ∧
        (x.pair ≠ some (a, b) → x.pair ≠ some (b, a) → exec (.defineWall p tag [o, wb, ab, bb]) s = .next (done
          { s with
            scanner := { s.scanner with
              walls := put s.scanner.walls w
                { pair := some (a, b), raw := x.raw, settled := .closed, ovr := x.ovr,
                  settle := some s.scanner.settleTime,
                  stuck := if x.raw = .moving then .running 60000 else .stopped } },
            regroup := s.regroup.unrested,
            hall := idleSweep (raise .wall (pairSegs x ||| (setOf a ||| setOf b)) s.hall) }))) ∧
    (s.scanner.lock = false → o.getLsbD 0 = true →
      (idOf 12 wb = none → exec (.defineWall p tag [o, wb]) s = .next (setAnswer s p tag .range [])) ∧
      ∀ w, idOf 12 wb = some w →
        let x := s.scanner.walls[w]
        (x.pair = none → exec (.defineWall p tag [o, wb]) s = .next (done s)) ∧
        (x.pair ≠ none → ∃ s1, exec (.defineWall p tag [o, wb]) s =
            .next (done (if atRest s1.scanner then restReport s1 else s1).sweep) ∧
          s1 = { s with
            scanner := { s.scanner with
              walls := put s.scanner.walls w
                { pair := none, raw := x.raw, settled := .closed, ovr := x.ovr, settle := none, stuck := .stopped } },
            regroup := s.regroup.unrested,
            hall := raise .wall (pairSegs x) s.hall }))

/-- WALL-OVERRIDE (R10) and LOCK-WALLS (R11). An override that differs is stored on a defined or an undefined wall and
raises WALL; a change of effective state (R7) is a wall change, with a rest report where the hall is at rest (R8), as
WallTimerExpiry states them. The lock is set with WALL for every segment, and setting it again changes nothing. -/
def Obligations.OverrideAndLock : Prop :=
  ∀ (s : State) (p : PortId) (tag wb ob : Byte), s.admits p [.venue] →
    (s.scanner.lock = true →
      exec (.wallOverride p tag [wb, ob]) s = .next (setAnswer s p tag .locked []) ∧
      exec (.lockWalls p tag []) s = .next (setAnswer s p tag .done [])) ∧
    (s.scanner.lock = false →
      exec (.lockWalls p tag []) s = .next (setAnswer
        { s with scanner := { s.scanner with lock := true }, hall := raise .wall 0xFF s.hall } p tag .done []) ∧
      ((idOf 12 wb = none ∨ 2 < ob.toNat) →
        exec (.wallOverride p tag [wb, ob]) s = .next (setAnswer s p tag .range [])) ∧
      ∀ w o, idOf 12 wb = some w →
        ((ob = 0 ∧ o = Override.follow) ∨ (ob = 1 ∧ o = .forceOpen) ∨ (ob = 2 ∧ o = .forceClosed)) →
        let x := s.scanner.walls[w]
        let y : Wall := { x with ovr := o }
        (x.ovr = o → exec (.wallOverride p tag [wb, ob]) s = .next (setAnswer s p tag .done [])) ∧
        (x.ovr ≠ o → ∃ s1, s1 = { s with
            scanner := { s.scanner with walls := put s.scanner.walls w y },
            regroup := if effective y = effective x then s.regroup else s.regroup.unrested,
            hall := raise .wall (pairSegs x) s.hall } ∧
          exec (.wallOverride p tag [wb, ob]) s = .next (setAnswer
            (if effective y ≠ effective x ∧ atRest s1.scanner = true then restReport s1 else s1).sweep p tag
            .done [])))

/-- SET-SEGMENT-DEFAULTS (R16): what each field stores, when it is clamped or refused, and that only that segment's
record changes, with a WALL event when it does. First one field at a time, then any number of them: a segment, a mode, a
window base, a language code or a floor language out of range refuses RANGE, a wanted list with a code twice DUPLICATE,
one of more than 15 codes FULL, in this order; otherwise every named field is stored, then the jump rule. A field named
twice keeps its last value (log entry 7). -/
def Obligations.SegmentDefaults : Prop :=
  (∀ (s : State) (p : PortId) (tag sb f hi lo : Byte) (sg : SegId), s.admits p [.venue] → idOf 8 sb = some sg →
    (s.scanner.defaults[sg]).ok = true →
    let d := s.scanner.defaults[sg]
    let n := wordOf hi lo
    let cmd := exec (.setSegmentDefaults p tag [sb, 1, f, hi, lo]) s
    let stores (d' : Defaults) (clamped : Bool) : Prop :=
      cmd = .next (setAnswer
        { s with
          scanner := { s.scanner with defaults := put s.scanner.defaults sg d' },
          hall := if d' = d then s.hall else raise .wall (setOf sg) s.hall }
        p tag (if clamped then .doneClamped else .done) [])
    let refused : Prop := cmd = .next (setAnswer s p tag .range [])
    ((f = 0 ∨ 18 < f.toNat) → refused) ∧
    (f = 1 → (2 < n → refused) ∧
      (n ≤ 2 → stores { d with settings := { d.settings with
        mode := if n = 0 then .auto else if n = 1 then .manual else .override } } false)) ∧
    (f = 2 → stores { d with settings := { d.settings with openLimit := max 1 (min n 8) } } (n < 1 || 8 < n)) ∧
    (f = 3 → stores { d with settings := { d.settings with queueLimit := max 1 (min n 48) } } (n < 1 || 48 < n)) ∧
    (f = 4 → stores { d with settings := { d.settings with
      speakLimit := if n = 0 then 0 else max 10 (min n 3600) } } ((0 < n && n < 10) || 3600 < n)) ∧
    (f = 5 → stores { d with settings := { d.settings with vip := min n 15 } } (15 < n)) ∧
    (f = 6 → stores { d with settings := { d.settings with langBonus := min n 7 } } (7 < n)) ∧
    (f = 7 → stores { d with settings := { d.settings with segBonus := min n 7 } } (7 < n)) ∧
    (f = 8 → stores { d with settings := { d.settings with
        jump := if 0 < d.settings.max ∧ d.settings.max ≤ min n 15 then d.settings.max - 1 else min n 15 } }
      (15 < n || (0 < d.settings.max && d.settings.max ≤ n))) ∧
    (f = 9 → stores { d with settings := { d.settings with
        max := min n 15,
        jump := if 0 < min n 15 ∧ min n 15 ≤ d.settings.jump then min n 15 - 1 else d.settings.jump } }
      (15 < n || (0 < n && n ≤ d.settings.jump))) ∧
    (f = 10 → stores { d with settings := { d.settings with guard := max 1 (min n 32) } } (n < 1 || 32 < n)) ∧
    (f = 11 → stores { d with settings := { d.settings with duck := min n 16384 } } (16384 < n)) ∧
    (f = 12 → stores { d with settings := { d.settings with gain := min n 32767 } } (32767 < n)) ∧
    (f = 13 → stores { d with settings := { d.settings with
        ramp := if n ≤ 96 then 96 else if n ≤ 192 then 192 else if n ≤ 384 then 384 else 768 } }
      (n ≠ 96 && n ≠ 192 && n ≠ 384 && n ≠ 768)) ∧
    (f = 14 → stores { d with settings := { d.settings with idle := min n 240 } } (240 < n)) ∧
    (f = 15 → (31 < n → refused) ∧ (n ≤ 31 → stores { d with base := n } false)) ∧
    (f = 16 → stores { d with size := max 1 (min n 16) } (n < 1 || 16 < n)) ∧
    (f = 17 → ((hi ≠ 1 ∨ lo = 0 ∨ 63 < lo.toNat) → refused) ∧
      (hi = 1 → lo ≠ 0 → lo.toNat ≤ 63 → stores { d with wanted := [lo.toNat] } false)) ∧
    (f = 18 → (63 < n → refused) ∧ (n ≤ 63 → stores { d with floorLang := n } false))) ∧
  ∀ (s : State) (p : PortId) (tag sb : Byte) (l : List Byte) (fs : List (Nat × FieldValue)), s.admits p [.venue] →
    parseDefaults l = some (sb, fs) →
    let cmd := exec (.setSegmentDefaults p tag l) s
    let refused (st : Status) : Prop := cmd = .next (setAnswer s p tag st [])
    let wrong : Prop := (∃ n, ((1, .word n) ∈ fs ∧ 2 < n) ∨ ((15, .word n) ∈ fs ∧ 31 < n) ∨ ((18, .word n) ∈ fs ∧ 63 < n)) ∨
      ∃ (cs : List Nat) (c : Nat), (17, .list cs) ∈ fs ∧ c ∈ cs ∧ (c = 0 ∨ 63 < c)
    let twice : Prop := ∃ cs : List Nat, (17, .list cs) ∈ fs ∧ ¬cs.Nodup
    let long : Prop := ∃ cs : List Nat, (17, .list cs) ∈ fs ∧ 15 < cs.length
    (idOf 8 sb = none → refused .range) ∧
    ∀ sg, idOf 8 sb = some sg →
      (wrong → refused .range) ∧ (¬wrong → twice → refused .duplicate) ∧ (¬wrong → ¬twice → long → refused .full) ∧
      (¬wrong → ¬twice → ¬long →
        let d := s.scanner.defaults[sg]
        cmd = .next (setAnswer
          { s with
            scanner := { s.scanner with defaults := put s.scanner.defaults sg (d.named fs) },
            hall := if d.named fs = d then s.hall else raise .wall (setOf sg) s.hall }
          p tag (if d.settings.clampedBy fs || outOfRange fs 16 16 then .doneClamped else .done) []))

/-- The venue's settings of one value: SET-LEAD-RANK (R14), SET-REGROUP-TIMES (R6, R29) and SET-ROLLCALL (R54). An
identifier out of range refuses; a value out of range is brought to the nearest allowed one and answered
DONE-CLAMPED; nothing but the setting changes, and only a lead rank raises an event.
A lead rank and a probe count take one byte each (log entry 7). -/
def Obligations.VenueSettings : Prop :=
  ∀ (s : State) (p : PortId) (tag : Byte), s.admits p [.venue] →
    (∀ sb nb : Byte, (7 < sb.toNat → exec (.setLeadRank p tag [sb, nb]) s = .next (setAnswer s p tag .range [])) ∧
      ∀ sg, idOf 8 sb = some sg → exec (.setLeadRank p tag [sb, nb]) s = .next (setAnswer
        { s with
          scanner := { s.scanner with ranks := put s.scanner.ranks sg (min nb.toNat 15) },
          hall := if min nb.toNat 15 = s.scanner.ranks[sg] then s.hall else raise .wall (setOf sg) s.hall }
        p tag (if nb.toNat ≤ 15 then .done else .doneClamped) [])) ∧
    (∀ a b c d e f : Byte,
      let x := wordOf a b
      let y := wordOf c d
      let z := wordOf e f
      exec (.setRegroupTimes p tag [a, b, c, d, e, f]) s = .next (setAnswer
        { s with
          scanner := { s.scanner with settleTime := max 100 (min x 5000) },
          regroup := { s.regroup with consentSecs := max 1 (min y 30), holdSecs := max 1 (min z 60) } }
        p tag (if 100 ≤ x ∧ x ≤ 5000 ∧ 1 ≤ y ∧ y ≤ 30 ∧ 1 ≤ z ∧ z ≤ 60 then .done else .doneClamped) [])) ∧
    ∀ tb nb : Byte, (3 < tb.toNat → exec (.setRollcall p tag [tb, nb]) s = .next (setAnswer s p tag .range [])) ∧
      ∀ k m, idOf 4 tb = some k → m ∈ [0, 1, 2, 4, 8] → m ≤ nb.toNat → (∀ m' ∈ [0, 1, 2, 4, 8], m' ≤ nb.toNat → m' ≤ m) →
        exec (.setRollcall p tag [tb, nb]) s = .next (setAnswer
          { s with trunks := put s.trunks k { s.trunks[k] with probes := m } }
          p tag (if m = nb.toNat then .done else .doneClamped) [])

/-! ## Regrouping (Chapter 2) -/

/-- A rest report (R25). The pending map is computed: it divides the segments into rooms; a room holds the segments that
passable walls join, one by one, to its lowest segment, which is its id, its lead is the segment of the highest rank,
the lowest of those that share it, and the rooms stand in ascending id (R7, R14, R21). Maps are equal when they divide
the segments into the same sets (R22). With equal maps and no regroup open the controller enters STEADY; with one open
the regroup is abandoned, REGROUP is raised and the frozen rooms are unfrozen (R27, R117). With differing maps a consent
round is entered (R26): the affected set is formed, the active rooms with an affected segment are frozen and those
frozen before are unfrozen, the consent set is the consoles whose scope holds an affected segment, the holds used and
the silent list are cleared, the round is one up, the deadline started and REGROUP raised; and where no console is
concerned, the deadline stops and DRAIN begins at once (R35). What unfreezing does is GrantNext's, and what the
beginning of DRAIN does is DrainBegins's, where a displaced GRANT is recalled as a delivered one by the model's choice
(log entry 22). -/
def Obligations.RestReport : Prop :=
  (∀ (h : Hall) (x : SegSet) (p : PortId), p ∈ consolesOf h x ↔
    ((h.ports[p]).role = .console ∧ ∃ sg, inSet x sg = true ∧ inSet (h.ports[p]).scope sg = true)) ∧
  (∀ m m' : List MapRoom,
    let sameSets : Prop := ∀ y, (∃ a ∈ m, a.segs = y) ↔ ∃ b ∈ m', b.segs = y
    (sameMap m m' = true → sameSets) ∧ (dividesSegs m → dividesSegs m' → sameSets → sameMap m m' = true)) ∧
  (∀ (m : List MapRoom) (y : MapRoom) (sg : SegId), dividesSegs m → y ∈ m → inSet y.segs sg = true →
    companions m sg = y.segs) ∧
  ∀ s : State,
    let t := restReport s
    let m := computeMap s.scanner
    let x := affectedSet s.hall.activeMap m
    let joined (a b : SegId) : Prop := ∃ w : WallId,
      ((s.scanner.walls[w]).pair = some (a, b) ∨ (s.scanner.walls[w]).pair = some (b, a)) ∧
      ((s.scanner.walls[w]).ovr = .forceOpen ∨
        ((s.scanner.walls[w]).ovr = .follow ∧ (s.scanner.walls[w]).settled = .opened))
    let frozenBy (f : Room → Bool) (g : Hall) : Prop := g = { s.hall with rooms := g.rooms } ∧
      ∀ i, g.room i = (s.hall.room i).map fun r => { r with frozen := f r }
    let frozenBefore (f : Room → Prop) (is : List SegId) : Prop := is.Pairwise (· < ·) ∧
      ∀ i, i ∈ is ↔ ∃ r, s.hall.room i = some r ∧ r.frozen = true ∧ f r
    t.regroup.pendingMap = m ∧ t.scanner = s.scanner ∧ t.trunks = s.trunks ∧ t.mix = s.mix ∧ t.pending = s.pending ∧
    t.hall.core = s.hall.core ∧
    (∀ sg : SegId, ∃ y ∈ m, inSet y.segs sg = true) ∧
    (∀ y ∈ m, inSet y.segs y.id = true ∧
      (∀ sg, inSet y.segs sg = true ↔ Relation.ReflTransGen joined y.id sg) ∧
      (∀ sg, inSet y.segs sg = true → y.id ≤ sg) ∧ inSet y.segs y.lead = true ∧
      ∀ sg, inSet y.segs sg = true → s.scanner.ranks[sg] < s.scanner.ranks[y.lead] ∨
        (s.scanner.ranks[sg] = s.scanner.ranks[y.lead] ∧ y.lead ≤ sg)) ∧
    m.Pairwise (fun y z => y.id < z.id ∧ (y.segs &&& z.segs) = 0) ∧
    (∀ sg : SegId, inSet x sg = true ↔ companions s.hall.activeMap sg ≠ companions m sg) ∧
    (sameMap m s.hall.activeMap = true → s.regroup.isOpen = false →
      t = { s with regroup := { s.regroup with pendingMap := m, state := .steady } }) ∧
    (sameMap m s.hall.activeMap = true → s.regroup.isOpen = true →
      t.regroup = { s.regroup with
        pendingMap := m, state := .steady, isOpen := false, affected := 0, consent := [], holds := [],
        deadline := none } ∧
      t.hall.frozenRooms = [] ∧
      ∃ g is, frozenBy (fun _ => false) g ∧ frozenBefore (fun _ => True) is ∧
        t.hall = unfreeze (raise .regroup 0xFF g) is) ∧
    (sameMap m s.hall.activeMap = false →
      (∀ i r, t.hall.room i = some r → (r.frozen = true ↔ (r.segs &&& x) ≠ 0)) ∧
      ∃ g is s1, frozenBy (fun r => (r.segs &&& x) ≠ 0) g ∧ frozenBefore (fun r => (r.segs &&& x) = 0) is ∧
        s1 = { s with
          regroup := { s.regroup with
            pendingMap := m, state := .consent, isOpen := true, affected := x, consent := consolesOf s.hall x,
            holds := [], silent := [], round := s.regroup.round + 1,
            deadline := some (s.regroup.consentSecs * 1000) },
          hall := raise .regroup 0xFF (unfreeze g is) } ∧
        (consolesOf s.hall x ≠ [] → t = s1) ∧ (consolesOf s.hall x = [] → s1.drainBegun t []))

/-- In CONSENT the deadline's expiry puts the consoles still asked on the silent list (R33) and FORCE-REGROUP does not
(R34); both begin DRAIN, which recalls the GRANTED entries of the frozen rooms (R35, R78), trims the pending rooms to
their inherited limits (R36), raises REGROUP, and ends at once where no frozen room holds a CLOSING entry (R37). Outside
CONSENT FORCE-REGROUP is refused STATE, and there is no expiry where no deadline runs (log entry 3). A speaking list
holds the entries filed in its segments, oldest grant stamp first (R74), and trimming and shedding take them in that
order. A displaced GRANT is recalled as a delivered one (log entry 22). -/
def Obligations.DrainBegins : Prop :=
  (∀ h : Hall, closingInFrozen h = true ↔ ∃ i r q e, h.room i = some r ∧ r.frozen = true ∧ h.entry q = some e ∧
    inSet r.segs e.seg = true ∧ e.state = .closing) ∧
  (∀ (h : Hall) (q : SlotRef), q ∈ grantedInFrozen h ↔ ∃ i r e, h.room i = some r ∧ r.frozen = true ∧
    h.entry q = some e ∧ inSet r.segs e.seg = true ∧ e.state = .granted) ∧
  (∀ (h : Hall) (i : SegId) (r : Room), h.room i = some r → h.speaking i = h.entriesIn r.segs) ∧
  (∀ (h : Hall) (x : SegSet),
    (∀ q e, (q, e) ∈ h.entriesIn x ↔ (h.entry q = some e ∧ inSet x e.seg = true)) ∧
    ((h.entriesIn x).map (·.1)).Nodup ∧
    (∀ base : Stamp, (∀ q e, h.entry q = some e → (e.grantStamp - base).toNat < 2 ^ 31) →
      (h.entriesIn x).Pairwise fun a b => (a.2.grantStamp - base).toNat ≤ (b.2.grantStamp - base).toNat) ∧
    openIn h x = ((h.entriesIn x).filter fun y => !y.2.chair && y.2.onAir).map (·.1)) ∧
  ∀ s : State,
    (s.regroup.state = .consent → s.regroup.deadline ≠ none →
      ∃ t, exec .deadlineExpiry s = .next t ∧ s.drainBegun t s.regroup.consent) ∧
    ((s.regroup.state ≠ .consent ∨ s.regroup.deadline = none) → exec .deadlineExpiry s = .next s) ∧
    ∀ (p : PortId) (tag : Byte), s.admits p [.venue] →
      (s.regroup.state = .consent → ∃ t, exec (.forceRegroup p tag []) s = .next (setAnswer t p tag .done []) ∧
        s.drainBegun t s.regroup.silent) ∧
      (s.regroup.state ≠ .consent → exec (.forceRegroup p tag []) s = .next (setAnswer s p tag .state []))

/-- REGROUP-ANSWER: the checks of R30 in their order; AGREE takes the console out of the consent set and, from the last
one, begins DRAIN (R31), as DrainBegins says, where a displaced GRANT is recalled as a delivered one by the model's
choice (log entry 22); HOLD records the console and moves the deadline out (R32). How an absent round is laid out in the
payload is the model's choice (log entry 7). -/
def Obligations.RegroupAnswer : Prop :=
  ∀ (s : State) (p : PortId) (tag a : Byte) (e : Option (BitVec 16)) (l : List Byte), s.admits p [.console] →
    parseRegroupAnswer l = some (a, e) →
    let refused (st : Status) : Prop := exec (.regroupAnswer p tag l) s = .next (setAnswer s p tag st [])
    let current : Prop := e = none ∨ e = some s.regroup.round
    (1 < a.toNat → refused .range) ∧
    (a.toNat ≤ 1 → ¬current → refused .stale) ∧
    (a.toNat ≤ 1 → current → (s.regroup.state ≠ .consent ∨ p ∉ s.regroup.consent) → refused .state) ∧
    (a.toNat ≤ 1 → current → s.regroup.state = .consent → p ∈ s.regroup.consent →
      (a = 1 → p ∈ s.regroup.holds → refused .state) ∧
      (a = 1 → p ∉ s.regroup.holds → ∃ hs, (∀ q, q ∈ hs ↔ q = p ∨ q ∈ s.regroup.holds) ∧
        exec (.regroupAnswer p tag l) s = .next (setAnswer
          { s with regroup := { s.regroup with
            holds := hs,
            deadline := some (max (s.regroup.deadline.getD 0) (s.regroup.holdSecs * 1000)) } } p tag .done [])) ∧
      (a = 0 → (∃ q ∈ s.regroup.consent, q ≠ p) → exec (.regroupAnswer p tag l) s = .next (setAnswer
        { s with regroup := { s.regroup with consent := s.regroup.consent.filter fun q => q ≠ p } } p tag .done [])) ∧
      (a = 0 → (∀ q ∈ s.regroup.consent, q = p) → ∃ t,
        exec (.regroupAnswer p tag l) s = .next (setAnswer t p tag .done []) ∧ s.drainBegun t s.regroup.silent))

/-! ## Scopes (Chapter 9) -/

/-- CLAIM-SEGMENTS (R173), RELEASE-SEGMENTS (R174) and ASSIGN-SCOPE (R175): the scopes after the command, and the
controlling console of every room whose lead segment changed hands, with a ROOM event for each such room and for no
other (R19). The controlling console is the port of role CONSOLE whose scope holds the lead segment, and is absent when
none does; scopes do not overlap, and where a state that no run reaches lets them, the lowest port is read. Nothing else
changes. -/
def Obligations.ScopeCommands : Prop :=
  (∀ (h : Hall) (sg : SegId),
    let holds (p : PortId) : Prop := (h.ports[p]).role = .console ∧ inSet (h.ports[p]).scope sg = true
    (consoleOf h sg = none ↔ ∀ p, ¬holds p) ∧
    ∀ p, consoleOf h sg = some p ↔ (holds p ∧ ∀ q, q < p → ¬holds q)) ∧
  ∀ (s : State) (p : PortId) (tag x : Byte),
    let scope (h : Hall) (q : PortId) : SegSet := (h.ports[q]).scope
    let beside (t : State) : Prop := t.scanner = s.scanner ∧ t.regroup = s.regroup ∧ t.trunks = s.trunks ∧
      t.mix = s.mix ∧ t.pending = s.pending ∧ t.hall.units = s.hall.units ∧ t.hall.requests = s.hall.requests ∧
      t.hall.pools = s.hall.pools ∧ t.hall.booths = s.hall.booths ∧ t.hall.addrs = s.hall.addrs ∧
      t.hall.seq = s.hall.seq ∧ t.hall.rotation = s.hall.rotation ∧ t.hall.radiators = s.hall.radiators ∧
      ∀ q : PortId, t.hall.ports[q] =
        { s.hall.ports[q] with
          scope := scope t.hall q, flags := (t.hall.ports[q]).flags, pulse := (t.hall.ports[q]).pulse }
    let consoles (t : State) (moved : SegId → Prop) : Prop :=
      (∀ i r, s.hall.room i = some r →
        (moved r.lead → t.hall.room i = some { r with console := consoleOf t.hall r.lead }) ∧
        (¬moved r.lead → t.hall.room i = some r)) ∧
      (∀ i, s.hall.room i = none → t.hall.room i = none) ∧
      s.hall.signalled t.hall .room fun y => ∃ i r, s.hall.room i = some r ∧ moved r.lead ∧ y = r.segs
    let held : Prop := ∃ q, q ≠ p ∧ (s.hall.ports[q]).role = .console ∧ (x &&& scope s.hall q) ≠ 0
    (s.admits p [.console] →
      (held →
        exec (.claimSegments p tag [x]) s = .next (setAnswer s p tag .scope [])) ∧
      (¬held → ∃ t,
        exec (.claimSegments p tag [x]) s = .next (setAnswer t p tag .done []) ∧ beside t ∧
        scope t.hall p = scope s.hall p ||| x ∧ (∀ q, q ≠ p → scope t.hall q = scope s.hall q) ∧
        consoles t fun sg => inSet x sg = true ∧ inSet (scope s.hall p) sg = false) ∧
      ∃ t, exec (.releaseSegments p tag [x]) s = .next (setAnswer t p tag .done []) ∧ beside t ∧
        scope t.hall p = scope s.hall p &&& ~~~x ∧ (∀ q, q ≠ p → scope t.hall q = scope s.hall q) ∧
        consoles t fun sg => inSet x sg = true ∧ inSet (scope s.hall p) sg = true) ∧
    (s.admits p [.venue] → ∀ qb : Byte,
      (idOf 4 qb = none → exec (.assignScope p tag [qb, x]) s = .next (setAnswer s p tag .range [])) ∧
      ∀ q, idOf 4 qb = some q →
        ((s.hall.ports[q]).role ≠ .console →
          exec (.assignScope p tag [qb, x]) s = .next (setAnswer s p tag .state [])) ∧
        ((s.hall.ports[q]).role = .console → ∃ t,
          exec (.assignScope p tag [qb, x]) s = .next (setAnswer t p tag .done []) ∧ beside t ∧
          scope t.hall q = x ∧
          (∀ i, i ≠ q → (s.hall.ports[i]).role = .console → scope t.hall i = scope s.hall i &&& ~~~x) ∧
          (∀ i, (s.hall.ports[i]).role ≠ .console → scope t.hall i = scope s.hall i) ∧
          consoles t fun sg => consoleOf s.hall sg ≠ consoleOf t.hall sg))

/-! ## Delegate trunks (Chapter 3) -/

/-- The sense line (R50) and the overcurrent indication (R51). A sense change is recorded in every state; in AUTO it
applies power to an UNPOWERED trunk and removes it from a powered one. An overcurrent trips a powered trunk and has no
effect on another. Where power goes, the round ends and every PRESENT unit of the trunk becomes ABSENT; where it goes
and where it comes, one TRUNK event is raised for all segments (R68). What the other units have is kept. That a sense
event equal to the sense recorded changes nothing is the model's reading (log entry 23). -/
def Obligations.PowerEvents : Prop :=
  ∀ (k : TrunkId) (s : State),
    let x := s.trunks[k]
    let lost (t : State) (x' : Trunk) : Prop := (s.unitsLost t (put s.trunks k x') fun u => u.trunk = k) ∧
      s.hall.signalled t.hall .trunk fun y => y = 0xFF
    (powered x.state = false → exec (.overcurrent k) s = .next s) ∧
    (powered x.state = true → ∃ t, exec (.overcurrent k) s = .next t ∧
      lost t { x with state := .tripped, round := none }) ∧
    ∀ chain : Bool,
      (chain = x.sense → exec (.senseLineChange k chain) s = .next s) ∧
      (chain ≠ x.sense → x.mode = .auto → chain = true → x.state = .unpowered → ∃ t,
        exec (.senseLineChange k chain) s = .next t ∧
        t = { s with
          trunks := put s.trunks k
            { x with sense := true, state := .up, silent := 0, failures := 0, round := none },
          hall := raise .trunk 0xFF s.hall }) ∧
      (chain ≠ x.sense → x.mode = .auto → chain = false → powered x.state = true → ∃ t,
        exec (.senseLineChange k chain) s = .next t ∧
        lost t { x with sense := false, state := .unpowered, round := none }) ∧
      (chain ≠ x.sense →
        (x.mode ≠ .auto ∨ (chain = true ∧ x.state ≠ .unpowered) ∨ (chain = false ∧ powered x.state = false)) →
        exec (.senseLineChange k chain) s = .next { s with trunks := put s.trunks k { x with sense := chain } })

/-- TRUNK-POWER (R52): the mode is stored and the trunk acts by the table on its state; where power goes, every PRESENT
unit of the trunk becomes ABSENT. A mode that differs from the one held, and every change of the trunk's state, raises
TRUNK for all segments (R68). An identifier or a mode out of range refuses. -/
def Obligations.TrunkPowerTable : Prop :=
  ∀ (s : State) (p : PortId) (tag kb mb : Byte), s.admits p [.venue] →
    ((idOf 4 kb = none ∨ 2 < mb.toNat) →
      exec (.trunkPower p tag [kb, mb]) s = .next (setAnswer s p tag .range [])) ∧
    ∀ k m, idOf 4 kb = some k →
      ((mb = 0 ∧ m = PowerMode.off) ∨ (mb = 1 ∧ m = .on) ∨ (mb = 2 ∧ m = .auto)) →
      let x := s.trunks[k]
      let wanted : Prop := m = .on ∨ (m = .auto ∧ x.sense = true)
      let stored : Hall := if m = x.mode then s.hall else raise .trunk 0xFF s.hall
      let answers (t : State) : Prop := exec (.trunkPower p tag [kb, mb]) s = .next (setAnswer t p tag .done [])
      (((x.state = .unpowered ∧ ¬wanted) ∨ (x.state = .tripped ∧ m = .off) ∨ (powered x.state = true ∧ wanted)) →
        answers { s with trunks := put s.trunks k { x with mode := m }, hall := stored }) ∧
      (powered x.state = false → wanted → answers
        { s with
          trunks := put s.trunks k { x with mode := m, state := .up, silent := 0, failures := 0, round := none },
          hall := raise .trunk 0xFF stored }) ∧
      (x.state = .tripped → m = .auto → x.sense = false → answers
        { s with
          trunks := put s.trunks k { x with mode := m, state := .unpowered },
          hall := raise .trunk 0xFF stored }) ∧
      (powered x.state = true → ¬wanted → ∃ t, answers t ∧
        (s.unitsLost t (put s.trunks k { x with mode := m, state := .unpowered, round := none })
          fun u => u.trunk = k) ∧
        s.hall.signalled t.hall .trunk fun y => y = 0xFF)

/-- POLL_ROUND_START (R53): a powered trunk's round polls its PRESENT units in ascending address and then probes ABSENT
addresses, in ascending address after the roll-call pointer and from 1 again, at most the probe count of them; the
pointer takes the last address probed. A round with no poll ends as it starts, a silent round: confirmation counts are
lowered, and UP or DEGRADED becomes DOWN at the third silent round and UP before it, with a TRUNK event where the state
changes (R62, R64, R68). An unpowered trunk starts no round. That a round begun while another is in progress replaces it
without its round end is the model's choice (log entry 4). -/
def Obligations.PollRoundStart : Prop :=
  ∀ (k : TrunkId) (s : State),
    let x := s.trunks[k]
    let present := (List.finRange 60).filter fun a => (s.hall.unit { trunk := k, addr := a }).present
    let absent := (List.finRange 60).filter fun a => !(s.hall.unit { trunk := k, addr := a }).present
    let order := (absent.filter fun a => x.pointer < a.val + 1) ++ absent.filter fun a => a.val + 1 ≤ x.pointer
    let probes := order.take x.probes
    let pointer := match probes.getLast? with | some a => a.val + 1 | none => x.pointer
    (powered x.state = false → exec (.pollRoundStart k) s = .next s) ∧
    (powered x.state = true → (present ≠ [] ∨ probes ≠ []) → ∃ t, exec (.pollRoundStart k) s = .next t ∧
      t = { s with
        trunks := put s.trunks k
          { x with
            failures := 0, pointer := pointer,
            round := some
              { todo := (present.map fun a => (a, false)) ++ probes.map fun a => (a, true),
                sent := none, good := false, fresh := [] } } }) ∧
    (powered x.state = true → present = [] → probes = [] →
      let silent := min 3 (x.silent + 1)
      let state : TrunkState := if x.state = .down ∨ silent = 3 then .down else .up
      let counting (u : UnitId) : Bool := u.trunk = k && (s.hall.addr u).confirm.isSome
      let spent (u : UnitId) : Bool := counting u && (s.hall.addr u).confirm.getD 0 ≤ 1
      ∃ t, exec (.pollRoundStart k) s = .next t ∧
        s.unitsLost t
          (put s.trunks k { x with failures := 0, silent := silent, state := state, round := none }) spent ∧
        (∀ u, spent u = false → ∃ o, (o = (s.hall.addr u).floorOrder ∨ ∃ j, o = some (.grant j)) ∧ t.hall.addr u =
          { s.hall.addr u with
            confirm := if counting u then (s.hall.addr u).confirm.map (· - 1) else (s.hall.addr u).confirm,
            floorOrder := o }) ∧
        s.hall.signalled t.hall .trunk fun y => (state ≠ x.state ∧ y = 0xFF) ∨
          ∃ u sg, spent u = true ∧ (s.hall.unit u).seat = some sg ∧ y = setOf sg)

/-- POLL_SEND (R53, R56, R69): the next poll of the round goes out. A poll to a unit that has become ABSENT is skipped.
A probe carries no order; a poll carries the pending floor order, unless it is a GRANT held back by another unit's mic
report on its slot, else the pending notice order, else none. The five bytes are those of Table 3-1.
That POLL_SEND does nothing outside a round and while a reply is awaited is the model's choice (log entry 4). -/
def Obligations.PollSend : Prop :=
  ∀ (k : TrunkId) (s : State),
    let x := s.trunks[k]
    (x.round = none → exec (.pollSend k) s = .next s) ∧
    ∀ rd, x.round = some rd →
      (rd.sent ≠ none → exec (.pollSend k) s = .next s) ∧
      (rd.sent = none → rd.todo = [] → exec (.pollSend k) s = .next s) ∧
      (∀ a rest, rd.sent = none → rd.todo = (a, false) :: rest →
        (s.hall.unit { trunk := k, addr := a }).present = false →
        exec (.pollSend k) s =
          exec (.pollSend k) { s with trunks := put s.trunks k { x with round := some { rd with todo := rest } } }) ∧
      ∀ a probe rest, rd.sent = none → rd.todo = (a, probe) :: rest →
        (probe = true ∨ (s.hall.unit { trunk := k, addr := a }).present = true) →
        let u : UnitId := { trunk := k, addr := a }
        let held : Prop := ∃ j v, (s.hall.addr u).floorOrder = some (.grant j) ∧ v.trunk = k ∧ v ≠ u ∧
          (s.hall.addr v).lastMic = some j
        ∃ o ab code check,
          exec (.pollSend k) s = .next { s with
            trunks := put s.trunks k
              { x with
                round := some { rd with todo := rest, sent := some { addr := a, probe := probe, order := o } },
                pollOut := [0xC3, ab, code, check, 0x3C] } } ∧
          (probe = true → o = none) ∧
          (probe = false → held → o = (s.hall.addr u).notice.map .notice) ∧
          (probe = false → ¬held → o = ((s.hall.addr u).floorOrder.map Order.floor).or
            ((s.hall.addr u).notice.map .notice)) ∧
          ab.toNat = a.val + 1 ∧ ab + code + check = 0 ∧
          code.toNat = (match o with
            | none => 0
            | some (.floor (.grant j)) => 16 + j.val
            | some (.floor .release) => 32
            | some (.floor .deny) => 48
            | some (.notice .warn) => 64
            | some (.notice .clearWarn) => 80)

/-- The checks of a reply, in order (R57, Table 3-2), and what a failure counts: a counter that stops at 65535, the
failures of the round, and a miss of a PRESENT unit, the third of which makes it ABSENT, with TRUNK for its seat segment
(R59, R68). An empty probe counts nothing, and a failed probe no miss. That a reply changes nothing where no poll is
awaited is the model's choice (log entry 4), and so is that a reply begins at the first byte received and that one of
more than seven bytes is a framing failure (log entry 27). -/
def Obligations.PollReplyFails : Prop :=
  (∀ (a : AddrIx) (full : Bool) (rx : List Byte), rx.head? ≠ some 0xC3 → checkReply a full rx = .error .late) ∧
  (∀ (a : AddrIx) (full : Bool) (rx : List Byte), rx.head? = some 0xC3 → rx.length ≠ 7 →
    checkReply a full rx = .error .framing) ∧
  (∀ (a : AddrIx) (full : Bool) (ab st la se ck stop : Byte),
    let reply := checkReply a full [0xC3, ab, st, la, se, ck, stop]
    let framed : Prop := stop = 0x3C ∧ ab.toNat = a.val + 1
    (¬framed → reply = .error .framing) ∧
    (framed → ab + st + la + se + ck ≠ 0 → reply = .error .check) ∧
    (framed → ab + st + la + se + ck = 0 → full = true → reply = .error .overrun) ∧
    (framed → ab + st + la + se + ck = 0 → full = false → reply = .ok
      { latch := st.getLsbD 7, next := st.getLsbD 6, allOff := st.getLsbD 5,
        mic := if st.getLsbD 4 then some ⟨st.toNat % 8, by omega⟩ else none, lang := la.toNat % 64,
        seat := ⟨se.toNat % 8, by omega⟩ })) ∧
  ∀ (k : TrunkId) (s : State) (rx : List Byte),
    let x := s.trunks[k]
    ((x.round = none ∨ ∃ rd, x.round = some rd ∧ rd.sent = none) → exec (.pollReply k rx) s = .next s) ∧
    ∀ rd sent f, x.round = some rd → rd.sent = some sent → checkReply sent.addr x.handOver.isSome rx = .error f →
      let u : UnitId := { trunk := k, addr := sent.addr }
      let idle : Trunk := { x with round := some { rd with sent := none } }
      let trunks := put s.trunks k
        { idle with
          failures := x.failures + 1,
          cLate := if f = .late then min 65535 (x.cLate + 1) else x.cLate,
          cFraming := if f = .framing then min 65535 (x.cFraming + 1) else x.cFraming,
          cCheck := if f = .check then min 65535 (x.cCheck + 1) else x.cCheck,
          cOverrun := if f = .overrun then min 65535 (x.cOverrun + 1) else x.cOverrun }
      (sent.probe = true → f = .late → exec (.pollReply k rx) s = .next { s with trunks := put s.trunks k idle }) ∧
      (sent.probe = true → f ≠ .late → exec (.pollReply k rx) s = .next { s with trunks := trunks }) ∧
      (sent.probe = false → (s.hall.unit u).present = true → (s.hall.addr u).miss < 2 →
        exec (.pollReply k rx) s = .next { s with
          trunks := trunks,
          hall := idleSweep (s.hall.setAddr u { s.hall.addr u with miss := (s.hall.addr u).miss + 1 }) }) ∧
      (sent.probe = false → (s.hall.unit u).present = true → 2 ≤ (s.hall.addr u).miss → ∃ t,
        exec (.pollReply k rx) s = .next t ∧ (s.unitsLost t trunks fun v => v = u) ∧
        s.hall.signalled t.hall .trunk fun y => ∃ sg, (s.hall.unit u).seat = some sg ∧ y = setOf sg) ∧
      (sent.probe = false → (s.hall.unit u).present = false →
        exec (.pollReply k rx) s = .next { s with trunks := trunks, hall := idleSweep s.hall })

/-- A good reply to the poll of a PRESENT unit (R58, R62, R63, R65): miss count and silent rounds 0; the carried order
delivered, a GRANT starting the confirmation count; the last mic report and the stray count, with RELEASE for a stray
report; the reply in the hand-over, marked with the floor order as it now stands; and the end of the count, in every
state of the unit's entry, when its slot's mic is live and no GRANT is pending. A report is a stray one when it is
mic-live on a slot and the unit holds no speaking entry, or one in another slot. A third stray report makes the unit
ABSENT. DOWN is left for UP, with a TRUNK event (R68). A carried order that is no longer the pending one is not
delivered (log entry 15), and the RELEASE of a stray report takes the place of a pending GRANT (log entry 22). A GRANT
delivered after its entry has left GRANTED starts the count all the same, by the model's reading (log entry 33). -/
def Obligations.PollReplyGood : Prop :=
  (∀ (h : Hall) (u : UnitId),
    (h.entryOf u = none ↔ ∀ q e, h.entry q = some e → q.trunk = u.trunk → e.unit ≠ some u.addr) ∧
    ∀ q e, h.entryOf u = some (q, e) → h.entry q = some e ∧ q.trunk = u.trunk ∧ e.unit = some u.addr) ∧
  (∀ (h : Hall) (u : UnitId) (r : Report),
    isStray h u r = true ↔ ∃ j, r.mic = some j ∧ ∀ q e, h.entryOf u = some (q, e) → q.slot ≠ j) ∧
  ∀ (k : TrunkId) (s : State) (rx : List Byte) (rd : Round) (sent : Sent) (r : Report),
    let x := s.trunks[k]
    let u : UnitId := { trunk := k, addr := sent.addr }
    let a := s.hall.addr u
    x.round = some rd → rd.sent = some sent → sent.probe = false → (s.hall.unit u).present = true →
    checkReply sent.addr x.handOver.isSome rx = .ok r →
    let stray := isStray s.hall u r
    let delivered := a.floorOrder.isSome && decide (sent.order = a.floorOrder.map Order.floor)
    let granted := delivered && s.hall.grantPending u
    let order := if stray then some .release else if delivered then none else a.floorOrder
    let live : Bool := match s.hall.entryOf u with
      | some (j, _) => decide (r.mic = some j.slot) && (match order with | some (.grant _) => false | _ => true)
      | none => false
    let heard : Trunk :=
      { x with
        silent := 0, state := if x.state = .down then .up else x.state,
        round := some { rd with sent := none, good := true, fresh := rd.fresh ++ if granted then [sent.addr] else [] } }
    (¬(stray = true ∧ 2 ≤ a.stray) → ∃ t, exec (.pollReply k rx) s = .next t ∧
      t.hall.addr u =
        { miss := 0, floorOrder := order,
          notice := if a.notice.isSome ∧ sent.order = a.notice.map Order.notice then none else a.notice,
          lastMic := r.mic, stray := if stray then a.stray + 1 else 0,
          confirm := if live then none else if granted then some 3 else a.confirm } ∧
      (∀ v, v ≠ u → t.hall.addr v = s.hall.addr v) ∧ t.hall.core = s.hall.core ∧ t.hall.units = s.hall.units ∧
      t.hall.requests = s.hall.requests ∧ t.hall.seq = s.hall.seq ∧ t.hall.pools = s.hall.pools ∧
      t.trunks = put s.trunks k
        { heard with
          handOver := some
            { addr := sent.addr, latch := r.latch, next := r.next, allOff := r.allOff,
              mic := if stray then none else r.mic, lang := r.lang, seat := r.seat, mark := order } } ∧
      t.scanner = s.scanner ∧ t.regroup = s.regroup ∧ t.mix = s.mix ∧ t.pending = s.pending ∧
      s.hall.signalled t.hall .trunk fun y => x.state = .down ∧ y = 0xFF) ∧
    ((stray = true ∧ 2 ≤ a.stray) → ∃ t, exec (.pollReply k rx) s = .next t ∧
      (s.unitsLost t (put s.trunks k heard) fun v => v = u) ∧
      s.hall.signalled t.hall .trunk fun y => (x.state = .down ∧ y = 0xFF) ∨
        ∃ sg, (s.hall.unit u).seat = some sg ∧ y = setOf sg)

/-- A good reply to a probe (R60): the unit becomes PRESENT with a clean address record and its reported seat, its mic
report is handled (R63: a stray report is mic-live on a slot while the unit holds no entry, or one in another slot), and
its first report is placed in the hand-over. TRUNK is raised for its seat segment, and for all segments where DOWN is
left (R68). -/
def Obligations.ProbeReply : Prop :=
  (∀ (h : Hall) (u : UnitId) (r : Report),
    isStray h u r = true ↔ ∃ j, r.mic = some j ∧ ∀ q e, h.entryOf u = some (q, e) → q.slot ≠ j) ∧
  ∀ (k : TrunkId) (s : State) (rx : List Byte) (rd : Round) (sent : Sent) (r : Report),
    let x := s.trunks[k]
    let u : UnitId := { trunk := k, addr := sent.addr }
    x.round = some rd → rd.sent = some sent → sent.probe = true →
    checkReply sent.addr x.handOver.isSome rx = .ok r →
    let stray := isStray s.hall u r
    let order := if stray then some FloorOrder.release else none
    let found : UnitRec := { s.hall.unit u with present := true, reported := some r.seat }
    ∃ t, exec (.pollReply k rx) s = .next t ∧
      (t.hall.unit u).core = found.core ∧
      (s.hall.floorState u = .idle → (t.hall.unit u).seat = found.seatCalled) ∧
      (∀ v, v ≠ u → t.hall.unit v = s.hall.unit v ∧ t.hall.addr v = s.hall.addr v) ∧
      t.hall.addr u =
        { miss := 0, floorOrder := order, notice := none, lastMic := r.mic, stray := if stray then 1 else 0,
          confirm := none } ∧
      t.hall.bare = s.hall.bare ∧ t.hall.requests = s.hall.requests ∧ t.hall.seq = s.hall.seq ∧
      t.hall.pools = s.hall.pools ∧
      t.trunks = put s.trunks k
        { x with
          silent := 0, state := if x.state = .down then .up else x.state,
          round := some { rd with sent := none, good := true },
          handOver := some
            { addr := sent.addr, latch := r.latch, next := r.next, allOff := r.allOff,
              mic := if stray then none else r.mic, lang := r.lang, seat := r.seat, mark := order } } ∧
      t.scanner = s.scanner ∧ t.regroup = s.regroup ∧ t.mix = s.mix ∧ t.pending = s.pending ∧
      s.hall.signalled t.hall .trunk fun y => (x.state = .down ∧ y = 0xFF) ∨
        ∃ sg, (t.hall.unit u).seat = some sg ∧ y = setOf sg

/-- The end of a round (R62, R64): running confirmation counts are lowered and a spent one makes its unit ABSENT; the
silent rounds are counted; and the trunk's state follows the table, DOWN making every PRESENT unit ABSENT. A change of
the trunk's state raises TRUNK for all segments, and a unit lost to its count for its seat segment (R68). Apart from
it, the expiry of a running confirmation count makes its unit ABSENT, which clears its address record, its latches and
its request and removes or orphans its speaking entry (R61, R62, R96). That a ROUND_END without a round and an expiry
without a running count change nothing, and that an expiry counts whatever remains of the count, is the model's choice
(log entry 3). -/
def Obligations.RoundEndAndConfirmation : Prop :=
  (∀ (k : TrunkId) (s : State), (s.trunks[k]).round = none → exec (.roundEnd k) s = .next s) ∧
  (∀ (k : TrunkId) (s : State) (rd : Round), (s.trunks[k]).round = some rd →
    let x := s.trunks[k]
    let silent := if rd.good then x.silent else min 3 (x.silent + 1)
    let state := match x.state with
      | .up => if silent = 3 then .down else if 8 < x.failures then .degraded else .up
      | .degraded => if silent = 3 then .down else if x.failures ≤ 2 then .up else .degraded
      | other => other
    let counting (u : UnitId) : Bool :=
      u.trunk = k && (s.hall.addr u).confirm.isSome && !rd.fresh.contains u.addr
    let gone (u : UnitId) : Bool :=
      u.trunk = k && ((state = .down && x.state ≠ .down) ||
        (counting u && decide ((s.hall.addr u).confirm.getD 0 ≤ 1)))
    ∃ t, exec (.roundEnd k) s = .next t ∧
      s.unitsLost t (put s.trunks k { x with silent := silent, state := state, round := none }) gone ∧
      ((∀ u, gone u = false) → ∀ u, t.hall.addr u =
        { s.hall.addr u with
          confirm := if counting u then (s.hall.addr u).confirm.map (· - 1) else (s.hall.addr u).confirm }) ∧
      (∀ u, gone u = false → ∃ o, (o = (s.hall.addr u).floorOrder ∨ ∃ j, o = some (.grant j)) ∧ t.hall.addr u =
        { s.hall.addr u with
          confirm := if counting u then (s.hall.addr u).confirm.map (· - 1) else (s.hall.addr u).confirm,
          floorOrder := o }) ∧
      s.hall.signalled t.hall .trunk fun y => (state ≠ x.state ∧ y = 0xFF) ∨
        ∃ u sg, counting u = true ∧ (s.hall.addr u).confirm.getD 0 ≤ 1 ∧ (s.hall.unit u).seat = some sg ∧
          y = setOf sg) ∧
  ∀ (u : UnitId) (s : State),
    ((s.hall.addr u).confirm = none → exec (.confirmationCountExpiry u) s = .next s) ∧
    ((s.hall.addr u).confirm ≠ none → ∃ t, exec (.confirmationCountExpiry u) s = .next t ∧
      (s.unitsLost t s.trunks fun v => v = u) ∧
      s.hall.signalled t.hall .trunk fun y => ∃ sg, (s.hall.unit u).seat = some sg ∧ y = setOf sg)

/-! ## The floor (Chapters 4 and 5) -/

/-- HAND_OVER_TAKEN: the reply leaves the hand-over, and the floor controller stores what it reports in the record of
its PRESENT unit; other units' records keep all but their seats and warned marks. The reply is read in this order (log
entries 12 and 17): language and seat are stored, then the request latch (R79), then the mic report (R80), then a
chair's next key and all-off key, each where its latch is set and was clear (R88). The mic report of a GRANTED unit on
its own slot sends the entry to OPENING: its speak timer starts unless it is a chair's, its confirmation count stops,
its segment becomes the room's most recent speaker, and its language, where it declares one, the room's floor language
with relay re-evaluated where it differs; a limit of 30 s or less warns at once (R80, R94, R95). A clear report sends
OPENING and OPEN to CLOSING (R76); any other report changes nothing. A reply of a unit that has become ABSENT is dropped
(log entry 12). -/
def Obligations.HandOverTaken : Prop :=
  (∀ (k : TrunkId) (s : State),
    ((s.trunks[k]).handOver = none → exec (.handOverTaken k) s = .next s) ∧
    ∀ y, (s.trunks[k]).handOver = some y →
      let u : UnitId := { trunk := k, addr := y.addr }
      let emptied := put s.trunks k { s.trunks[k] with handOver := none }
      ((s.hall.unit u).present = false →
        exec (.handOverTaken k) s = .next { s with trunks := emptied, hall := idleSweep s.hall }) ∧
      ((s.hall.unit u).present = true → ∃ t, exec (.handOverTaken k) s = .next t ∧ t.trunks = emptied ∧
        (t.hall.unit u).core =
          { s.hall.unit u with
            lang := y.lang, reported := some y.seat, latch := y.latch, next := y.next, allOff := y.allOff,
            mic := y.mic }.core ∧
        (∀ v, v ≠ u → (t.hall.unit v).core = (s.hall.unit v).core) ∧ t.hall.bare = s.hall.bare ∧
        t.scanner = s.scanner ∧ t.regroup = s.regroup ∧ t.mix = s.mix ∧ t.pending = s.pending ∧
        ∃ h1 h2 h3 h4 : Hall,
          h1 = storeReport s.hall u y.lang y.seat ∧ h2 = readMic (readLatch h1 u y.latch y.mark) u y.mic ∧
          (((s.hall.unit u).cls = .chair ∧ y.next = true ∧ (s.hall.unit u).next = false) → h3 = chairNext h2 u) ∧
          (¬((s.hall.unit u).cls = .chair ∧ y.next = true ∧ (s.hall.unit u).next = false) → h3 = h2) ∧
          (((s.hall.unit u).cls = .chair ∧ y.allOff = true ∧ (s.hall.unit u).allOff = false) →
            h4 = chairAllOff h3 u) ∧
          (¬((s.hall.unit u).cls = .chair ∧ y.allOff = true ∧ (s.hall.unit u).allOff = false) → h4 = h3) ∧
          t.hall = idleSweep (h4.setUnit u
            { h4.unit u with latch := y.latch, next := y.next, allOff := y.allOff, mic := y.mic }))) ∧
  (∀ (h : Hall) (u : UnitId) (lang : Nat) (sg : SegId),
    let g := storeReport h u lang sg
    let stored : UnitRec := { h.unit u with lang := lang, reported := some sg }
    g.unit u = (if h.floorState u = .idle then { stored with seat := stored.seatCalled } else stored) ∧
    (∀ v, v ≠ u → g.unit v = h.unit v) ∧
    g.requests = (h.requests.map fun q => if q.unit = u then { q with lang := lang } else q) ∧ g.rooms = h.rooms ∧
    g.addrs = h.addrs ∧ g.seq = h.seq ∧ g.pools = h.pools ∧ g.rotation = h.rotation ∧ g.booths = h.booths ∧
    g.radiators = h.radiators) ∧
  ∀ (h : Hall) (u : UnitId) (mic : Option SlotIx),
    let g := readMic h u mic
    (h.entryOf u = none → g = h) ∧
    ∀ r e, h.entryOf u = some (r, e) →
      (e.state = .granted → mic ≠ some r.slot → g = h) ∧
      (e.state = .closing → g = h) ∧
      (e.onAir = true → mic ≠ none → g = h) ∧
      (e.onAir = true → mic = none →
        g.core = h.core ∧ g.entry r = some e.closed ∧
        (∀ q e', q ≠ r → h.entry q = some e' → g.entry q = some e') ∧ (g.unit u).warned = false ∧
        (g.addr u).notice =
          if (h.unit u).warned && (h.unit u).present then some .clearWarn else (h.addr u).notice) ∧
      (e.state = .granted → mic = some r.slot → ∀ i rm, h.roomOf e.seg = some i → h.room i = some rm →
        let lang := (h.unit u).lang
        let changes : Bool := lang ≠ 0 && lang ≠ rm.floorLang
        let rm' : Room := { rm with lastSpeaker := some e.seg, floorLang := if lang = 0 then rm.floorLang else lang }
        let warns : Bool := !e.chair && 0 < rm.settings.speakLimit && rm.settings.speakLimit ≤ 30
        g.entry r = some { e with state := .opening, timer := if e.chair then none else some 0 } ∧
        (∀ q, q ≠ r → g.entry q = h.entry q) ∧ g.room i = some rm' ∧ (∀ j, j ≠ i → g.room j = h.room j) ∧
        g.booths = (if changes then (reevaluate (h.setRoom i (some rm')) i).booths else h.booths) ∧
        g.unit u = { h.unit u with warned := (h.unit u).warned || warns } ∧
        (∀ v, v ≠ u → g.unit v = h.unit v ∧ g.addr v = h.addr v) ∧
        g.addr u =
          { h.addr u with
            confirm := none,
            notice := if warns && !(h.unit u).warned && (h.unit u).present then some .warn else (h.addr u).notice } ∧
        g.requests = h.requests ∧ g.seq = h.seq ∧ g.rotation = h.rotation ∧ g.radiators = h.radiators)

/-- The request latch of a reply (R79, R81, R84, R86): an answered latch and a latch held do nothing; a latch let go
withdraws a request that was not recalled; a latch set again on a recalled request clears the mark; a GRANTED unit's
latch that does not agree with its GRANT (still pending: set; delivered: clear) cancels the entry (R77); OPENING, OPEN
and CLOSING ignore the latch. A new request wakes its room (R151). That of a DELEGATE or VIP unit is denied where queue
or pool is full and otherwise filed with the next stamp; it waits in a frozen or a MANUAL room, the grant arbiter runs
in an AUTO room, and an OVERRIDE room closes its oldest speaker at its limit, grants under it, and closes the oldest
speaker on the unit's trunk where that has no free slot (R84; log entry 9). That of a CHAIR unit is filed in a frozen
room, granted at once where its trunk has a free slot, and otherwise filed with the oldest speaker on its trunk closed,
or denied where it cannot be filed (R86). A chair's next key acts as GRANT-NEXT and its all-off key as ALL-OFF (R88).
When a latch counts as answered is the model's reading (log entry 13), and so is a displaced GRANT taken as delivered
(log entry 22). -/
def Obligations.LatchReading : Prop :=
  (∀ (h : Hall) (u : UnitId) (latch : Bool) (mark : Option FloorOrder),
    let g := readLatch h u latch mark
    (h.floorState u = .idle → (latch = false ∨ answered h u mark = true) → g = h) ∧
    (answered h u mark = true ↔
      (mark ≠ none ∨ (h.addr u).floorOrder = some .deny ∨ (h.addr u).floorOrder = some .release)) ∧
    (h.floorState u = .idle → latch = true → answered h u mark = false → ∀ i r, h.unitRoom u = some i →
      h.room i = some r →
      let space : Prop := (h.queue i).length < r.settings.queueLimit ∧ h.requests.length < 96
      let asked (n : Stamp) : Request :=
        { unit := u, stamp := n, lang := (h.unit u).lang, cls := (h.unit u).cls, score := 0,
          guard := r.settings.guard, due := false, recalled := false }
      let filed (f : Hall) : Prop :=
        f.requests = h.requests ++ [asked (h.seq + 1)] ∧ f.seq = h.seq + 1 ∧ f.pools = h.pools ∧ f.addrs = h.addrs ∧
        f.units = h.units ∧ f.core = h.core
      let denied : Prop :=
        g.requests = h.requests ∧ g.seq = h.seq ∧ g.pools = h.pools ∧ g.core = h.core ∧
        ((h.unit u).present = true → (g.addr u).floorOrder = some .deny)
      let granted (k : SlotIx) : Prop := ∃ sg, (h.unit u).seat = some sg ∧
        g.entry { trunk := u.trunk, slot := k } = some
          { unit := some u.addr, seg := sg, chair := (h.unit u).cls = .chair, reqStamp := h.seq + 1,
            grantStamp := h.seq + 1 + 1, state := .granted, e := 0, ramp := none, timer := none } ∧
        (∀ q, q ≠ { trunk := u.trunk, slot := k } → g.entry q = h.entry q) ∧ g.requests = h.requests ∧
        g.seq = h.seq + 1 + 1 ∧ g.core = h.core ∧
        ((h.unit u).present = true → (g.addr u).floorOrder = some (.grant k))
      let closes (r0 : SlotRef) : Prop := g.entry r0 = (h.entry r0).map Entry.closed ∧ g.core = h.core
      (g.room i).map (·.dormant) = some false ∧
      ((h.unit u).cls ≠ .chair →
        (¬space → denied) ∧
        (space → (r.frozen = true ∨ r.settings.mode = .manual) → filed g) ∧
        (space → r.frozen = false → r.settings.mode = .auto → ∃ f, filed f ∧ g = arbiterRun f i ∧
          ((h.underLimit i = false ∨ ((h.freeSlot u.trunk = none) ∧ ∀ q ∈ h.queue i, h.freeSlot q.unit.trunk = none)) →
            filed g) ∧
          ∀ k, h.underLimit i = true → h.freeSlot u.trunk = some k → h.queue i = [] → granted k) ∧
        (space → r.frozen = false → r.settings.mode = .override →
          (h.underLimit i = false → oldestOpen h i none = none → filed g) ∧
          (∀ r0, h.underLimit i = false → oldestOpen h i none = some r0 → closes r0) ∧
          (∀ k, h.underLimit i = true → h.freeSlot u.trunk = some k → granted k) ∧
          (h.underLimit i = true → h.freeSlot u.trunk = none → oldestOpen h i (some u.trunk) = none → filed g) ∧
          ∀ r0, h.underLimit i = true → h.freeSlot u.trunk = none → oldestOpen h i (some u.trunk) = some r0 →
            closes r0)) ∧
      ((h.unit u).cls = .chair →
        (r.frozen = true → space → filed g) ∧
        (r.frozen = true → ¬space → denied) ∧
        (∀ k, r.frozen = false → h.freeSlot u.trunk = some k → granted k) ∧
        (r.frozen = false → h.freeSlot u.trunk = none → ¬space → denied) ∧
        (r.frozen = false → h.freeSlot u.trunk = none → space → oldestOpen h i (some u.trunk) = none → filed g) ∧
        ∀ r0, r.frozen = false → h.freeSlot u.trunk = none → space → oldestOpen h i (some u.trunk) = some r0 →
          closes r0 ∧ ∃ q ∈ g.requests, q.unit = u ∧ q.stamp = h.seq + 1)) ∧
    (∀ q, h.requestOf u = some q → q.recalled = false → latch = true → g = h) ∧
    (∀ q, h.requestOf u = some q → q.recalled = false → latch = false →
      g.requests = (h.requests.filter fun x => x.unit ≠ u) ∧ g.pools = h.pools ∧ g.addrs = h.addrs ∧
      g.core = h.core) ∧
    (∀ q, h.requestOf u = some q → q.recalled = true → latch = false → g = h) ∧
    (∀ q, h.requestOf u = some q → q.recalled = true → latch = true →
      g = { h with requests := h.requests.map fun x => if x.unit = u then { x with recalled := false } else x }) ∧
    ∀ r e, h.requestOf u = none → h.entryOf u = some (r, e) →
      (e.state ≠ .granted → g = h) ∧
      (e.state = .granted → latch = h.grantPending u → g = h) ∧
      (e.state = .granted → latch ≠ h.grantPending u → g.core = h.core ∧
        (∀ e', g.entry r = some e' → e'.state = .granted ∧ e'.unit ≠ some u.addr) ∧
        g.addr u = { h.addr u with
          confirm := none,
          floorOrder := if (h.unit u).present then some (if h.grantPending u then .deny else .release)
            else (h.addr u).floorOrder })) ∧
  (∀ (h : Hall) (i : SegId) (t : Option TrunkId), oldestOpen h i t = none ↔
    ∀ r q e, h.room i = some r → h.entry q = some e → inSet r.segs e.seg = true → e.chair = false →
      (∀ k, t = some k → q.trunk = k) → e.onAir = false) ∧
  (∀ (h : Hall) (i : SegId) (t : Option TrunkId) (r0 : SlotRef), oldestOpen h i t = some r0 →
    ∃ r e, h.room i = some r ∧ h.entry r0 = some e ∧ inSet r.segs e.seg = true ∧ e.chair = false ∧ e.onAir = true ∧
      (∀ k, t = some k → r0.trunk = k) ∧
      ∀ (base : Stamp), (∀ q e', h.entry q = some e' → (e'.grantStamp - base).toNat < 2 ^ 31) →
        ∀ q e', h.entry q = some e' → inSet r.segs e'.seg = true → e'.chair = false → e'.onAir = true →
          (∀ k, t = some k → q.trunk = k) → (e.grantStamp - base).toNat ≤ (e'.grantStamp - base).toNat) ∧
  (∀ (h : Hall) (i : SegId) (r : Room), h.room i = some r →
    let g := overrideService h i
    g.core = h.core ∧
    (g.underLimit i = false ∨ ∀ q ∈ g.queue i, g.freeSlot q.unit.trunk = none) ∧
    (∀ q e, h.entry q = some e → g.entry q = some e) ∧
    ∀ q ∈ h.requests, q ∈ g.requests ∨ (h.seatedIn r.segs q.unit = true ∧
      ∃ r e, h.entry r = none ∧ g.entry r = some e ∧ r.trunk = q.unit.trunk ∧ e.unit = some q.unit.addr)) ∧
  ∀ (s : State) (u : UnitId) (i : SegId) (r : Room), s.hall.unitRoom u = some i → s.hall.room i = some r →
    let able : Prop := r.frozen = false ∧ (∃ q ∈ s.hall.queue i, s.hall.freeSlot q.unit.trunk ≠ none) ∧
      s.hall.underLimit i = true
    (¬able → chairNext s.hall u = s.hall) ∧
    ∀ (p : PortId) (tag : Byte) (l : List Byte) (g : Option (BitVec 16)) (sel : Selector), s.admitsRoom p g sel i →
      parseSeg l = some (g, sel, ()) →
      (able → exec (.grantNext p tag l) s =
        .next (setAnswer { s with hall := idleSweep (chairNext s.hall u) } p tag .done (roomTail s.hall i))) ∧
      exec (.allOff p tag l) s =
        .next (setAnswer { s with hall := idleSweep (chairAllOff s.hall u) } p tag .done (roomTail s.hall i))

/-- SET-UNIT with any of its fields (R72): a gain is stored, brought into range, in every floor state; a class and a
seat override that differ need an IDLE unit; all of the named fields are written, or none where one of them refuses. An
IDLE unit's seat segment follows its override and its reported seat (R71). Nothing but the unit's record changes, and a
change of class or seat segment raises FLOOR for the unit's room; that a class change of a unit in no room raises none
is the model's choice (log entry 32). A trunk above T3, an address outside 1 to 60, a segment above S7 and another class
are refused RANGE. A unit is WAITING while it has a request, and IDLE while it has neither a request nor a speaking
entry (R70). A field named twice keeps its last value (log entry 7). -/
def Obligations.SetUnit : Prop :=
  (∀ (h : Hall) (u : UnitId),
    (h.floorState u = .waiting ↔ ∃ q ∈ h.requests, q.unit = u) ∧
    (h.floorState u = .idle ↔ ((∀ q ∈ h.requests, q.unit ≠ u) ∧
      ∀ q e, h.entry q = some e → q.trunk = u.trunk → e.unit ≠ some u.addr))) ∧
  (∀ (tb ab f hi lo : Byte), parseSetUnit [tb, ab, 1, f, hi, lo] =
    if f = 0 ∨ 3 < f.toNat then none else some ((tb, ab), [(f.toNat, .word (wordOf hi lo))])) ∧
  ∀ (s : State) (p : PortId) (tag : Byte) (l : List Byte), s.admits p [.venue] →
    let cmd := exec (.setUnit p tag l) s
    let refused (st : Status) : Prop := cmd = .next (setAnswer s p tag st [])
    (parseSetUnit l = none → refused .range) ∧
    ∀ (tb ab : Byte) (fs : List (Nat × FieldValue)), parseSetUnit l = some ((tb, ab), fs) →
      ((3 < tb.toNat ∨ ab.toNat = 0 ∨ 60 < ab.toNat) → refused .range) ∧
      ∀ u, unitOf tb ab = some u →
        let r := s.hall.unit u
        let idle : Prop := s.hall.floorState u = .idle
        let named (k n : Nat) : Prop := (k, FieldValue.word n) ∈ fs
        let bad : Prop := (∃ n, named 1 n ∧ 7 < n ∧ n ≠ 255) ∨ ∃ n, named 2 n ∧ 2 < n
        (bad → refused .range) ∧
        ∀ (o : Option SegId) (c : UnitClass) (g : Nat), ¬bad →
          ((lastWord fs 1 = none ∧ o = r.seatOvr) ∨ (lastWord fs 1 = some 255 ∧ o = none) ∨
            ∃ sg : SegId, lastWord fs 1 = some sg.val ∧ o = some sg) →
          ((lastWord fs 2 = none ∧ c = r.cls) ∨ (lastWord fs 2 = some 0 ∧ c = .delegate) ∨
            (lastWord fs 2 = some 1 ∧ c = .vip) ∨ (lastWord fs 2 = some 2 ∧ c = .chair)) →
          ((lastWord fs 3 = none ∧ g = r.gain) ∨ ∃ n, lastWord fs 3 = some n ∧ g = min n 32767) →
          (¬idle → (o ≠ r.seatOvr ∨ c ≠ r.cls) → refused .state) ∧
          ((idle ∨ (o = r.seatOvr ∧ c = r.cls)) → ∃ (h : Hall) (st : Status),
            cmd = .next (setAnswer { s with hall := h } p tag st []) ∧
            ((∃ n, named 3 n ∧ 32767 < n) → st = .doneClamped) ∧ ((∀ n, named 3 n → n ≤ 32767) → st = .done) ∧
            (h.unit u).core = { r with seatOvr := o, cls := c, gain := g }.core ∧
            (idle → (h.unit u).seat = { r with seatOvr := o }.seatCalled) ∧ (¬idle → (h.unit u).seat = r.seat) ∧
            ((c ≠ r.cls ∨ (h.unit u).seat ≠ r.seat) → ∀ i rm, h.unitRoom u = some i → h.room i = some rm →
              h.told .floor rm.segs) ∧
            ((h.unit u).seat ≠ r.seat → ∀ i rm, s.hall.unitRoom u = some i → h.room i = some rm →
              h.told .floor rm.segs) ∧
            (∀ v, v ≠ u → h.unit v = s.hall.unit v) ∧ h.rooms = s.hall.rooms ∧ h.addrs = s.hall.addrs ∧
            h.requests = s.hall.requests ∧ h.seq = s.hall.seq ∧ h.pools = s.hall.pools ∧
            h.rotation = s.hall.rotation ∧ h.booths = s.hall.booths ∧ h.radiators = s.hall.radiators ∧
            ∀ q : PortId, (h.ports[q]).core = (s.hall.ports[q]).core)

/-- SET-ROOM (R18, R92, R93): the named settings are written with the clamping of R16, the generation increases by one
when any changed, the room is awake (R151), and the answer carries the room and the generation left. No other record's
core changes. A mode that is none refuses. The room is brought into line with its settings (R93): of the counted entries
beyond the open limit, oldest grant stamp first, those in OPENING and OPEN are sent to CLOSING and those GRANTED leave
their slots; the queue holds its limit at most; dynamic scores and guard counts are within max and guard; a changed
speak limit that a running timer has reached closes the entry, and another leaves its unit warned exactly past the
warning point; every other entry stays. ROOM is raised for the room where a setting changed or the room was DORMANT, and
FLOOR where the limits, the max or the guard changed an entry or a request. A field named twice keeps its last value
(log entry 7). -/
def Obligations.SetRoom : Prop :=
  (∀ fs : List (Nat × FieldValue), badMode fs = true ↔ ∃ n, (1, FieldValue.word n) ∈ fs ∧ 2 < n) ∧
  ∀ (s : State) (p : PortId) (tag : Byte) (l : List Byte) (g : Option (BitVec 16)) (sel : Selector) (i : SegId)
    (r : Room) (fs : List (Nat × FieldValue)),
    s.admitsRoom p g sel i → parseSetRoom l = some (g, sel, fs) → s.hall.room i = some r →
    let x := (r.settings.named fs, r.settings.clampedBy fs)
    let r' : Room := { r with settings := x.1, gen := if x.1 = r.settings then r.gen else r.gen + 1 }
    (badMode fs = true →
      exec (.setRoom p tag l) s = .next (setAnswer s p tag .range (bSeg i ++ b2 r.gen.toNat))) ∧
    (badMode fs = false → ∃ h : Hall,
      exec (.setRoom p tag l) s = .next (setAnswer { s with hall := idleSweep h } p tag
        (if x.2 then .doneClamped else .done) (bSeg i ++ b2 r'.gen.toNat)) ∧
      (h.room i).map Room.core = some r'.core ∧
      (∀ j, j ≠ i → (h.room j).map Room.core = (s.hall.room j).map Room.core) ∧
      (∀ u, (h.unit u).core = (s.hall.unit u).core) ∧
      (∀ b : BoothId, (h.booths[b]).core = (s.hall.booths[b]).core) ∧ h.radiators = s.hall.radiators ∧
      (∀ q : PortId, (h.ports[q]).core = (s.hall.ports[q]).core) ∧
      (h.room i).map (·.dormant) = some false ∧
      (h.queue i).length ≤ x.1.queueLimit ∧
      ((x.1 ≠ r.settings ∨ r.dormant = true) → h.told .room r.segs) ∧
      (s.hall.apart i →
        ((∀ q ∈ s.hall.requests, q.cls = (s.hall.unit q.unit).cls) → h.count i ≤ x.1.openLimit) ∧
        ∀ q ∈ h.queue i, q.score ≤ x.1.max ∧ q.guard ≤ x.1.guard) ∧
      let counted := ((s.hall.speaking i).filter fun y => !y.2.chair && y.2.state ≠ .closing).map (·.1)
      let shed := counted.take (counted.length - x.1.openLimit)
      (s.hall.apart i →
        (shed ≠ [] ∨ x.1.queueLimit < (s.hall.queue i).length ∨
          ∃ q ∈ s.hall.queue i, x.1.max < q.score ∨ x.1.guard < q.guard) → h.told .floor r.segs) ∧
      (∀ q ∈ shed, ∀ e, s.hall.entry q = some e →
        (e.onAir = true → h.entry q = some e.closed) ∧
        (e.state = .granted → ∀ e', h.entry q = some e' → e'.state = .granted)) ∧
      (∀ q e, s.hall.entry q = some e → q ∉ shed → x.1.speakLimit = r.settings.speakLimit →
        h.entry q = some e) ∧
      (∀ q e, s.hall.entry q = some e → inSet r.segs e.seg = false → h.entry q = some e) ∧
      ∀ q e a ms, s.hall.entry q = some e → inSet r.segs e.seg = true → q ∉ shed → e.unit = some a →
        e.timer = some ms → e.chair = false → e.onAir = true → x.1.speakLimit ≠ r.settings.speakLimit →
        (∀ q' e', s.hall.entry q' = some e' → q'.trunk = q.trunk → e'.unit = some a → q' = q) →
        let limit := x.1.speakLimit
        ((0 < limit ∧ limit * 1000 ≤ ms) → h.entry q = some e.closed) ∧
        (¬(0 < limit ∧ limit * 1000 ≤ ms) → h.entry q = some e ∧
          ((h.unit { trunk := q.trunk, addr := a }).warned = true ↔ (0 < limit ∧ (limit - 30) * 1000 ≤ ms))))

/-- GRANT (R75, R89): the unit takes the lowest free slot of its trunk in a GRANTED entry with the next stamp, its
request leaves the pool, and a GRANT with the slot is pending for it; at the limit "bump" first sends the oldest speaker
to CLOSING, and is refused where the room has none to close. A room is under its limit while its non-chair entries in
GRANTED, OPENING and OPEN are fewer than the open limit (R82). The room is awake after it (R151). The refusals come in
the order of R89. -/
def Obligations.Grant : Prop :=
  (∀ (h : Hall) (t : TrunkId),
    (h.freeSlot t = none ↔ ∀ k, h.entry { trunk := t, slot := k } ≠ none) ∧
    ∀ k, h.freeSlot t = some k ↔ (h.entry { trunk := t, slot := k } = none ∧
      ∀ j, j < k → h.entry { trunk := t, slot := j } ≠ none)) ∧
  (∀ (h : Hall) (i : SegId) (r : Room), h.room i = some r →
    (h.underLimit i = true ↔ (allSlots.countP fun q => match h.entry q with
      | some e => inSet r.segs e.seg && !e.chair && e.state ≠ .closing
      | none => false) < r.settings.openLimit)) ∧
  ∀ (s : State) (p : PortId) (tag tb ab o : Byte) (l : List Byte) (g : Option (BitVec 16)) (i : SegId) (u : UnitId)
    (sg : SegId),
    s.admitsRoom p g (.unit tb ab) i → parseUnitOption l = some (g, .unit tb ab, (tb, ab, o)) →
    unitOf tb ab = some u → (s.hall.unit u).seat = some sg →
    let h := s.hall
    let refused (st : Status) : Prop := exec (.grant p tag l) s = .next (setAnswer s p tag st (roomTail h i))
    let answers (g : Hall) : Prop := exec (.grant p tag l) s =
      .next (setAnswer { s with hall := idleSweep g } p tag .done (roomTail h i)) ∧ g.core = h.core ∧
      (g.room i).map (·.dormant) = some false
    let able : Prop := (h.unit u).present = true ∧ (h.floorState u = .idle ∨ h.floorState u = .waiting)
    let full : Prop := (h.unit u).cls ≠ .chair ∧ h.underLimit i = false
    let bump : Bool := o.getLsbD 0
    (¬able → refused .state) ∧
    (able → h.frozen i = true → refused .state) ∧
    (able → h.frozen i = false → h.freeSlot u.trunk = none → refused .noSlot) ∧
    ∀ k, able → h.frozen i = false → h.freeSlot u.trunk = some k →
      let slot : SlotRef := { trunk := u.trunk, slot := k }
      (full → bump = false → refused .full) ∧
      (full → bump = true → oldestOpen h i none = none → refused .full) ∧
      (full → bump = true → (∀ r q e, h.room i = some r → h.entry q = some e → inSet r.segs e.seg = true →
        e.chair = false → e.onAir = false) → refused .full) ∧
      (∀ r e, full → bump = true → oldestOpen h i none = some r → h.entry r = some e → ∃ g', answers g' ∧
        g'.entry r = some { e with state := .closing, timer := none } ∧
        ∃ e', g'.entry slot = some e' ∧ e'.unit = some u.addr ∧ e'.state = .granted) ∧
      (¬full → ∃ g', answers g' ∧
        g'.entry slot = some
          { unit := some u.addr, seg := sg, chair := (h.unit u).cls = .chair,
            reqStamp := ((h.requestOf u).map (·.stamp)).getD (h.seq + 1), grantStamp := h.seq + 1,
            state := .granted, e := 0, ramp := none, timer := none } ∧
        (∀ r, r ≠ slot → g'.entry r = h.entry r) ∧ g'.requests = (h.requests.filter fun q => q.unit ≠ u) ∧
        g'.seq = h.seq + 1 ∧ g'.addr u = { h.addr u with floorOrder := some (.grant k) } ∧
        ∀ v, v ≠ u → g'.addr v = h.addr v)

/-- A room's queue holds the requests of the units seated in it, in the order of their stamps (R73). GRANT-NEXT (R90,
R104, R105, R108, R116): one selection, in any mode. The choice is the room's elevated request when it may be granted,
else the oldest due one, else the highest total score, the oldest among equals; it is granted, and the room's other
requests age. The refusals come in the order of R90. The total score is the sum of the four terms of R105. The grant
arbiter runs for an AUTO room that is not frozen, and selects until the room is at its limit or none of its waiting
requests has a free slot on its trunk (R102, R103). A room's grant handling is nothing while it is frozen, and otherwise
the arbiter's run in AUTO, the override service in OVERRIDE and nothing in MANUAL (R82). Rooms unfrozen by one event are
served so (R117): first the chair requests of all of them, the oldest first on each trunk, while it has a free slot
(R87; log entry 28), and then the grant handling of each room in ascending id. -/
def Obligations.GrantNext : Prop :=
  (∀ (h : Hall) (x : SegSet),
    (h.queueIn x).Perm (h.requests.filter fun q => h.seatedIn x q.unit) ∧
    (∀ base : Stamp, (∀ q ∈ h.requests, (q.stamp - base).toNat < 2 ^ 31) →
      (h.queueIn x).Pairwise fun a b => (a.stamp - base).toNat ≤ (b.stamp - base).toNat) ∧
    ∀ i r, h.room i = some r → h.queue i = h.queueIn r.segs) ∧
  (∀ (h : Hall) (i : SegId),
    (h.room i = none → grantHandling h i = h) ∧
    ∀ r, h.room i = some r →
      ((r.frozen = true ∨ r.settings.mode = .manual) → grantHandling h i = h) ∧
      (r.frozen = false → r.settings.mode = .auto → grantHandling h i = arbiterRun h i) ∧
      (r.frozen = false → r.settings.mode = .override → grantHandling h i = overrideService h i)) ∧
  (∀ (h : Hall) (is : List SegId), unfreeze h is = is.foldl grantHandling (chairService h is)) ∧
  (∀ (h : Hall) (is : List SegId), (h.requests.map (·.unit)).Nodup →
    let g := chairService h is
    let served (q : Request) : Prop := q.cls = .chair ∧ ∃ i ∈ is, h.unitRoom q.unit = some i
    g.core = h.core ∧ (∀ q e, h.entry q = some e → g.entry q = some e) ∧
    (∀ q ∈ g.requests, q ∈ h.requests ∧ (served q → g.freeSlot q.unit.trunk = none)) ∧
    (∀ q ∈ h.requests, q ∉ g.requests → served q ∧ ∃ r e, h.entry r = none ∧ g.entry r = some e ∧
      r.trunk = q.unit.trunk ∧ e.unit = some q.unit.addr ∧ e.state = .granted ∧ e.reqStamp = q.stamp) ∧
    ∀ base : Stamp, (∀ q ∈ h.requests, (q.stamp - base).toNat < 2 ^ 31) →
      ∀ q ∈ h.requests, ∀ q' ∈ h.requests, served q → served q' → q.unit.trunk = q'.unit.trunk →
        q ∈ g.requests → q' ∉ g.requests → (q'.stamp - base).toNat ≤ (q.stamp - base).toNat) ∧
  (∀ (h : Hall) (r : Room) (q : Request), ∃ vip lang seg : Nat, totalScore h r q = vip + lang + seg + q.score ∧
    vip = (if q.cls = .vip then r.settings.vip else 0) ∧
    lang = (if q.lang ≠ 0 ∧ q.lang = r.floorLang then r.settings.langBonus else 0) ∧
    (∀ sg, r.lastSpeaker = some sg → (h.unit q.unit).seat = some sg → seg = r.settings.segBonus) ∧
    ((∀ sg, r.lastSpeaker = some sg → (h.unit q.unit).seat ≠ some sg) → seg = 0)) ∧
  (∀ (h : Hall) (i : SegId) (r : Room), h.room i = some r →
    let g := arbiterRun h i
    ((r.settings.mode ≠ .auto ∨ r.frozen = true) → g = h) ∧
    (r.settings.mode = .auto → r.frozen = false →
      g.underLimit i = false ∨ ∀ q ∈ g.queue i, g.freeSlot q.unit.trunk = none) ∧
    (∀ q e, h.entry q = some e → g.entry q = some e) ∧ g.core = h.core) ∧
  ∀ (s : State) (p : PortId) (tag : Byte) (l : List Byte) (g : Option (BitVec 16)) (sel : Selector) (i : SegId)
    (r : Room), s.admitsRoom p g sel i → parseSeg l = some (g, sel, ()) → s.hall.room i = some r →
    let h := s.hall
    let refused (st : Status) : Prop := exec (.grantNext p tag l) s = .next (setAnswer s p tag st (roomTail h i))
    let free (q : Request) : Prop := h.freeSlot q.unit.trunk ≠ none
    (r.frozen = true → refused .state) ∧
    (r.frozen = false → h.queue i = [] → refused .state) ∧
    (r.frozen = false → h.queue i ≠ [] → (∀ q ∈ h.queue i, ¬free q) → refused .noSlot) ∧
    (r.frozen = false → (∃ q ∈ h.queue i, free q) → h.underLimit i = false → refused .full) ∧
    (r.frozen = false → (∃ q ∈ h.queue i, free q) → h.underLimit i = true → ∃ (q : Request) (k : SlotIx) (g' : Hall),
      exec (.grantNext p tag l) s = .next (setAnswer { s with hall := idleSweep g' } p tag .done (roomTail h i)) ∧
      g'.core = h.core ∧
      h.freeSlot q.unit.trunk = some k ∧
      (∃ older newer, ((h.queue i).filter fun c => h.freeSlot c.unit.trunk ≠ none) = older ++ q :: newer ∧
        ((∃ c ∈ older ++ q :: newer, r.elevated = some c.unit) → r.elevated = some q.unit) ∧
        ((∀ c ∈ older ++ q :: newer, r.elevated ≠ some c.unit) →
          ((∃ c ∈ older ++ q :: newer, c.due = true) → q.due = true ∧ ∀ c ∈ older, c.due = false) ∧
          ((∀ c ∈ older ++ q :: newer, c.due = false) →
            (∀ c ∈ older, totalScore h r c < totalScore h r q) ∧
            ∀ c ∈ newer, totalScore h r c ≤ totalScore h r q))) ∧
      (∃ e, g'.entry { trunk := q.unit.trunk, slot := k } = some e ∧ e.unit = some q.unit.addr ∧
        e.state = .granted ∧ e.grantStamp = h.seq + 1) ∧
      g'.seq = h.seq + 1 ∧
      g'.requests = (h.requests.filter fun c => c.unit ≠ q.unit).map fun c =>
        if h.seatedIn r.segs c.unit then
          if c.score < r.settings.max then { c with score := min (c.score + r.settings.jump) r.settings.max }
          else { c with guard := c.guard - 1, due := c.due || decide (c.guard ≤ 1) }
        else c)

/-- DROP (R76, R77, R91): a GRANTED entry is cancelled, with DENY where the GRANT was still pending and RELEASE where it
was delivered; an entry in OPENING or OPEN is sent to CLOSING; a CLOSING one stays as it is; without an entry the
command is refused STATE. A displaced GRANT counts as delivered (log entry 22). -/
def Obligations.Drop : Prop :=
  ∀ (s : State) (p : PortId) (tag tb ab : Byte) (l : List Byte) (g : Option (BitVec 16)) (i : SegId) (u : UnitId),
    s.admitsRoom p g (.unit tb ab) i → parseUnit l = some (g, .unit tb ab, (tb, ab)) → unitOf tb ab = some u →
    let h := s.hall
    let answers (g' : Hall) : Prop := exec (.drop p tag l) s =
      .next (setAnswer { s with hall := idleSweep g' } p tag .done (roomTail h i)) ∧ g'.core = h.core
    (h.entryOf u = none → exec (.drop p tag l) s = .next (setAnswer s p tag .state (roomTail h i))) ∧
    ∀ r e, h.entryOf u = some (r, e) →
      (e.state = .closing → exec (.drop p tag l) s = .next (setAnswer s p tag .done (roomTail h i))) ∧
      ((e.state = .opening ∨ e.state = .opened) → ∃ g', answers g' ∧
        g'.entry r = some { e with state := .closing, timer := none }) ∧
      (e.state = .granted → h.requestOf u = none → ∃ g', answers g' ∧
        (∀ e', g'.entry r = some e' → e'.state = .granted ∧ e'.unit ≠ some u.addr) ∧
        g'.addr u = { h.addr u with
          confirm := none,
          floorOrder := if (h.unit u).present then some (if h.grantPending u then .deny else .release)
            else (h.addr u).floorOrder })

/-- CANCEL-REQUEST (R91) and ELEVATE (R110, R111). A waiting request leaves the pool and its unit is given DENY; the
elevated mark of the room becomes the named unit's, or none with "clear". A unit that is not WAITING refuses STATE. -/
def Obligations.CancelAndElevate : Prop :=
  ∀ (s : State) (p : PortId) (tag tb ab : Byte) (g : Option (BitVec 16)) (sel : Selector) (i : SegId) (r : Room),
    s.admitsRoom p g sel i → s.hall.room i = some r →
    let h := s.hall
    let marked (m : Option UnitId) : State :=
      { s with hall := if r.elevated = m then h
        else raise .floor r.segs (h.setRoom i (some { r with elevated := m })) }
    (∀ l, parseElevate l = some (g, sel, none) →
      exec (.elevate p tag l) s = .next (setAnswer (marked none) p tag .done (roomTail h i))) ∧
    ∀ u, sel = .unit tb ab → unitOf tb ab = some u →
      (h.requestOf u = none →
        (∀ l, parseUnit l = some (g, sel, (tb, ab)) →
          exec (.cancelRequest p tag l) s = .next (setAnswer s p tag .state (roomTail h i))) ∧
        (∀ l, parseElevate l = some (g, sel, some (tb, ab)) →
          exec (.elevate p tag l) s = .next (setAnswer s p tag .state (roomTail h i)))) ∧
      (h.requestOf u ≠ none →
        (∀ l, parseElevate l = some (g, sel, some (tb, ab)) →
          exec (.elevate p tag l) s = .next (setAnswer (marked (some u)) p tag .done (roomTail h i))) ∧
        ∀ l, parseUnit l = some (g, sel, (tb, ab)) → ∃ g' : Hall,
          exec (.cancelRequest p tag l) s =
            .next (setAnswer { s with hall := idleSweep g' } p tag .done (roomTail h i)) ∧
          g'.core = h.core ∧ g'.requests = (h.requests.filter fun q => q.unit ≠ u) ∧ g'.seq = h.seq ∧
          g'.pools = h.pools ∧
          g'.addr u = { h.addr u with
            floorOrder := if (h.unit u).present then some .deny else (h.addr u).floorOrder } ∧
          ∀ v, v ≠ u → g'.addr v = h.addr v)

/-- ALL-OFF (R88), taken in every mode, frozen or not: every non-chair entry of the room in OPENING or OPEN stands in
CLOSING in its slot, the slot of a cancelled GRANTED entry is free or newly granted to another unit, and chair entries
and CLOSING ones stay as they were. -/
def Obligations.AllOff : Prop :=
  ∀ (s : State) (p : PortId) (tag : Byte) (l : List Byte) (g : Option (BitVec 16)) (sel : Selector) (i : SegId)
    (r : Room), s.admitsRoom p g sel i → parseSeg l = some (g, sel, ()) → s.hall.room i = some r →
    let h := s.hall
    ∃ g' : Hall,
      exec (.allOff p tag l) s = .next (setAnswer { s with hall := idleSweep g' } p tag .done (roomTail h i)) ∧
      g'.core = h.core ∧
      ∀ k e, h.entry k = some e → inSet r.segs e.seg = true →
        ((e.chair = true ∨ e.state = .closing) → g'.entry k = some e) ∧
        (e.chair = false → e.onAir = true → g'.entry k = some { e with state := .closing, timer := none }) ∧
        ∀ a, e.chair = false → e.state = .granted → e.unit = some a → h.requestOf { trunk := k.trunk, addr := a } = none →
          ∀ e', g'.entry k = some e' → e'.state = .granted ∧ e'.unit ≠ some a

/-- STAGE-GAIN (R164) and APPLY-GAINS (R165): a pair is added at the end of the room's area or replaces the unit's own,
its gain brought into range; an area is marked apply-pending. A pending area refuses both BUSY, and a full one without
the unit refuses FULL. Nothing but the area changes. -/
def Obligations.GainStaging : Prop :=
  ∀ (s : State) (p : PortId) (tag : Byte) (g : Option (BitVec 16)) (i : SegId) (r : Room), s.hall.room i = some r →
    let area (x : Staging) : State := { s with hall := s.hall.setRoom i (some { r with staging := x }) }
    let tail := bSeg i ++ b2 r.gen.toNat
    (∀ sel l, s.admitsRoom p g sel i → parseSeg l = some (g, sel, ()) →
      (r.staging.pending = true → exec (.applyGains p tag l) s = .next (setAnswer s p tag .busy tail)) ∧
      (r.staging.pending = false → exec (.applyGains p tag l) s =
        .next (setAnswer (area { r.staging with pending := true, applied := false }) p tag .done tail))) ∧
    ∀ tb ab n u l, s.admitsRoom p g (.unit tb ab) i → parseStageGain l = some (g, .unit tb ab, (tb, ab, n)) →
      unitOf tb ab = some u →
      let held : Prop := ∃ x ∈ r.staging.pairs, x.1 = u
      let status : Status := if 32767 < n then .doneClamped else .done
      (r.staging.pending = true → exec (.stageGain p tag l) s = .next (setAnswer s p tag .busy tail)) ∧
      (r.staging.pending = false → ¬held → 16 ≤ r.staging.pairs.length →
        exec (.stageGain p tag l) s = .next (setAnswer s p tag .full tail)) ∧
      (r.staging.pending = false → ¬held → r.staging.pairs.length < 16 → exec (.stageGain p tag l) s =
        .next (setAnswer (area { r.staging with pairs := r.staging.pairs ++ [(u, min n 32767)] }) p tag status tail)) ∧
      (r.staging.pending = false → held → exec (.stageGain p tag l) s =
        .next (setAnswer (area { r.staging with
          pairs := r.staging.pairs.map fun x => if x.1 = u then (u, min n 32767) else x }) p tag status tail))

/-- The speak limit (R94): at the warning point a unit not warned is given WARN and marked; at the limit its entry is
sent to CLOSING. The idle timer (R150): its expiry makes the room DORMANT and stops it. Where no such timer runs there
is no expiry, and the event changes nothing (log entry 3). After an event a room's idle timer runs while the room is
awake, its idle time is not 0, and it has no speaking entry, no waiting request and no LIVE booth with its mic on; it
starts from the full idle time (R149). A wake event ends dormancy with ROOM, and restarts a running idle timer (R151).
-/
def Obligations.FloorTimers : Prop :=
  (∀ (s : State) (u : UnitId),
    let h := s.hall
    let limited (r : SlotRef) (e : Entry) : Prop := h.entryOf u = some (r, e) ∧ e.timer ≠ none ∧ e.chair = false ∧
      ∃ i rm, h.roomOf e.seg = some i ∧ h.room i = some rm ∧ rm.settings.speakLimit ≠ 0
    ((∀ r e, ¬limited r e) →
      exec (.speakLimitWarning u) s = .next s ∧ exec (.speakLimitExpiry u) s = .next s) ∧
    ∀ r e, limited r e →
      ((h.unit u).warned = true → exec (.speakLimitWarning u) s = .next s) ∧
      ((h.unit u).warned = false → ∃ g, exec (.speakLimitWarning u) s = .next { s with hall := g } ∧
        g.unit u = { h.unit u with warned := true } ∧ (∀ v, v ≠ u → g.unit v = h.unit v ∧ g.addr v = h.addr v) ∧
        g.addr u = { h.addr u with
          notice := if (h.unit u).present then some .warn else (h.addr u).notice } ∧
        g.rooms = h.rooms ∧ g.requests = h.requests ∧ g.seq = h.seq ∧ g.pools = h.pools ∧
        g.rotation = h.rotation ∧ g.booths = h.booths ∧ g.radiators = h.radiators ∧ g.ports = h.ports) ∧
      ((e.state = .opening ∨ e.state = .opened) → ∃ g,
        exec (.speakLimitExpiry u) s = .next { s with hall := idleSweep g } ∧ g.core = h.core ∧
        g.entry r = some { e with state := .closing, timer := none })) ∧
  (∀ (s : State) (i : SegId),
    ((∀ r, s.hall.room i = some r → r.idle = none) → exec (.idleTimerExpiry i) s = .next s) ∧
    ∀ r, s.hall.room i = some r → r.idle ≠ none → ∃ t, exec (.idleTimerExpiry i) s = .next t ∧
      t = { s with hall := raise .room r.segs (s.hall.setRoom i (some { r with dormant := true, idle := none })) }) ∧
  ∀ (h : Hall) (i : SegId),
    let full (r : Room) : Nat := r.settings.idle * 60000
    let quiet (r : Room) : Prop :=
      (∀ q e, h.entry q = some e → inSet r.segs e.seg = false) ∧
      (∀ q ∈ h.requests, ∀ sg, (h.unit q.unit).seat = some sg → inSet r.segs sg = false) ∧
      ∀ b : BoothId, (h.booths[b]).state = .live → h.boothRoom b = some i → (h.booths[b]).mic = false
    idleSweep h = { h with rooms := (idleSweep h).rooms } ∧
    (h.room i = none → (idleSweep h).room i = none ∧ wake h i = h) ∧
    ∀ r, h.room i = some r →
      ((quiet r ∧ r.dormant = false ∧ r.settings.idle ≠ 0) →
        (idleSweep h).room i = some { r with idle := some (r.idle.getD (full r)) }) ∧
      (¬(quiet r ∧ r.dormant = false ∧ r.settings.idle ≠ 0) →
        (idleSweep h).room i = some { r with idle := none }) ∧
      (r.dormant = true → wake h i = raise .room r.segs (h.setRoom i (some { r with dormant := false }))) ∧
      (r.dormant = false → r.idle ≠ none → wake h i = h.setRoom i (some { r with idle := some (full r) })) ∧
      (r.dormant = false → r.idle = none → wake h i = h)

/-! ## Windows and radiators (Chapter 7) -/

/-- SET-WINDOW (R145): the checks in their order; the same window again is answered DONE; another is stored with the
outcome MOVED, the list kept, the dropped languages emptied and the generation one up. SET-RADIATORS (R148): the named
enables are stored, all or none. A segment named twice keeps the last enable named (log entry 7). No other record's core
changes. SET-WINDOW wakes the room (R151). On is coded 0 and off 1 (log entry 8). A radiator line is high while its room
has a window and is awake and its enable is on (R147). The channel map gives a room's first channel, its spare channels
and its languages without a provider the floor, the others their provider, and silence outside every window and in a
DORMANT room's (R140). A rebuilt room starts with the window and list of the room it continues, the other rooms' codes
added and the list cut to the window, or with its defaults (R142, R146). It is placed at its base, else at the lowest
base where its size fits, else in the longest free run, else without a window, the codes cut off being dropped (R143,
R144); the rooms are placed by descending rank and ascending id, each around those before it. -/
def Obligations.WindowAndRadiators : Prop :=
  (∀ (s : State) (p : PortId) (tag : Byte) (l : List Byte) (g : Option (BitVec 16)) (sel : Selector) (i : SegId)
    (r : Room) (base size : Nat),
    s.admitsRoom p g sel i → parseSetWindow l = some (g, sel, (base, size)) → s.hall.room i = some r →
    let refused (st : Status) : Prop :=
      exec (.setWindow p tag l) s = .next (setAnswer s p tag st (bSeg i ++ b2 r.gen.toNat))
    let inRange : Prop := base ≤ 31 ∧ 1 ≤ size ∧ size ≤ 16
    let taken : Prop := ∃ j r' c, j ≠ i ∧ s.hall.room j = some r' ∧ base ≤ c ∧ c < base + size ∧ r'.base ≤ c ∧
      c < r'.base + r'.size
    let stores (r' : Room) : Prop := ∃ h : Hall,
      exec (.setWindow p tag l) s =
        .next (setAnswer { s with hall := idleSweep h } p tag .done (bSeg i ++ b2 r'.gen.toNat)) ∧
      (h.room i).map Room.core = some r'.core ∧ (∀ j, j ≠ i → h.room j = s.hall.room j) ∧
      (h.room i).map (·.dormant) = some false ∧
      h.units = s.hall.units ∧ h.addrs = s.hall.addrs ∧ h.requests = s.hall.requests ∧ h.seq = s.hall.seq ∧
      h.pools = s.hall.pools ∧ h.rotation = s.hall.rotation ∧ h.booths = s.hall.booths ∧
      h.radiators = s.hall.radiators ∧ ∀ q : PortId, (h.ports[q]).core = (s.hall.ports[q]).core
    (¬inRange → refused .range) ∧
    (inRange → r.frozen = true → refused .state) ∧
    (inRange → r.frozen = false → 32 < base + size → refused .range) ∧
    (inRange → r.frozen = false → base + size ≤ 32 → size < 1 + r.langs.length → refused .full) ∧
    (inRange → r.frozen = false → base + size ≤ 32 → 1 + r.langs.length ≤ size → taken → refused .overlap) ∧
    (inRange → r.frozen = false → base + size ≤ 32 → 1 + r.langs.length ≤ size → ¬taken →
      stores (if base = r.base ∧ size = r.size then r
        else { r with base := base, size := size, placement := .moved, dropped := [], gen := r.gen + 1 }))) ∧
  (∀ (s : State) (p : PortId) (tag : Byte) (l : List Byte) (ps : List (Byte × Byte)), s.admits p [.venue] →
    parseRadiators l = some ps →
    ((∃ x ∈ ps, 7 < x.1.toNat ∨ 1 < x.2.toNat) →
      exec (.setRadiators p tag l) s = .next (setAnswer s p tag .range [])) ∧
    ∀ items : List (SegId × Bool),
      ps = (items.map fun x => (BitVec.ofNat 8 x.1.val, if x.2 then 0 else 1)) → ∃ h : Hall,
        exec (.setRadiators p tag l) s = .next (setAnswer { s with hall := h } p tag .done []) ∧
        h.radiators = (items.foldl (fun v x => put v x.1 x.2) s.hall.radiators) ∧ h.rooms = s.hall.rooms ∧
        h.units = s.hall.units ∧ h.addrs = s.hall.addrs ∧ h.requests = s.hall.requests ∧ h.seq = s.hall.seq ∧
        h.pools = s.hall.pools ∧ h.rotation = s.hall.rotation ∧ h.booths = s.hall.booths ∧
        ∀ q : PortId, (h.ports[q]).core = (s.hall.ports[q]).core) ∧
  (∀ (h : Hall) (sg : SegId), h.radiatorLine sg = true ↔ ∃ i r, h.roomOf sg = some i ∧ h.room i = some r ∧ 0 < r.size ∧
    r.dormant = false ∧ h.radiators[sg] = true) ∧
  (∀ (h : Hall) (c : Nat),
    let covers (i : SegId) (r : Room) : Prop := h.room i = some r ∧ r.base ≤ c ∧ c < r.base + r.size
    ((∀ i r, ¬covers i r) → h.content c = .silence) ∧
    ∀ i r, covers i r → (∀ j r', covers j r' → j = i) →
      let code := r.langs[c - r.base - 1]?
      (r.dormant = true → h.content c = .silence) ∧
      (r.dormant = false → (c = r.base ∨ code = none) → h.content c = .floor i) ∧
      (r.dormant = false → c ≠ r.base → ∀ n, code = some n →
        ((∀ b ∈ h.liveBooths i, (h.booths[b]).output ≠ n) → h.content c = .floor i) ∧
        ∀ b ∈ h.liveBooths i, (h.booths[b]).output = n →
          (∀ b' ∈ h.liveBooths i, (h.booths[b']).output = n → b ≤ b') → h.content c = .lang b)) ∧
  (∀ (sc : Scanner) (h : Hall) (m : MapRoom),
    let d := sc.defaults[m.lead]
    let start (base size : Nat) (l : List Nat) : Plan :=
      { id := m.id, rank := sc.ranks[m.lead], base := base, size := size, langs := l.take (size - 1),
        placement := .asBase, dropped := l.drop (size - 1) }
    freshPlan sc m = start d.base d.size d.wanted ∧
    ((∀ j r, h.room j = some r → r.lead ≠ m.lead) → startPlan sc h m = start d.base d.size d.wanted) ∧
    ∀ i r, h.room i = some r → r.lead = m.lead → (∀ j r', h.room j = some r' → r'.lead = m.lead → j = i) →
      let others := allSegIds.flatMap fun j => match h.room j with
        | some r' => if j ≠ i ∧ (r'.segs &&& m.segs) ≠ 0 then r'.langs else []
        | none => []
      let l := r.langs ++ (others.filter fun c => !r.langs.contains c).eraseDups
      startPlan sc h m = if r.size = 0 then start d.base d.size l else start r.base r.size l) ∧
  (∀ (taken : List (Nat × Nat)) (p : Plan),
    let fits (base size : Nat) : Prop := base + size ≤ 32 ∧
      ∀ c, base ≤ c → c < base + size → ∀ w ∈ taken, c < w.1 ∨ w.1 + w.2 ≤ c
    let q := placePlan taken p
    (fits p.base p.size → q = { p with placement := .asBase }) ∧
    (¬fits p.base p.size → ∀ b, b < 32 → fits b p.size → (∀ b', b' < b → ¬fits b' p.size) →
      q = { p with base := b, placement := .relocated }) ∧
    ((∀ b, ¬fits b p.size) →
      (∀ b n, 0 < n → fits b n → (∀ b' n', fits b' n' → n' ≤ n ∧ (n' = n → b ≤ b')) →
        q = { p with
          base := b, size := n, langs := p.langs.take (n - 1), placement := .shrunk,
          dropped := p.dropped ++ p.langs.drop (n - 1) }) ∧
      ((∀ b, ¬fits b 1) → q =
        { p with size := 0, langs := [], placement := .noWindow, dropped := p.dropped ++ p.langs }))) ∧
  ∀ (taken : List (Nat × Nat)) (ps : List Plan), ∃ order : List Plan, order.Perm ps ∧
    order.Pairwise (fun a b => b.rank < a.rank ∨ (a.rank = b.rank ∧ a.id ≤ b.id)) ∧
    (placeWindows taken ps).length = order.length ∧
    ∀ k p, order[k]? = some p → (placeWindows taken ps)[k]? = some
      (placePlan ((((placeWindows taken ps).take k).map fun x => (x.base, x.size)).reverse ++ taken) p)

/-! ## Booths (Chapter 6) -/

/-- DEFINE-BOOTH (R120): the refusals in their order; the record written with side A, source FLOOR, no pin and both
flags clear, the mic and the gain kept, and the state from the definition; and BOOTH raised for the booth's room before
and after (R138). -/
def Obligations.DefineBooth : Prop :=
  ∀ (s : State) (p : PortId) (tag bb : Byte) (l : List Byte), s.admits p [.desk, .venue] →
    let refused (st : Status) : Prop := exec (.defineBooth p tag l) s = .next (setAnswer s p tag st [])
    let stores (b : BoothId) (y : Booth) : Prop := ∃ h : Hall,
      exec (.defineBooth p tag l) s = .next (setAnswer { s with hall := h } p tag .done []) ∧
      h.booths = put s.hall.booths b y ∧ h.rooms = s.hall.rooms ∧ h.units = s.hall.units ∧
      h.addrs = s.hall.addrs ∧ h.requests = s.hall.requests ∧ h.seq = s.hall.seq ∧ h.pools = s.hall.pools ∧
      h.rotation = s.hall.rotation ∧ h.radiators = s.hall.radiators ∧
      (s.hall.signalled h .booth fun z => z = s.hall.segsAt (s.hall.boothRoom b) ||| h.segsAt (h.boothRoom b)) ∧
      ∀ q : PortId, (h.ports[q]).core = (s.hall.ports[q]).core
    (parseDefineBooth l = some (bb, .undefine) →
      (idOf 12 bb = none → refused .range) ∧
      ∀ b, idOf 12 bb = some b →
        let x := s.hall.booths[b]
        (x.state = .live → refused .state) ∧
        (x.state ≠ .live → stores b
          { defined := false, home := none, langA := 0, langB := 0, passive := [], side := .a, state := .unassigned,
            mic := x.mic, gain := x.gain, source := .floor, pin := none, noPivot := false, displaced := false })) ∧
    ∀ (home la lb : Byte) (ps : List Nat), parseDefineBooth l = some (bb, .team home la lb ps) →
      let codes := la.toNat :: ((if lb = 0 then [] else [lb.toNat]) ++ ps)
      let inRange : Prop := idOf 12 bb ≠ none ∧ idOrNamed 8 home ≠ none ∧ 1 ≤ la.toNat ∧ la.toNat ≤ 63 ∧
        lb.toNat ≤ 63 ∧ ∀ c ∈ ps, 1 ≤ c ∧ c ≤ 63
      (¬inRange → refused .range) ∧
      (inRange → 2 < ps.length → refused .full) ∧
      (inRange → ps.length ≤ 2 → ¬codes.Nodup → refused .duplicate) ∧
      (inRange → ps.length ≤ 2 → codes.Nodup → ∀ b sg, idOf 12 bb = some b → idOrNamed 8 home = some sg →
        let x := s.hall.booths[b]
        (x.state = .live → refused .state) ∧
        (x.state ≠ .live → stores b
          { defined := true, home := sg, langA := la.toNat, langB := lb.toNat, passive := ps, side := .a,
            state := if sg = none then .unassigned else .standby, mic := x.mic, gain := x.gain, source := .floor,
            pin := none, noPivot := false, displaced := false }))

/-- BOOTH-STATE (R121 to R123, R138). In both cases relay is then re-evaluated in the room, which leaves its booths as
RelayIsSound says, and BOOTH is raised for the room. A booth of a room goes LIVE unless another LIVE booth there outputs
its language or the list has no index for it; the language is appended where it is new, with the generation one up. A
LIVE booth stands by with its source FLOOR, its pin and no-pivot flag clear, and no booth is left pinned to it or
relaying from it. A booth that goes LIVE with its mic on, or appends its language, wakes the room (R151); ROOM is raised
where the language is appended or the room was DORMANT and is woken. LIVE is coded 0 and STANDBY 1 (log entry 8). -/
def Obligations.BoothState : Prop :=
  ∀ (s : State) (p : PortId) (tag bb tb : Byte), s.admits p [.desk, .venue] →
    let refused (st : Status) : Prop := exec (.boothState p tag [bb, tb]) s = .next (setAnswer s p tag st [])
    ((idOf 12 bb = none ∨ 1 < tb.toNat) → refused .range) ∧
    ∀ b, idOf 12 bb = some b → tb.toNat ≤ 1 →
      let x := s.hall.booths[b]
      ((s.hall.boothRoom b = none ∨ x.state = .unassigned) → refused .state) ∧
      ∀ i r, s.hall.boothRoom b = some i → s.hall.room i = some r → x.state ≠ .unassigned →
        let unchanged : Prop := exec (.boothState p tag [bb, tb]) s = .next (setAnswer s p tag .done [])
        let answers (g : Hall) : Prop :=
          exec (.boothState p tag [bb, tb]) s = .next (setAnswer { s with hall := idleSweep g } p tag .done []) ∧
          (∀ c, c ≠ b → (g.booths[c]).core = (s.hall.booths[c]).core) ∧
          (∀ j, j ≠ i → g.room j = s.hall.room j) ∧ g.units = s.hall.units ∧ g.addrs = s.hall.addrs ∧
          g.requests = s.hall.requests ∧ g.seq = s.hall.seq ∧ g.pools = s.hall.pools ∧
          g.rotation = s.hall.rotation ∧ g.radiators = s.hall.radiators ∧
          ∀ q : PortId, (g.ports[q]).core = (s.hall.ports[q]).core
        let clash : Prop := ∃ c, c ≠ b ∧ c ∈ s.hall.liveBooths i ∧ (s.hall.booths[c]).output = x.output
        let full : Prop := x.output ∉ r.langs ∧ r.size ≤ r.langs.length + 1
        (tb = 0 → x.state = .live → unchanged) ∧
        (tb = 0 → x.state = .standby → clash → refused .duplicate) ∧
        (tb = 0 → x.state = .standby → ¬clash → full → refused .full) ∧
        (tb = 0 → x.state = .standby → ¬clash → ¬full → ∃ g, answers g ∧
          (g.booths[b]).core = { x with state := .live, displaced := false }.core ∧
          g.booths = (reevaluate
            { s.hall with booths := put s.hall.booths b { x with state := .live, displaced := false } } i).booths ∧
          (s.hall.signalled g .booth fun z => z = r.segs) ∧
          (s.hall.signalled g .room fun z => z = r.segs ∧ (x.output ∉ r.langs ∨ (x.mic = true ∧ r.dormant = true))) ∧
          (g.room i).map Room.core = some (if x.output ∈ r.langs then r
            else { r with langs := r.langs ++ [x.output], gen := r.gen + 1 }).core ∧
          ((x.mic = true ∨ x.output ∉ r.langs) → (g.room i).map (·.dormant) = some false)) ∧
        (tb = 1 → x.state = .standby → unchanged) ∧
        (tb = 1 → x.state = .live → ∃ g, answers g ∧ (g.booths[b]).core = { x with state := .standby }.core ∧
          (g.booths[b]).source = .floor ∧ (g.booths[b]).pin = none ∧ (g.booths[b]).noPivot = false ∧
          (∀ c : BoothId, (g.booths[c]).source ≠ .booth b ∧ (g.booths[c]).pin ≠ some (.booth b)) ∧
          g.room i = some r ∧ (s.hall.signalled g .booth fun z => z = r.segs) ∧
          ∃ y : Vector Booth 12, g.booths = (reevaluate { s.hall with booths := y } i).booths ∧
            y[b] = { x with state := .standby, source := .floor, pin := none, noPivot := false } ∧
            ∀ c : BoothId, c ≠ b → y[c] =
              { s.hall.booths[c] with
                pin := if (s.hall.booths[c]).pin = some (.booth b) then none else (s.hall.booths[c]).pin,
                source := if (s.hall.booths[c]).source = .booth b then .floor else (s.hall.booths[c]).source })

/-- BOOTH-OUTPUT (R124), BOOTH-MIC and BOOTH-GAIN (R125): the side is stored where the booth has it, for a LIVE booth
under the checks of R121 and with its language appended where it is new; the mic and the gain are stored in every state,
the gain brought into range. For a LIVE booth's new side relay is re-evaluated in the room (R127), and a changed side or
mic raises BOOTH for the booth's room (R138). A mic turned on, and a language appended, wake the booth's room (R151). On
is coded 0 and off 1 (log entry 8). -/
def Obligations.BoothSettings : Prop :=
  ∀ (s : State) (p : PortId) (tag bb vb hi lo : Byte), s.admits p [.desk, .venue] →
    let output := exec (.boothOutput p tag [bb, vb]) s
    let mic := exec (.boothMic p tag [bb, vb]) s
    let gain := exec (.boothGain p tag [bb, hi, lo]) s
    ((idOf 12 bb = none ∨ 1 < vb.toNat) →
      output = .next (setAnswer s p tag .range []) ∧ mic = .next (setAnswer s p tag .range [])) ∧
    (idOf 12 bb = none → gain = .next (setAnswer s p tag .range [])) ∧
    ∀ b, idOf 12 bb = some b →
      let x := s.hall.booths[b]
      gain = .next (setAnswer
        { s with hall := { s.hall with
            booths := put s.hall.booths b { x with gain := min (wordOf hi lo) 32767 } } }
        p tag (if wordOf hi lo ≤ 32767 then .done else .doneClamped) []) ∧
      (∀ on : Bool, ((vb = 0 ∧ on = true) ∨ (vb = 1 ∧ on = false)) → ∃ g : Hall,
        mic = .next (setAnswer { s with hall := idleSweep g } p tag .done []) ∧
        g.booths = put s.hall.booths b { x with mic := on } ∧
        (s.hall.signalled g .booth fun z => x.mic ≠ on ∧ z = s.hall.segsAt (s.hall.boothRoom b)) ∧
        (∀ i, (g.room i).map Room.core = (s.hall.room i).map Room.core) ∧
        (∀ i rm, on = true → x.mic = false → s.hall.boothRoom b = some i → g.room i = some rm → rm.dormant = false) ∧
        g.units = s.hall.units ∧
        g.addrs = s.hall.addrs ∧ g.requests = s.hall.requests ∧ g.seq = s.hall.seq ∧ g.pools = s.hall.pools ∧
        g.rotation = s.hall.rotation ∧ g.radiators = s.hall.radiators ∧
        ∀ q : PortId, (g.ports[q]).core = (s.hall.ports[q]).core) ∧
      ∀ side, ((vb = 0 ∧ side = Side.a) ∨ (vb = 1 ∧ side = .b)) →
        let y : Booth := { x with side := side }
        ((x.defined = false ∨ (side = .b ∧ x.langB = 0)) → output = .next (setAnswer s p tag .state [])) ∧
        (x.defined = true → (side = .b → x.langB ≠ 0) →
          (side = x.side → output = .next (setAnswer s p tag .done [])) ∧
          (side ≠ x.side → x.state ≠ .live → ∃ g : Hall,
            output = .next (setAnswer { s with hall := g } p tag .done []) ∧
            g.booths = put s.hall.booths b y ∧ g.rooms = s.hall.rooms ∧ g.units = s.hall.units ∧
            g.pools = s.hall.pools ∧ g.requests = s.hall.requests ∧
            (s.hall.signalled g .booth fun z => z = s.hall.segsAt (s.hall.boothRoom b)) ∧
            ∀ q : PortId, (g.ports[q]).core = (s.hall.ports[q]).core) ∧
          ∀ i r, side ≠ x.side → x.state = .live → s.hall.boothRoom b = some i → s.hall.room i = some r →
            let clash : Prop := ∃ c, c ≠ b ∧ c ∈ s.hall.liveBooths i ∧ (s.hall.booths[c]).output = y.output
            let full : Prop := y.output ∉ r.langs ∧ r.size ≤ r.langs.length + 1
            (clash → output = .next (setAnswer s p tag .duplicate [])) ∧
            (¬clash → full → output = .next (setAnswer s p tag .full [])) ∧
            (¬clash → ¬full → ∃ g : Hall,
              output = .next (setAnswer { s with hall := idleSweep g } p tag .done []) ∧
              g.booths = (reevaluate { s.hall with booths := put s.hall.booths b y } i).booths ∧
              (s.hall.signalled g .booth fun z => z = r.segs) ∧
              (s.hall.signalled g .room fun z => z = r.segs ∧ y.output ∉ r.langs) ∧
              (g.booths[b]).core = y.core ∧ (∀ c, c ≠ b → (g.booths[c]).core = (s.hall.booths[c]).core) ∧
              (g.room i).map Room.core = some (if y.output ∈ r.langs then r
                else { r with langs := r.langs ++ [y.output], gen := r.gen + 1 }).core ∧
              (y.output ∉ r.langs → (g.room i).map (·.dormant) = some false) ∧
              (∀ j, j ≠ i → g.room j = s.hall.room j) ∧ g.units = s.hall.units ∧ g.pools = s.hall.pools ∧
              g.requests = s.hall.requests))

/-- PIN-SOURCE (R131) and UNPIN-SOURCE (R132): the checks in their order; a pin to FLOOR, or to a booth of the floor
set, becomes the booth's pin and its source; a pin is cleared; and in both cases relay is then re-evaluated in the room
(R127), which leaves its booths, and raises BOOTH, as RelayIsSound says (log entry 19). What is already so changes
nothing. -/
def Obligations.PinAndUnpin : Prop :=
  ∀ (s : State) (p : PortId) (tag bb tb : Byte), s.admits p [.desk, .venue] →
    let h := s.hall
    let refused (st : Status) : Prop := exec (.pinSource p tag [bb, tb]) s = .next (setAnswer s p tag st [])
    let relaid (g : Hall) : Prop := (∀ c : BoothId, (g.booths[c]).core = (h.booths[c]).core) ∧ g.rooms = h.rooms ∧
      g.units = h.units ∧ g.addrs = h.addrs ∧ g.requests = h.requests ∧ g.seq = h.seq ∧ g.pools = h.pools ∧
      g.rotation = h.rotation ∧ g.radiators = h.radiators ∧ ∀ q : PortId, (g.ports[q]).core = (h.ports[q]).core
    (idOf 12 bb = none → refused .range ∧
      exec (.unpinSource p tag [bb]) s = .next (setAnswer s p tag .range [])) ∧
    ((12 ≤ tb.toNat ∧ tb ≠ 255) → refused .range) ∧
    ∀ b, idOf 12 bb = some b →
      let x := h.booths[b]
      (x.pin = none → exec (.unpinSource p tag [bb]) s = .next (setAnswer s p tag .done [])) ∧
      (x.pin ≠ none → ∃ g, exec (.unpinSource p tag [bb]) s = .next (setAnswer { s with hall := g } p tag .done []) ∧
        (g.booths[b]).pin = none ∧ relaid g ∧
        let unpinned : Hall := { h with booths := put h.booths b { x with pin := none } }
        (h.boothRoom b = none → g = unpinned) ∧ ∀ i, h.boothRoom b = some i → g = reevaluate unpinned i) ∧
      ((tb.toNat < 12 ∨ tb = 255) → x.state ≠ .live → refused .state) ∧
      ∀ i r, x.state = .live → h.boothRoom b = some i → h.room i = some r →
        let answers (src : Source) : Prop := ∃ g,
          exec (.pinSource p tag [bb, tb]) s = .next (setAnswer { s with hall := g } p tag .done []) ∧
          g = reevaluate { h with booths := put h.booths b { x with pin := some src, source := src } } i ∧
          (g.booths[b]).pin = some src ∧ (g.booths[b]).source = src ∧ (g.booths[b]).noPivot = false ∧ relaid g
        let unchanged : Prop := exec (.pinSource p tag [bb, tb]) s = .next (setAnswer s p tag .done [])
        (tb = 255 → x.pin = some .floor → unchanged) ∧
        (tb = 255 → x.pin ≠ some .floor → answers .floor) ∧
        ∀ t, idOf 12 tb = some t →
          let y := h.booths[t]
          let refusal : Option Status :=
            if t = b then some .loop
            else if h.floorMatched b then some .state
            else if t ∉ h.liveBooths i then some .state
            else if y.source ≠ .floor then some .loop
            else if y.noPivot then some .state
            else if ∃ c : BoothId, c ≠ b ∧ (h.booths[c]).source = .booth b then some .state
            else none
          (∀ st, refusal = some st → refused st) ∧
          (refusal = none → x.pin = some (.booth t) → unchanged) ∧
          (refusal = none → x.pin ≠ some (.booth t) →
            (y.pin = some .floor ∨ (y.pin = none ∧ (r.floorLang = 0 ∨ y.understood.contains r.floorLang = true))) →
            answers (.booth t))

/-! ## The mix engine (Chapter 8) -/

/-- RAMP_END (R157) and MIX_BLOCK_END (R160). A ramp ends with e at its target: an OPENING entry enters OPEN; a CLOSING
entry at 0 leaves its slot and stays in the latched set (R167), its unit is given RELEASE, its slot is handed on, and
DRAIN is tested for its end; any other entry stays. At a block end the rooms that clipped count once, with CLIP, and the
block is over. Without a ramp or a block the events change nothing (log entry 3). A freed slot goes to the oldest chair
request on its trunk in an unfrozen room (R85, step 1); else an OVERRIDE room under its limit whose entry freed it
serves its requests (R84; R85, step 2), and the slot is spent; else an eligible room whose entry freed it runs its
arbiter (R112); else, or where that run left the slot free, the trunk's rotation takes it: the rooms from the one after
the rotation pointer, each eligible one running its arbiter, until one takes a slot of the trunk, to which the pointer
then moves (R101, R113). Where the event let the room's count fall, its grant handling runs in any case (R82, R114).
Whether a run left the slot free is judged by the trunk's count of free slots (log entry 10). -/
def Obligations.RampAndBlockEnd : Prop :=
  (∀ (s : State) (r : SlotRef),
    ((∀ e, s.hall.entry r = some e → e.ramp = none) → exec (.rampEnd r.trunk r.slot) s = .next s) ∧
    ∀ e rp, s.hall.entry r = some e → e.ramp = some rp →
      let ended : Entry := { e with e := rp.target, ramp := none }
      ((e.state = .granted ∨ e.state = .opened ∨ (e.state = .closing ∧ rp.target ≠ 0)) →
        exec (.rampEnd r.trunk r.slot) s = .next { s with hall := s.hall.setEntry r (some ended) }) ∧
      (e.state = .opening → exec (.rampEnd r.trunk r.slot) s = .next
        { s with hall :=
            idleSweep (raiseAt .floor e.seg (s.hall.setEntry r (some { ended with state := .opened }))) }) ∧
      (e.state = .closing → rp.target = 0 → ∃ t, exec (.rampEnd r.trunk r.slot) s = .next t ∧
        (∀ e', t.hall.entry r = some e' → e'.state = .granted) ∧ t.hall.core = s.hall.core ∧
        (∀ a, e.unit = some a →
          let u : UnitId := { trunk := r.trunk, addr := a }
          (s.hall.unit u).present = true → s.hall.requestOf u = none →
            (t.hall.addr u).floorOrder = some .release) ∧
        (∃ h1 h2 : Hall, h1 = raiseAt .floor e.seg (s.hall.setEntry r none) ∧
          (e.unit = none → h2 = h1) ∧
          (∀ a, e.unit = some a →
            let u : UnitId := { trunk := r.trunk, addr := a }
            h2 = alignSeat (if (s.hall.unit u).present then
              h1.setAddr u { h1.addr u with floorOrder := some .release } else h1) u) ∧
          t.hall = idleSweep (handOn h2 [r.trunk] (s.hall.roomOf e.seg) false)) ∧
        t.regroup = { s.regroup with
          state := if s.regroup.state = .drain ∧ closingInFrozen t.hall = false then .commitWait
            else s.regroup.state } ∧
        t.mix = { s.mix with rooms := t.mix.rooms } ∧
        (∀ i : SegId, t.mix.rooms[i] = (s.mix.rooms[i]).map fun x => { x with
          entries := x.entries.map fun y =>
            if y.ref = r ∧ y.left = none then { y with left := some e.unit } else y }) ∧
        t.scanner = s.scanner ∧ t.trunks = s.trunks ∧ t.pending = s.pending)) ∧
  (∀ s : State,
    (s.mix.block = none → exec .mixBlockEnd s = .next s) ∧
    (s.mix.block ≠ none → ∃ t, exec .mixBlockEnd s = .next t ∧
      t.mix = { s.mix with block := none, clipped := Vector.replicate 8 false } ∧
      (∀ i : SegId, t.hall.room i = (s.hall.room i).map fun r =>
        if s.mix.clipped[i] then { r with clip := min 65535 (r.clip + 1) } else r) ∧
      t.hall.units = s.hall.units ∧ t.hall.requests = s.hall.requests ∧ t.hall.pools = s.hall.pools ∧
      t.hall.booths = s.hall.booths ∧ (∀ q : PortId, (t.hall.ports[q]).core = (s.hall.ports[q]).core) ∧
      (∀ (i : SegId) (r : Room) (q : PortId), s.mix.clipped[i] = true → s.hall.room i = some r →
        portTakes s.hall.ports[q] .clip r.segs = true → (s.hall.ports[q]).mask &&& 0x20 ≠ 0 →
        (t.hall.ports[q]).flags &&& 0x20 ≠ 0) ∧
      t.scanner = s.scanner ∧ t.regroup = s.regroup ∧ t.trunks = s.trunks ∧ t.pending = s.pending)) ∧
  (∀ (h : Hall) (t : TrunkId),
    (∀ u, u ∈ chairRequests h t ↔ u.trunk = t ∧ ∃ q i, q ∈ h.requests ∧ q.unit = u ∧ q.cls = .chair ∧
      h.unitRoom u = some i ∧ h.frozen i = false) ∧
    (∀ base : Stamp, (∀ q ∈ h.requests, (q.stamp - base).toNat < 2 ^ 31) → ∀ u us, chairRequests h t = u :: us →
      ∃ q ∈ h.requests, q.unit = u ∧ q.cls = .chair ∧ ∀ q' ∈ h.requests, q'.cls = .chair →
        q'.unit ∈ chairRequests h t → (q.stamp - base).toNat ≤ (q'.stamp - base).toNat) ∧
    ∀ i r, h.room i = some r →
      let able : Prop := r.frozen = false ∧ h.count i < r.settings.openLimit ∧
        ∃ q ∈ h.requests, h.seatedIn r.segs q.unit = true ∧ q.unit.trunk = t
      (overrideClaims h i t = true ↔ (r.settings.mode = .override ∧ able)) ∧
      (eligible h i t = true ↔ (r.settings.mode = .auto ∧ able))) ∧
  (∀ (h : Hall) (t : TrunkId) (owner : Option SegId) (fell : Bool),
    let g := handOn h [t] owner fell
    let handled (x : Hall) : Hall := if fell then grantHandlingAt x owner else x
    let takenOr (h2 : Hall) : Prop :=
      (h2.freeCount t < h.freeCount t → g = h2) ∧ (h.freeCount t ≤ h2.freeCount t → g = rotateSlot owner h2 t)
    (∀ u us, chairRequests h t = u :: us → g = handled (grantUnit h u none)) ∧
    (chairRequests h t = [] →
      (∀ i, owner = some i → overrideClaims h i t = true → g = overrideService h i) ∧
      (∀ i, owner = some i → eligible h i t = true → takenOr (arbiterRun h i)) ∧
      ((∀ i, owner = some i → overrideClaims h i t = false ∧ eligible h i t = false) → takenOr (handled h)))) ∧
  ∀ (h : Hall) (t : TrunkId) (owner : Option SegId),
    rotationOrder h.rotation[t] = ((List.finRange 8).map fun k => h.rotation[t] + 1 + k) ∧
    (h.freeCount t = 0 → rotateSlot owner h t = h) ∧
    (h.freeCount t ≠ 0 → rotateSlot owner h t = rotate t owner (rotationOrder h.rotation[t]) h) ∧
    rotate t owner [] h = h ∧
    ∀ (i : SegId) (rest : List SegId),
      let h' := arbiterRun h i
      ((owner = some i ∨ eligible h i t = false) → rotate t owner (i :: rest) h = rotate t owner rest h) ∧
      (owner ≠ some i → eligible h i t = true →
        (h'.freeCount t < h.freeCount t → rotate t owner (i :: rest) h = { h' with rotation := put h'.rotation t i }) ∧
        (h.freeCount t ≤ h'.freeCount t → rotate t owner (i :: rest) h = rotate t owner rest h'))

/-- MIX_BLOCK_START completes in every state (R153, R154). In order: what the block before still owes is done (R157,
R160; log entry 6, by which a start in mid-block ends that block); a pending REINIT is applied (R48, R179), or else the
commit that waits is made (R38 to R45, with the floor refiled by R40 to R42 and the booths reassigned by R134 and R135),
or neither; the pending gain applies are made (R165; log entry 29) and the CLOSING entries that end here leave their
slots (R157; log entries 16 and 30); and the block is latched from the records, with the ramps it starts (R154, R155,
R161). Each of the four states is the one its part gives, so that what REINIT or the commit leaves of requests, orders,
slots, marks and flags stands in the answered state as State.prepared and State.latched keep it. After a commit the
rooms of the active map are those of the old pending map, where the two maps agree outside the affected set (R38).
Afterwards the block count is one up, the latched values are the records', and no apply and no REINIT is left pending; a
commit that waited is made, and without one, without a REINIT and without a ramp end that ends DRAIN, the map stays,
also where a CLOSING entry that ends at this block start ends DRAIN: its commit is made at the next block start, which
is the model's reading (log entry 20); and a pending area's gains are in the unit table. -/
def Obligations.MixBlockStart : Prop :=
  ∀ s : State, ∃ s1 s2 s3 t : State, exec .mixBlockStart s = .next t ∧
    s.settled s1 ∧ s2 = applyPending s1 ∧
    ((∃ p : PortId, (s1.hall.ports[p]).reinitPending = true) → s1.reinited s2) ∧
    ((∀ p : PortId, (s1.hall.ports[p]).reinitPending = false) → s1.regroup.state = .commitWait → s1.committed s2) ∧
    ((∀ p : PortId, (s1.hall.ports[p]).reinitPending = false) → s1.regroup.state ≠ .commitWait → s2 = s1) ∧
    s2.prepared s3 ∧ s3.latched t ∧
    t.mix.blockCount = s.mix.blockCount + 1 ∧ t.mix.block = some 0 ∧
    (∀ i : SegId, t.mix.rooms[i] = (t.hall.room i).map (latchRoom t.hall i)) ∧
    (∀ b : BoothId, t.mix.booths[b] = latchBooth t.hall b) ∧ (∀ c : Fin 32, t.mix.chans[c] = t.hall.content c.val) ∧
    (∀ i r, t.hall.room i = some r → r.staging.pending = false) ∧
    (∀ p : PortId, (t.hall.ports[p]).reinitPending = false) ∧
    t.scanner = s.scanner ∧ t.trunks = s.trunks ∧ t.pending = s.pending ∧
    ((∀ p : PortId, (s.hall.ports[p]).reinitPending = false) →
      (s.regroup.state = .commitWait →
        t.regroup.isOpen = false ∧ t.regroup.affected = 0 ∧ t.regroup.pendingMap = t.hall.activeMap ∧
        (t.regroup.state = if atRest s.scanner then .steady else .settling) ∧
        ((s.regroup.pendingMap.Pairwise fun a b => a.id < b.id) →
          (∀ i y, (y &&& s.regroup.affected) = 0 →
            ((∃ r, s.hall.room i = some r ∧ r.segs = y) ↔ ∃ m ∈ s.regroup.pendingMap, m.id = i ∧ m.segs = y)) →
          (t.hall.activeMap.map fun m => (m.id, m.segs)) = s.regroup.pendingMap.map fun m => (m.id, m.segs))) ∧
      (s.regroup.state ≠ .commitWait →
        (s.regroup.state = .drain → ∀ r e, s.hall.entry r = some e → ¬e.owesEnd) →
        (∀ i, (t.hall.room i).map (fun r => (r.segs, r.lead, r.gen, r.settings, r.langs)) =
          (s.hall.room i).map fun r => (r.segs, r.lead, r.gen, r.settings, r.langs)) ∧
        ∀ i r u n, s.hall.room i = some r → r.staging.pending = true → (u, n) ∈ r.staging.pairs →
          (∀ x ∈ r.staging.pairs, x.1 = u → x.2 = n) →
          (∀ j r', j ≠ i → s.hall.room j = some r' → r'.staging.pending = true → ∀ x ∈ r'.staging.pairs, x.1 ≠ u) →
          (t.hall.unit u).gain = n))

/-- R156 and R158: the value of a ramp, the advance of a running ramp by one position in a sample, the NOM factors, and
the coefficient of a mixed entry. -/
def Obligations.MixArithmetic : Prop :=
  (∀ start target len k : Nat, 0 < len → k ≤ len →
    let d : Int := target - start
    (0 ≤ d → (rampAt start target len k : Int) = start + (d * k + (len / 2 : Nat)) / len) ∧
    (d < 0 → (rampAt start target len k : Int) = start - (-d * k + (len / 2 : Nat)) / len) ∧
    rampAt start target len len = target ∧
    min start target ≤ rampAt start target len k ∧ rampAt start target len k ≤ max start target ∧
    rampAt 0 target len k = (target * k + len / 2) / len ∧
    rampAt start 0 len k = start - (start * k + len / 2) / len) ∧
  (∀ e : Entry, e.ramp = none → e.advance = e) ∧
  (∀ (e : Entry) (rp : Ramp), e.ramp = some rp → rp.pos < rp.len → e.advance =
    { e with
      e := rampAt rp.start rp.target rp.len (rp.pos + 1), ramp := some { rp with pos := rp.pos + 1 } }) ∧
  (nom 1 = 16384 ∧ nom 2 = 11585 ∧ nom 3 = 9459 ∧ nom 4 = 8192 ∧ nom 5 = 7327 ∧ nom 6 = 6689 ∧ nom 7 = 6193 ∧
    ∀ n, 8 ≤ n → nom n = 5793) ∧
  (∀ n, 1 ≤ n → n ≤ 8 → (2 * nom n - 1) ^ 2 * n ≤ 4 * 16384 ^ 2 ∧ 4 * 16384 ^ 2 < (2 * nom n + 1) ^ 2 * n) ∧
  (∀ e n g : Nat, coefficient e n g = min 32767 ((e * nom n * g + 2 ^ 27) / 2 ^ 28) ∧ coefficient e n g ≤ 32767) ∧
  coefficient 16384 1 16384 = 16384 ∧ (32767 * nom 1 * 32767 + 2 ^ 27) / 2 ^ 28 = 65532 ∧
  coefficient 32767 1 32767 = 32767

/-- WORD_CLOCK_PERIOD: one sample (R153, R156, R159, R162, R163). It belongs to the block in progress, or is the first
of a block that starts with it (log entry 6). Every ramp advances, a channel's ending with its last sample (R161); each
room's floor is the rounded and saturated sum of its entries' samples by their coefficients; each LIVE booth's channel
mixes its voice and its room's floor; and each output carries what the latch gives it. -/
def Obligations.WordClockPeriod : Prop :=
  (∀ c : ChState,
    (c.ramp = none → c.advance = c) ∧
    ∀ rp, c.ramp = some rp → c.advance =
      { v := rampAt rp.startV rp.targetV rp.len (rp.pos + 1), d := rampAt rp.startD rp.targetD rp.len (rp.pos + 1),
        ramp := if rp.len ≤ rp.pos + 1 then none else some { rp with pos := rp.pos + 1 } }) ∧
  ∀ (x : AudioIn) (s : State), ∃ (s1 : State) (n : Nat) (t : State),
    (∀ m, s.mix.block = some m → m < 48 → s1 = s ∧ n = m) ∧
    ((∀ m, s.mix.block = some m → 48 ≤ m) → exec .mixBlockStart s = .next s1 ∧ n = 0) ∧
    exec (.wordClockPeriod x) s = .next t ∧
    let sat (v : Int) : Int := max (-8388608) (min v 8388607)
    let sample (r : SlotRef) : Int :=
      match (s1.trunks[r.trunk]).state with
      | .unpowered => 0
      | .tripped => 0
      | _ => ((x.slots[r.trunk])[r.slot]).toInt
    let gain (r : SlotRef) : Nat := match t.hall.entry r with | some e => e.e | none => 0
    let raw (i : SegId) : Int := match s1.mix.rooms[i] with
      | some r => ((r.entries.map fun y =>
          sample y.ref * (coefficient (gain y.ref) r.entries.length r.gain : Nat)).sum + 8192) / 16384
      | none => 0
    let floor (i : Option SegId) : Int := match i with | some j => sat (raw j) | none => 0
    let lang (b : BoothId) : Int :=
      let l := s1.mix.booths[b]
      if l.state = .live then
        sat (((x.voices[b]).toInt * ((t.mix.chStates[b]).v : Int) + floor l.room * ((t.mix.chStates[b]).d : Int) + 8192)
          / 16384)
      else 0
    (∀ r, t.hall.entry r = (s1.hall.entry r).map Entry.advance) ∧
    (∀ b : BoothId, t.mix.chStates[b] = (s1.mix.chStates[b]).advance) ∧
    (∀ c : Fin 32, t.mix.out.dist[c] = BitVec.ofInt 24 (match s1.mix.chans[c] with
      | .silence => 0
      | .floor i => floor (some i)
      | .lang b => lang b)) ∧
    (∀ sg i r, s1.mix.rooms[i] = some r → inSet r.segs sg = true →
      (∀ j r', s1.mix.rooms[j] = some r' → inSet r'.segs sg = true → j = i) →
      t.mix.out.segs[sg] = BitVec.ofInt 24 (floor (some i))) ∧
    (∀ b : BoothId, t.mix.out.feeds[b] = BitVec.ofInt 24 (match (s1.mix.booths[b]).state, (s1.mix.booths[b]).source with
      | .unassigned, _ => 0
      | .live, .booth q => lang q
      | _, _ => floor (s1.mix.booths[b]).room)) ∧
    (∀ i : SegId, t.mix.clipped[i] = (s1.mix.clipped[i] || (raw i != sat (raw i)))) ∧
    t.mix.block = some (n + 1) ∧ t.mix.blockCount = s1.mix.blockCount ∧ t.mix.rooms = s1.mix.rooms ∧
    t.mix.booths = s1.mix.booths ∧ t.mix.chans = s1.mix.chans ∧ t.hall.core = s1.hall.core ∧
    t.hall.requests = s1.hall.requests ∧ t.scanner = s1.scanner ∧ t.regroup = s1.regroup ∧ t.trunks = s1.trunks ∧
    t.pending = s1.pending

/-! ## Reads and the ports' own commands (Chapters 9 and 10) -/

/-- The reads answer DONE with what their rules list, in that order, and change nothing but the answer (R13, R20, R46,
R67, R98, R101, R137, R152, R167); READ-TRUNK with "clear" also sets the trunk's four error counters to 0. The layout is
that of 9.2.1, and where that leaves it open the model's (log entries 7 and 8): a value in one, two or four bytes, high
byte first (`b1`, `b2`, `b4`), a presence byte before what may be absent (`bOpt`), a count byte before a list (`bList`),
1 for the second of two named values (`bFirst`) and for a yes (`bWhether`). Bit 0 of READ-ROOM's option byte adds the
channels and bit 1 the gains; bit 1 of READ-TRUNK's adds the slots. An entry latched and since removed is returned with
its unit, an effective gain of 0 and no ramp (R157, R167). An identifier out of range is answered RANGE. -/
def Obligations.ReadsChangeOnlyTheAnswer : Prop :=
  ∀ (s : State) (p : PortId) (tag o : Byte), s.admits p [.console, .desk, .venue] →
    let h := s.hall
    let reads (c : Instr) (payload : List Byte) : Prop := exec c s = .next (setAnswer s p tag .done payload)
    let refused (c : Instr) : Prop := exec c s = .next (setAnswer s p tag .range [])
    let ms (n : Nat) : List Byte := b4 n
    let seg (x : SegId) : List Byte := b1 x.val
    let unit (u : UnitId) : List Byte := b1 u.trunk.val ++ b1 (u.addr.val + 1)
    let stamp (x : Stamp) : List Byte := b4 x.toNat
    let holder (t : TrunkId) (a : Option AddrIx) : List Byte :=
      match a with | some x => unit { trunk := t, addr := x } | none => b1 255
    let settled (x : Settled) : List Byte := b1 (match x with | .closed => 0 | .opened => 1 | .fault => 2)
    let mode (x : Mode) : List Byte := b2 (match x with | .auto => 0 | .manual => 1 | .override => 2)
    let cls (x : UnitClass) : List Byte := b1 (match x with | .delegate => 0 | .vip => 1 | .chair => 2)
    let entryState (x : EntryState) : List Byte :=
      b1 (match x with | .granted => 0 | .opening => 1 | .opened => 2 | .closing => 3)
    let settings (x : Settings) : List Byte :=
      mode x.mode ++ [x.openLimit, x.queueLimit, x.speakLimit, x.vip, x.langBonus, x.segBonus, x.jump, x.max, x.guard,
        x.duck, x.gain, x.ramp, x.idle].flatMap b2
    let source (x : Source) : List Byte := match x with | .floor => b1 255 | .booth b => b1 b.val
    let wall (w : Wall) : List Byte :=
      bOpt (fun y => seg y.1 ++ seg y.2) w.pair ++
      b1 (match w.raw with | .closed => 0 | .opened => 1 | .moving => 2 | .conflict => 3) ++ settled w.settled ++
      b1 (match w.ovr with | .follow => 0 | .forceOpen => 1 | .forceClosed => 2) ++ bOpt settled (effective w) ++
      bOpt ms w.settle ++ (match w.stuck with | .stopped => b1 0 | .running n => b1 1 ++ ms n | .expired => b1 2)
    let request (q : Request) : List Byte :=
      unit q.unit ++ stamp q.stamp ++ b1 q.lang ++ cls q.cls ++ b1 q.score ++ b1 q.guard ++ bFirst q.due ++
      bFirst q.recalled
    let roomOf (i : SegId) (r : Room) : List Byte :=
      seg i ++ [r.segs] ++ seg r.lead ++ b2 r.gen.toNat ++ settings r.settings ++ b1 r.base ++ b1 r.size ++
      bList b1 r.langs ++ b1 r.floorLang ++ bOpt seg r.lastSpeaker ++ bOpt unit r.elevated ++
      bList unit (allUnits.filter fun u => (h.unit u).cls = .chair && h.seatedIn r.segs u) ++ bFirst r.frozen ++
      bFirst (!r.dormant) ++ bOpt ms r.idle ++ b2 r.clip ++ bOpt (fun q : PortId => b1 q.val) r.console
    let channels (r : Room) : List Byte :=
      b1 r.base ++ b1 r.size ++
      bList (fun k => b1 (r.langs.getD k 0) ++ b1 (k + 1)) (List.range r.langs.length) ++
      b1 (match r.placement with | .asBase => 0 | .relocated => 1 | .shrunk => 2 | .noWindow => 3 | .moved => 4) ++
      bList b1 r.dropped ++
      ((List.range 32).flatMap fun c => bOpt (fun y : SegId × Room × Nat =>
        seg y.1 ++ b1 y.2.2 ++ bOpt b1 (if y.2.2 = 0 then none else y.2.1.langs[y.2.2 - 1]?)) (h.windowAt c)) ++
      [setWhere h.radiatorLine] ++ [setWhere fun sg => h.radiators[sg]] ++ bFirst (!r.dormant) ++ bOpt ms r.idle
    let mixed (y : LatchedEntry) : List Byte :=
      match y.left, h.entry y.ref with
      | some a, _ => holder y.ref.trunk a ++ b2 0 ++ b1 0
      | none, some e => holder y.ref.trunk e.unit ++ b2 e.e ++
          bOpt (fun rp : Ramp => b2 rp.target ++ b2 rp.pos ++ b2 rp.len) e.ramp
      | none, none => holder y.ref.trunk none ++ b2 0 ++ b1 0
    let gains (i : SegId) (r : Room) : List Byte :=
      let l := s.mix.rooms[i]
      let entries := match l with | some x => x.entries | none => []
      bList (fun y => unit y.1 ++ b2 y.2) r.staging.pairs ++ bWhether r.staging.pending ++ bWhether r.staging.applied ++
      b4 s.mix.blockCount.toNat ++ b1 entries.length ++ b2 (match l with | some x => x.gain | none => 0) ++
      bList mixed entries ++
      bList (fun b : BoothId => b2 (s.mix.chStates[b]).v ++ b2 (s.mix.chStates[b]).d ++
        bOpt (fun rp : ChRamp => b2 rp.targetV ++ b2 rp.targetD ++ b2 rp.pos ++ b2 rp.len) (s.mix.chStates[b]).ramp)
        (h.liveBooths i)
    let booth (b : BoothId) : List Byte :=
      let x := h.booths[b]
      bFirst x.defined ++ bOpt seg x.home ++ b1 x.langA ++ b1 x.langB ++ bList b1 x.passive ++
      b1 (match x.side with | .a => 0 | .b => 1) ++
      b1 (match x.state with | .unassigned => 0 | .standby => 1 | .live => 2) ++ bFirst x.mic ++ b2 x.gain ++
      source x.source ++ bOpt source x.pin ++ bFirst x.noPivot ++ bFirst x.displaced ++ bOpt seg (h.boothRoom b) ++
      bList b1 x.understood ++ b1 x.output ++ bWhether (x.state = .live && x.mic) ++ bWhether (h.floorMatched b) ++
      bList (fun c : BoothId => b1 c.val) ((List.finRange 12).filter fun c => (h.booths[c]).source = .booth b)
    let trunk (k : TrunkId) (slots : Bool) : List Byte :=
      let x := s.trunks[k]
      b1 (match x.state with | .unpowered => 0 | .tripped => 1 | .up => 2 | .degraded => 3 | .down => 4) ++
      b1 (match x.mode with | .off => 0 | .on => 1 | .auto => 2) ++ bFirst x.sense ++ b1 x.probes ++ b1 x.pointer ++
      b1 x.silent ++ b2 x.cCheck ++ b2 x.cFraming ++ b2 x.cLate ++ b2 x.cOverrun ++
      bList (fun u : UnitId =>
        let a := h.addr u
        b1 (u.addr.val + 1) ++ b1 a.miss ++ b1 a.stray ++
        bOpt (fun f => match f with
          | FloorOrder.grant j => b1 1 ++ b1 j.val | .release => b1 2 | .deny => b1 3) a.floorOrder ++
        bOpt (fun n => match n with | Notice.warn => b1 1 | .clearWarn => b1 2) a.notice ++ bWhether (heldBack h u) ++
        bOpt b1 a.confirm) ((unitsOf k).filter fun u => (h.unit u).present) ++
      (if slots then
        ((List.finRange 8).flatMap fun j => match h.entry { trunk := k, slot := j } with
          | none => bWhether true
          | some e => bWhether false ++ seg ((h.roomOf e.seg).getD e.seg) ++ holder k e.unit ++ entryState e.state) ++
        seg h.rotation[k]
      else [])
    (o.getLsbD 0 = false → reads (.readWalls p tag [o])
      (((List.finRange 12).flatMap fun w => wall s.scanner.walls[w]) ++ bWhether s.scanner.lock ++
        b2 s.scanner.settleTime ++ (allSegIds.flatMap fun i => b1 s.scanner.ranks[i]) ++
        bWhether (atRest s.scanner))) ∧
    (∀ sb sg, idOf 8 sb = some sg → o.getLsbD 0 = true →
      let d := s.scanner.defaults[sg]
      reads (.readWalls p tag [o, sb])
        (settings d.settings ++ b2 d.base ++ b2 d.size ++ bList b1 d.wanted ++ b2 d.floorLang)) ∧
    (let rg := s.regroup;
      reads (.readRegroup p tag [])
        (b1 (match rg.state with | .steady => 0 | .settling => 1 | .consent => 2 | .drain => 3 | .commitWait => 4) ++
          bWhether rg.isOpen ++ b2 rg.round.toNat ++ [rg.affected] ++
          bList (fun q : PortId => b1 q.val ++ bWhether (rg.holds.contains q)) rg.consent ++ bOpt ms rg.deadline ++
          bList (fun q : PortId => b1 q.val) rg.silent ++
          bList (fun y : MapRoom => [y.segs] ++ seg y.id ++ seg y.lead) rg.pendingMap ++
          b2 rg.consentSecs ++ b2 rg.holdSecs)) ∧
    (∀ sb sg i r, idOf 8 sb = some sg → h.roomOf sg = some i → h.room i = some r →
      reads (.readRoom p tag [sb, o])
        (roomOf i r ++ (if o.getLsbD 0 then channels r else []) ++ if o.getLsbD 1 then gains i r else []) ∧
      reads (.readQueue p tag [sb])
        (mode r.settings.mode ++ b2 r.settings.openLimit ++ b1 (h.count i) ++ b2 r.settings.queueLimit ++
          bFirst r.frozen ++ bList (fun q => request q ++ bWhether (r.elevated = some q.unit)) (h.queue i) ++
          bList (fun y : SlotRef × Entry => holder y.1.trunk y.2.unit ++ b1 y.1.slot.val ++ bWhether y.2.chair ++
            entryState y.2.state ++ stamp y.2.reqStamp ++ stamp y.2.grantStamp ++ bOpt ms y.2.timer) (h.speaking i) ++
          b1 (96 - h.requests.length) ++ stamp h.seq)) ∧
    (∀ tb ab u, unitOf tb ab = some u →
      let r := h.unit u
      reads (.readUnit p tag [tb, ab])
        (b1 (if r.present then 1 else 0) ++ bOpt seg r.seatOvr ++ bOpt seg r.reported ++ bOpt seg r.seat ++ cls r.cls ++
          b2 r.gain ++ b1 r.lang ++
          b1 (match h.floorState u with
            | .idle => 0 | .waiting => 1 | .granted => 2 | .opening => 3 | .opened => 4 | .closing => 5) ++
          bFirst r.latch ++ bFirst r.next ++ bFirst r.allOff ++ bOpt (fun k : SlotIx => b1 k.val) r.mic ++
          bFirst r.warned ++ bOpt request (h.requestOf u) ++
          bOpt (fun y : SlotRef × Entry => holder y.1.trunk y.2.unit ++ b1 y.1.trunk.val ++ b1 y.1.slot.val ++
            seg y.2.seg ++ bWhether y.2.chair ++ stamp y.2.reqStamp ++ stamp y.2.grantStamp ++ entryState y.2.state ++
            bOpt (fun rp : Ramp => b2 rp.pos) y.2.ramp ++ bOpt ms y.2.timer) (h.entryOf u))) ∧
    (o.getLsbD 0 = true → reads (.readBooth p tag [o]) ((List.finRange 12).flatMap booth)) ∧
    (∀ bb b, idOf 12 bb = some b → o.getLsbD 0 = false →
      let r := (h.boothRoom b).bind h.room
      reads (.readBooth p tag [o, bb]) (booth b ++ bOpt b1 (r.map (·.floorLang)) ++
        bOpt (fun k => b1 (k + 1)) (r.bind fun y => y.langs.findIdx? fun c => c = (h.booths[b]).output))) ∧
    (∀ xb yb : Byte,
      (7 < xb.toNat → refused (.readRoom p tag [xb, o]) ∧ refused (.readQueue p tag [xb]) ∧
        (o.getLsbD 0 = true → refused (.readWalls p tag [o, xb]))) ∧
      ((3 < xb.toNat ∨ yb.toNat = 0 ∨ 60 < yb.toNat) → refused (.readUnit p tag [xb, yb])) ∧
      (11 < xb.toNat → o.getLsbD 0 = false → refused (.readBooth p tag [o, xb])) ∧
      (3 < xb.toNat → refused (.readTrunk p tag [xb, o]))) ∧
    ∀ kb k, idOf 4 kb = some k →
      (o.getLsbD 0 = false → reads (.readTrunk p tag [kb, o]) (trunk k (o.getLsbD 1))) ∧
      (o.getLsbD 0 = true → exec (.readTrunk p tag [kb, o]) s = .next (setAnswer
        { s with
          trunks := put s.trunks k
            { s.trunks[k] with cCheck := 0, cFraming := 0, cLate := 0, cOverrun := 0 } } p tag .done
        (trunk k (o.getLsbD 1))))

/-- READ-FLAGS (R183): the answer holds the flag set, role, scope, mask and modes in this order, and in READ-CLEARS the
flags returned are cleared. SET-ATTENTION (R186): the three are stored and a disabled flag is cleared; in LEVEL no pulse
runs on (log entry 18). REINIT (R178) sets the pending mark. ATTENTION_PULSE_END (R185) ends the pulse. An event reaches
the venue port always, a console for REGROUP and for its scope, a desk for REGROUP and BOOTH, and an UNUSED port never;
a port that takes it with its enable on sets the flag, and in PULSE a flag set that was empty starts a pulse (R182,
R185). The attention line is active while a pulse runs, and in LEVEL while any flag is set (R185). -/
def Obligations.PortCommands : Prop :=
  (∀ (x : Port) (f : Flag) (segs : SegSet),
    (portTakes x f segs = true ↔ (x.role = .venue ∨ (x.role = .console ∧ (f = .regroup ∨ (x.scope &&& segs) ≠ 0)) ∨
      (x.role = .desk ∧ (f = .regroup ∨ f = .booth)))) ∧
    (attentionLine x = true ↔ (x.pulse = true ∨ (x.att = .level ∧ x.flags ≠ 0)))) ∧
  (∀ (f : Flag) (segs : SegSet) (h : Hall) (p : PortId),
    let y := h.ports[p]
    let g := raise f segs h
    let bit : BitVec 7 := match f with
      | .wall => 0x01
      | .regroup => 0x02
      | .floor => 0x04
      | .booth => 0x08
      | .trunk => 0x10
      | .clip => 0x20
      | .room => 0x40
    g = { h with ports := g.ports } ∧
    ((portTakes y f segs = false ∨ y.mask &&& bit = 0) → g.ports[p] = y) ∧
    (portTakes y f segs = true → y.mask &&& bit ≠ 0 → g.ports[p] =
      { y with flags := y.flags ||| bit, pulse := y.pulse || decide (y.att = .pulse ∧ y.flags = 0) })) ∧
  ∀ (s : State) (p : PortId) (tag : Byte),
    let x := s.hall.ports[p]
    let port (y : Port) : State := { s with hall := { s.hall with ports := put s.hall.ports p y } }
    exec (.attentionPulseEnd p) s = .next (port { x with pulse := false }) ∧
    (s.admits p [.venue] →
      exec (.reinit p tag []) s = .next (setAnswer (port { x with reinitPending := true }) p tag .done [])) ∧
    (x.reinitPending = false → exec (.readFlags p tag []) s = .next (setAnswer
      (if x.ack = .readClears then port { x with flags := 0 } else s) p tag .done
      [x.flags.setWidth 8,
        (match x.role with | .unused => 0 | .console => 1 | .desk => 2 | .venue => 3), x.scope, x.mask.setWidth 8,
        (match x.ack with | .readClears => 0 | .explicit => 1), (match x.att with | .level => 0 | .pulse => 1)])) ∧
    (s.admits p [.console, .desk, .venue] → ∀ ab tb mb : Byte,
      ((1 < ab.toNat ∨ 1 < tb.toNat ∨ mb.getLsbD 7 = true) →
        exec (.setAttention p tag [ab, tb, mb]) s = .next (setAnswer s p tag .range [])) ∧
      ∀ ack att, ((ab = 0 ∧ ack = AckMode.readClears) ∨ (ab = 1 ∧ ack = .explicit)) →
        ((tb = 0 ∧ att = AttMode.level) ∨ (tb = 1 ∧ att = .pulse)) → mb.getLsbD 7 = false →
        exec (.setAttention p tag [ab, tb, mb]) s = .next (setAnswer
          (port { x with
            ack := ack, att := att, mask := mb.setWidth 7, flags := x.flags &&& mb.setWidth 7,
            pulse := x.pulse && decide (att = .pulse) }) p tag .done []))

/-- ACK-FLAGS (R184) clears the named flags in either acknowledge mode, and an event that comes after it sets its flag
again; LINK-RESET (R180), from every role, returns flags, mask and modes to their reset values and leaves every other
record as it was. -/
def Obligations.AckAndLinkReset : Prop :=
  ∀ (s : State) (p : PortId) (tag a : Byte),
    let x := s.hall.ports[p]
    let port (y : Port) : State := { s with hall := { s.hall with ports := put s.hall.ports p y } }
    ((x.reinitPending = false ∧ x.role = .unused) →
      exec (.ackFlags p tag [a]) s = .next (setAnswer s p tag .role [])) ∧
    (s.admits p [.console, .desk, .venue] →
      (a.getLsbD 7 = true → exec (.ackFlags p tag [a]) s = .next (setAnswer s p tag .range [])) ∧
      (a.getLsbD 7 = false → exec (.ackFlags p tag [a]) s = .next (setAnswer
        (port { x with flags := x.flags &&& ~~~(a.setWidth 7) }) p tag .done []))) ∧
    (∀ f segs, portTakes x f segs = true → x.mask &&& flagBit f ≠ 0 →
      ((raise f segs (port { x with flags := x.flags &&& ~~~(a.setWidth 7) }).hall).ports[p]).flags &&& flagBit f ≠ 0) ∧
    (x.reinitPending = true → exec (.linkReset p tag []) s = .next (setAnswer s p tag .busy [])) ∧
    (x.reinitPending = false → exec (.linkReset p tag []) s = .next (setAnswer
      (port { x with flags := 0, mask := 0x7F, ack := .readClears, att := .level }) p tag .done []))
end

