-- ==== Sys2Proof/Laws/Tables.lean ====
section
/-! SUPPORT. Reading the fixed tables: a table made from a function, and a table with one record replaced. The simp
forms are over the index as a number, which is how `simp` writes a read. -/

namespace Sys2Proof

variable {α : Type} {n : Nat}

@[simp] theorem tab_getElem (f : Fin n → α) (k : Nat) (h : k < n) : (tab f)[k] = f ⟨k, h⟩ := by simp [tab]

theorem tab_get (f : Fin n → α) (i : Fin n) : (tab f)[i] = f i := by simp

theorem put_getElem (v : Vector α n) (i : Fin n) (x : α) (k : Nat) (h : k < n) :
    (put v i x)[k] = if i.val = k then x else v[k] := by
  simp [put, Vector.getElem_set]

@[simp] theorem put_getElem_self (v : Vector α n) (i : Fin n) (x : α) : (put v i x)[i.val] = x := by
  simp [put_getElem]

theorem put_get_self (v : Vector α n) (i : Fin n) (x : α) : (put v i x)[i] = x := by simp

theorem put_get_ne (v : Vector α n) {i j : Fin n} (x : α) (h : i ≠ j) : (put v i x)[j] = v[j] := by
  have : i.val ≠ j.val := fun e => h (Fin.ext e)
  simp [put_getElem, this]

theorem put_get (v : Vector α n) (i j : Fin n) (x : α) : (put v i x)[j] = if i = j then x else v[j] := by
  split
  · next h => subst h; exact put_get_self v i x
  · next h => exact put_get_ne v x h

/-- A table of tables with one record replaced reads as before at every other place. -/
theorem put2_get_ne {m : Nat} (v : Vector (Vector α m) n) {i j : Fin n} {a b : Fin m} (x : α)
    (h : ¬(i = j ∧ a = b)) : ((put v i (put v[i] a x))[j])[b] = (v[j])[b] := by
  by_cases hij : i = j
  · subst hij
    have hab : a ≠ b := fun e => h ⟨rfl, e⟩
    simpa using put_get_ne v[i] x hab
  · exact congrArg (fun w : Vector α m => w[b]) (put_get_ne v _ hij)

/-- Two tables are equal when they agree at every place. -/
theorem table_ext {u v : Vector α n} (h : ∀ i : Fin n, u[i] = v[i]) : u = v := by
  apply Vector.ext
  intro j hj
  exact h ⟨j, hj⟩

@[simp] theorem put_read (v : Vector α n) (i : Fin n) : put v i v[i] = v :=
  table_ext fun j => by
    rw [put_get]
    split
    · next h => rw [h]
    · rfl

@[simp] theorem tab_read (v : Vector α n) : (tab fun i => v[i]) = v := table_ext fun i => tab_get _ i

/-- A property of a start value that every step of a fold keeps holds of the fold. -/
theorem foldl_keeps {β γ : Type} {P : β → Prop} {f : β → γ → β} (hf : ∀ b c, P b → P (f b c)) :
    ∀ (l : List γ) (b : β), P b → P (l.foldl f b)
  | [], _, hb => hb
  | c :: l, b, hb => foldl_keeps hf l (f b c) (hf b c hb)

end Sys2Proof
end

