-- ==== Sys2Proof/Laws/State.lean ====
section
/-! SUPPORT. Beside the state: one lemma per field for each named update, the reads of what was written, the latched
entries after a removal, and the slots left to the rotation, so that no later proof unfolds a record update. -/

namespace Sys2Proof.Machine

/-! ## Updates of the hall -/

@[simp] theorem Hall.setUnit_rooms (h : Hall) (u : UnitId) (r : UnitRec) : (h.setUnit u r).rooms = h.rooms := rfl
@[simp] theorem Hall.setUnit_addrs (h : Hall) (u : UnitId) (r : UnitRec) : (h.setUnit u r).addrs = h.addrs := rfl
@[simp] theorem Hall.setUnit_requests (h : Hall) (u : UnitId) (r : UnitRec) : (h.setUnit u r).requests = h.requests := rfl
@[simp] theorem Hall.setUnit_seq (h : Hall) (u : UnitId) (r : UnitRec) : (h.setUnit u r).seq = h.seq := rfl
@[simp] theorem Hall.setUnit_pools (h : Hall) (u : UnitId) (r : UnitRec) : (h.setUnit u r).pools = h.pools := rfl
@[simp] theorem Hall.setUnit_rotation (h : Hall) (u : UnitId) (r : UnitRec) : (h.setUnit u r).rotation = h.rotation := rfl
@[simp] theorem Hall.setUnit_booths (h : Hall) (u : UnitId) (r : UnitRec) : (h.setUnit u r).booths = h.booths := rfl
@[simp] theorem Hall.setUnit_radiators (h : Hall) (u : UnitId) (r : UnitRec) : (h.setUnit u r).radiators = h.radiators := rfl
@[simp] theorem Hall.setUnit_ports (h : Hall) (u : UnitId) (r : UnitRec) : (h.setUnit u r).ports = h.ports := rfl

@[simp] theorem Hall.setAddr_rooms (h : Hall) (u : UnitId) (r : AddrRec) : (h.setAddr u r).rooms = h.rooms := rfl
@[simp] theorem Hall.setAddr_units (h : Hall) (u : UnitId) (r : AddrRec) : (h.setAddr u r).units = h.units := rfl
@[simp] theorem Hall.setAddr_requests (h : Hall) (u : UnitId) (r : AddrRec) : (h.setAddr u r).requests = h.requests := rfl
@[simp] theorem Hall.setAddr_seq (h : Hall) (u : UnitId) (r : AddrRec) : (h.setAddr u r).seq = h.seq := rfl
@[simp] theorem Hall.setAddr_pools (h : Hall) (u : UnitId) (r : AddrRec) : (h.setAddr u r).pools = h.pools := rfl
@[simp] theorem Hall.setAddr_rotation (h : Hall) (u : UnitId) (r : AddrRec) : (h.setAddr u r).rotation = h.rotation := rfl
@[simp] theorem Hall.setAddr_booths (h : Hall) (u : UnitId) (r : AddrRec) : (h.setAddr u r).booths = h.booths := rfl
@[simp] theorem Hall.setAddr_radiators (h : Hall) (u : UnitId) (r : AddrRec) : (h.setAddr u r).radiators = h.radiators := rfl
@[simp] theorem Hall.setAddr_ports (h : Hall) (u : UnitId) (r : AddrRec) : (h.setAddr u r).ports = h.ports := rfl

@[simp] theorem Hall.setEntry_rooms (h : Hall) (r : SlotRef) (e : Option Entry) : (h.setEntry r e).rooms = h.rooms := rfl
@[simp] theorem Hall.setEntry_units (h : Hall) (r : SlotRef) (e : Option Entry) : (h.setEntry r e).units = h.units := rfl
@[simp] theorem Hall.setEntry_addrs (h : Hall) (r : SlotRef) (e : Option Entry) : (h.setEntry r e).addrs = h.addrs := rfl
@[simp] theorem Hall.setEntry_requests (h : Hall) (r : SlotRef) (e : Option Entry) : (h.setEntry r e).requests = h.requests := rfl
@[simp] theorem Hall.setEntry_seq (h : Hall) (r : SlotRef) (e : Option Entry) : (h.setEntry r e).seq = h.seq := rfl
@[simp] theorem Hall.setEntry_rotation (h : Hall) (r : SlotRef) (e : Option Entry) : (h.setEntry r e).rotation = h.rotation := rfl
@[simp] theorem Hall.setEntry_booths (h : Hall) (r : SlotRef) (e : Option Entry) : (h.setEntry r e).booths = h.booths := rfl
@[simp] theorem Hall.setEntry_radiators (h : Hall) (r : SlotRef) (e : Option Entry) : (h.setEntry r e).radiators = h.radiators := rfl
@[simp] theorem Hall.setEntry_ports (h : Hall) (r : SlotRef) (e : Option Entry) : (h.setEntry r e).ports = h.ports := rfl

@[simp] theorem Hall.setRoom_units (h : Hall) (i : SegId) (r : Option Room) : (h.setRoom i r).units = h.units := rfl
@[simp] theorem Hall.setRoom_addrs (h : Hall) (i : SegId) (r : Option Room) : (h.setRoom i r).addrs = h.addrs := rfl
@[simp] theorem Hall.setRoom_requests (h : Hall) (i : SegId) (r : Option Room) : (h.setRoom i r).requests = h.requests := rfl
@[simp] theorem Hall.setRoom_seq (h : Hall) (i : SegId) (r : Option Room) : (h.setRoom i r).seq = h.seq := rfl
@[simp] theorem Hall.setRoom_pools (h : Hall) (i : SegId) (r : Option Room) : (h.setRoom i r).pools = h.pools := rfl
@[simp] theorem Hall.setRoom_rotation (h : Hall) (i : SegId) (r : Option Room) : (h.setRoom i r).rotation = h.rotation := rfl
@[simp] theorem Hall.setRoom_booths (h : Hall) (i : SegId) (r : Option Room) : (h.setRoom i r).booths = h.booths := rfl
@[simp] theorem Hall.setRoom_radiators (h : Hall) (i : SegId) (r : Option Room) : (h.setRoom i r).radiators = h.radiators := rfl
@[simp] theorem Hall.setRoom_ports (h : Hall) (i : SegId) (r : Option Room) : (h.setRoom i r).ports = h.ports := rfl

@[simp] theorem Hall.setBooth_rooms (h : Hall) (b : BoothId) (x : Booth) : (h.setBooth b x).rooms = h.rooms := rfl
@[simp] theorem Hall.setBooth_units (h : Hall) (b : BoothId) (x : Booth) : (h.setBooth b x).units = h.units := rfl
@[simp] theorem Hall.setBooth_addrs (h : Hall) (b : BoothId) (x : Booth) : (h.setBooth b x).addrs = h.addrs := rfl
@[simp] theorem Hall.setBooth_requests (h : Hall) (b : BoothId) (x : Booth) : (h.setBooth b x).requests = h.requests := rfl
@[simp] theorem Hall.setBooth_seq (h : Hall) (b : BoothId) (x : Booth) : (h.setBooth b x).seq = h.seq := rfl
@[simp] theorem Hall.setBooth_pools (h : Hall) (b : BoothId) (x : Booth) : (h.setBooth b x).pools = h.pools := rfl
@[simp] theorem Hall.setBooth_rotation (h : Hall) (b : BoothId) (x : Booth) : (h.setBooth b x).rotation = h.rotation := rfl
@[simp] theorem Hall.setBooth_radiators (h : Hall) (b : BoothId) (x : Booth) : (h.setBooth b x).radiators = h.radiators := rfl
@[simp] theorem Hall.setBooth_ports (h : Hall) (b : BoothId) (x : Booth) : (h.setBooth b x).ports = h.ports := rfl

@[simp] theorem raise_rooms (f : Flag) (x : SegSet) (h : Hall) : (raise f x h).rooms = h.rooms := rfl
@[simp] theorem raise_units (f : Flag) (x : SegSet) (h : Hall) : (raise f x h).units = h.units := rfl
@[simp] theorem raise_addrs (f : Flag) (x : SegSet) (h : Hall) : (raise f x h).addrs = h.addrs := rfl
@[simp] theorem raise_requests (f : Flag) (x : SegSet) (h : Hall) : (raise f x h).requests = h.requests := rfl
@[simp] theorem raise_seq (f : Flag) (x : SegSet) (h : Hall) : (raise f x h).seq = h.seq := rfl
@[simp] theorem raise_pools (f : Flag) (x : SegSet) (h : Hall) : (raise f x h).pools = h.pools := rfl
@[simp] theorem raise_rotation (f : Flag) (x : SegSet) (h : Hall) : (raise f x h).rotation = h.rotation := rfl
@[simp] theorem raise_booths (f : Flag) (x : SegSet) (h : Hall) : (raise f x h).booths = h.booths := rfl
@[simp] theorem raise_radiators (f : Flag) (x : SegSet) (h : Hall) : (raise f x h).radiators = h.radiators := rfl

@[simp] theorem idleSweep_units (h : Hall) : (idleSweep h).units = h.units := rfl
@[simp] theorem idleSweep_addrs (h : Hall) : (idleSweep h).addrs = h.addrs := rfl
@[simp] theorem idleSweep_requests (h : Hall) : (idleSweep h).requests = h.requests := rfl
@[simp] theorem idleSweep_seq (h : Hall) : (idleSweep h).seq = h.seq := rfl
@[simp] theorem idleSweep_pools (h : Hall) : (idleSweep h).pools = h.pools := rfl
@[simp] theorem idleSweep_rotation (h : Hall) : (idleSweep h).rotation = h.rotation := rfl
@[simp] theorem idleSweep_booths (h : Hall) : (idleSweep h).booths = h.booths := rfl
@[simp] theorem idleSweep_radiators (h : Hall) : (idleSweep h).radiators = h.radiators := rfl
@[simp] theorem idleSweep_ports (h : Hall) : (idleSweep h).ports = h.ports := rfl

/-! ## Updates of the state -/

@[simp] theorem State.setPort_scanner (s : State) (p : PortId) (x : Port) : (s.setPort p x).scanner = s.scanner := rfl
@[simp] theorem State.setPort_regroup (s : State) (p : PortId) (x : Port) : (s.setPort p x).regroup = s.regroup := rfl
@[simp] theorem State.setPort_trunks (s : State) (p : PortId) (x : Port) : (s.setPort p x).trunks = s.trunks := rfl
@[simp] theorem State.setPort_mix (s : State) (p : PortId) (x : Port) : (s.setPort p x).mix = s.mix := rfl
@[simp] theorem State.setPort_pending (s : State) (p : PortId) (x : Port) : (s.setPort p x).pending = s.pending := rfl

@[simp] theorem setAnswer_scanner (s : State) (p : PortId) (tag : Byte) (st : Status) (l : List Byte) : (setAnswer s p tag st l).scanner = s.scanner := rfl
@[simp] theorem setAnswer_regroup (s : State) (p : PortId) (tag : Byte) (st : Status) (l : List Byte) : (setAnswer s p tag st l).regroup = s.regroup := rfl
@[simp] theorem setAnswer_trunks (s : State) (p : PortId) (tag : Byte) (st : Status) (l : List Byte) : (setAnswer s p tag st l).trunks = s.trunks := rfl
@[simp] theorem setAnswer_mix (s : State) (p : PortId) (tag : Byte) (st : Status) (l : List Byte) : (setAnswer s p tag st l).mix = s.mix := rfl
@[simp] theorem setAnswer_pending (s : State) (p : PortId) (tag : Byte) (st : Status) (l : List Byte) : (setAnswer s p tag st l).pending = s.pending := rfl

@[simp] theorem State.setWall_regroup (s : State) (w : WallId) (x : Wall) : (s.setWall w x).regroup = s.regroup := rfl
@[simp] theorem State.setWall_hall (s : State) (w : WallId) (x : Wall) : (s.setWall w x).hall = s.hall := rfl
@[simp] theorem State.setWall_trunks (s : State) (w : WallId) (x : Wall) : (s.setWall w x).trunks = s.trunks := rfl
@[simp] theorem State.setWall_mix (s : State) (w : WallId) (x : Wall) : (s.setWall w x).mix = s.mix := rfl
@[simp] theorem State.setWall_pending (s : State) (w : WallId) (x : Wall) : (s.setWall w x).pending = s.pending := rfl

@[simp] theorem State.setTrunk_scanner (s : State) (t : TrunkId) (x : Trunk) : (s.setTrunk t x).scanner = s.scanner := rfl
@[simp] theorem State.setTrunk_regroup (s : State) (t : TrunkId) (x : Trunk) : (s.setTrunk t x).regroup = s.regroup := rfl
@[simp] theorem State.setTrunk_hall (s : State) (t : TrunkId) (x : Trunk) : (s.setTrunk t x).hall = s.hall := rfl
@[simp] theorem State.setTrunk_mix (s : State) (t : TrunkId) (x : Trunk) : (s.setTrunk t x).mix = s.mix := rfl
@[simp] theorem State.setTrunk_pending (s : State) (t : TrunkId) (x : Trunk) : (s.setTrunk t x).pending = s.pending := rfl

@[simp] theorem State.withHall_scanner (s : State) (h : Hall) : (s.withHall h).scanner = s.scanner := rfl
@[simp] theorem State.withHall_regroup (s : State) (h : Hall) : (s.withHall h).regroup = s.regroup := rfl
@[simp] theorem State.withHall_trunks (s : State) (h : Hall) : (s.withHall h).trunks = s.trunks := rfl
@[simp] theorem State.withHall_mix (s : State) (h : Hall) : (s.withHall h).mix = s.mix := rfl
@[simp] theorem State.withHall_pending (s : State) (h : Hall) : (s.withHall h).pending = s.pending := rfl

@[simp] theorem State.floorHall_scanner (s : State) (h : Hall) : (s.floorHall h).scanner = s.scanner := rfl
@[simp] theorem State.floorHall_regroup (s : State) (h : Hall) : (s.floorHall h).regroup = s.regroup := rfl
@[simp] theorem State.floorHall_trunks (s : State) (h : Hall) : (s.floorHall h).trunks = s.trunks := rfl
@[simp] theorem State.floorHall_mix (s : State) (h : Hall) : (s.floorHall h).mix = s.mix := rfl
@[simp] theorem State.floorHall_pending (s : State) (h : Hall) : (s.floorHall h).pending = s.pending := rfl

@[simp] theorem State.raised_scanner (s : State) (f : Flag) (x : SegSet) : (s.raised f x).scanner = s.scanner := rfl
@[simp] theorem State.raised_regroup (s : State) (f : Flag) (x : SegSet) : (s.raised f x).regroup = s.regroup := rfl
@[simp] theorem State.raised_trunks (s : State) (f : Flag) (x : SegSet) : (s.raised f x).trunks = s.trunks := rfl
@[simp] theorem State.raised_mix (s : State) (f : Flag) (x : SegSet) : (s.raised f x).mix = s.mix := rfl
@[simp] theorem State.raised_pending (s : State) (f : Flag) (x : SegSet) : (s.raised f x).pending = s.pending := rfl

@[simp] theorem State.sweep_scanner (s : State) : s.sweep.scanner = s.scanner := rfl
@[simp] theorem State.sweep_regroup (s : State) : s.sweep.regroup = s.regroup := rfl
@[simp] theorem State.sweep_trunks (s : State) : s.sweep.trunks = s.trunks := rfl
@[simp] theorem State.sweep_mix (s : State) : s.sweep.mix = s.mix := rfl
@[simp] theorem State.sweep_pending (s : State) : s.sweep.pending = s.pending := rfl

@[simp] theorem State.withHall_hall (s : State) (h : Hall) : (s.withHall h).hall = h := rfl
@[simp] theorem State.floorHall_hall (s : State) (h : Hall) : (s.floorHall h).hall = idleSweep h := rfl
@[simp] theorem State.raised_hall (s : State) (f : Flag) (x : SegSet) : (s.raised f x).hall = raise f x s.hall := rfl
@[simp] theorem State.sweep_hall (s : State) : s.sweep.hall = idleSweep s.hall := rfl
@[simp] theorem State.setPort_hall (s : State) (p : PortId) (x : Port) :
    (s.setPort p x).hall = { s.hall with ports := put s.hall.ports p x } := rfl
@[simp] theorem State.setTrunk_trunks (s : State) (t : TrunkId) (x : Trunk) :
    (s.setTrunk t x).trunks = put s.trunks t x := rfl
@[simp] theorem State.setWall_scanner (s : State) (w : WallId) (x : Wall) :
    (s.setWall w x).scanner = { s.scanner with walls := put s.scanner.walls w x } := rfl

/-! ## Reading what was written -/

@[simp] theorem Hall.setUnit_unit (h : Hall) (u : UnitId) (r : UnitRec) : (h.setUnit u r).unit u = r := by
  simp [Hall.unit, Hall.setUnit]

theorem Hall.setUnit_unit_ne (h : Hall) {u v : UnitId} (r : UnitRec) (huv : u ≠ v) :
    (h.setUnit u r).unit v = h.unit v := by
  refine put2_get_ne _ _ fun e => huv ?_
  obtain ⟨t, a⟩ := u
  obtain ⟨t', a'⟩ := v
  simpa using e

@[simp] theorem Hall.setAddr_addr (h : Hall) (u : UnitId) (r : AddrRec) : (h.setAddr u r).addr u = r := by
  simp [Hall.addr, Hall.setAddr]

theorem Hall.setAddr_addr_ne (h : Hall) {u v : UnitId} (r : AddrRec) (huv : u ≠ v) :
    (h.setAddr u r).addr v = h.addr v := by
  refine put2_get_ne _ _ fun e => huv ?_
  obtain ⟨t, a⟩ := u
  obtain ⟨t', a'⟩ := v
  simpa using e

@[simp] theorem Hall.setEntry_entry (h : Hall) (r : SlotRef) (e : Option Entry) : (h.setEntry r e).entry r = e := by
  simp [Hall.entry, Hall.setEntry]

theorem Hall.setEntry_entry_ne (h : Hall) {r q : SlotRef} (e : Option Entry) (hrq : r ≠ q) :
    (h.setEntry r e).entry q = h.entry q := by
  refine put2_get_ne _ _ fun x => hrq ?_
  obtain ⟨t, k⟩ := r
  obtain ⟨t', k'⟩ := q
  simpa using x

@[simp] theorem Hall.setRoom_room (h : Hall) (i : SegId) (r : Option Room) : (h.setRoom i r).room i = r := by
  simp [Hall.room, Hall.setRoom]

theorem Hall.setRoom_room_ne (h : Hall) {i j : SegId} (r : Option Room) (hij : i ≠ j) :
    (h.setRoom i r).room j = h.room j := put_get_ne _ _ hij

@[simp] theorem Hall.setUnit_addr (h : Hall) (u v : UnitId) (r : UnitRec) : (h.setUnit u r).addr v = h.addr v := rfl
@[simp] theorem Hall.setUnit_room (h : Hall) (u : UnitId) (r : UnitRec) (i : SegId) :
    (h.setUnit u r).room i = h.room i := rfl
@[simp] theorem Hall.setUnit_entry (h : Hall) (u : UnitId) (r : UnitRec) (q : SlotRef) :
    (h.setUnit u r).entry q = h.entry q := rfl
@[simp] theorem Hall.setAddr_unit (h : Hall) (u v : UnitId) (r : AddrRec) : (h.setAddr u r).unit v = h.unit v := rfl
@[simp] theorem Hall.setAddr_room (h : Hall) (u : UnitId) (r : AddrRec) (i : SegId) :
    (h.setAddr u r).room i = h.room i := rfl
@[simp] theorem Hall.setAddr_entry (h : Hall) (u : UnitId) (r : AddrRec) (q : SlotRef) :
    (h.setAddr u r).entry q = h.entry q := rfl
@[simp] theorem Hall.setEntry_unit (h : Hall) (r : SlotRef) (e : Option Entry) (v : UnitId) :
    (h.setEntry r e).unit v = h.unit v := rfl
@[simp] theorem Hall.setEntry_addr (h : Hall) (r : SlotRef) (e : Option Entry) (v : UnitId) :
    (h.setEntry r e).addr v = h.addr v := rfl
@[simp] theorem Hall.setEntry_room (h : Hall) (r : SlotRef) (e : Option Entry) (i : SegId) :
    (h.setEntry r e).room i = h.room i := rfl
@[simp] theorem Hall.setRoom_unit (h : Hall) (i : SegId) (r : Option Room) (v : UnitId) :
    (h.setRoom i r).unit v = h.unit v := rfl
@[simp] theorem Hall.setRoom_addr (h : Hall) (i : SegId) (r : Option Room) (v : UnitId) :
    (h.setRoom i r).addr v = h.addr v := rfl
@[simp] theorem Hall.setRoom_entry (h : Hall) (i : SegId) (r : Option Room) (q : SlotRef) :
    (h.setRoom i r).entry q = h.entry q := rfl
@[simp] theorem raise_unit (f : Flag) (x : SegSet) (h : Hall) (u : UnitId) : (raise f x h).unit u = h.unit u := rfl
@[simp] theorem raise_addr (f : Flag) (x : SegSet) (h : Hall) (u : UnitId) : (raise f x h).addr u = h.addr u := rfl
@[simp] theorem raise_entry (f : Flag) (x : SegSet) (h : Hall) (r : SlotRef) : (raise f x h).entry r = h.entry r := rfl
@[simp] theorem raise_room (f : Flag) (x : SegSet) (h : Hall) (i : SegId) : (raise f x h).room i = h.room i := rfl

/-! ## The latched entries after a removal (R167) -/

@[simp] theorem Mix.entryLeft_blockCount (m : Mix) (r : SlotRef) (u : Option AddrIx) : (m.entryLeft r u).blockCount = m.blockCount := rfl
@[simp] theorem Mix.entryLeft_block (m : Mix) (r : SlotRef) (u : Option AddrIx) : (m.entryLeft r u).block = m.block := rfl
@[simp] theorem Mix.entryLeft_booths (m : Mix) (r : SlotRef) (u : Option AddrIx) : (m.entryLeft r u).booths = m.booths := rfl
@[simp] theorem Mix.entryLeft_chans (m : Mix) (r : SlotRef) (u : Option AddrIx) : (m.entryLeft r u).chans = m.chans := rfl
@[simp] theorem Mix.entryLeft_chStates (m : Mix) (r : SlotRef) (u : Option AddrIx) : (m.entryLeft r u).chStates = m.chStates := rfl
@[simp] theorem Mix.entryLeft_clipped (m : Mix) (r : SlotRef) (u : Option AddrIx) : (m.entryLeft r u).clipped = m.clipped := rfl
@[simp] theorem Mix.entryLeft_out (m : Mix) (r : SlotRef) (u : Option AddrIx) : (m.entryLeft r u).out = m.out := rfl
/-- A removal marks the latched entries of its slot that stood, in every room, and nothing else. -/
theorem Mix.entryLeft_room (m : Mix) (r : SlotRef) (u : Option AddrIx) (i : SegId) :
    (m.entryLeft r u).rooms[i] =
      (m.rooms[i]).map fun x => { x with entries := x.entries.map (LatchedEntry.removed r u) } := by
  simp [Mix.entryLeft]
@[simp] theorem LatchedEntry.removed_ref (r : SlotRef) (u : Option AddrIx) (x : LatchedEntry) :
    (x.removed r u).ref = x.ref := by
  unfold LatchedEntry.removed; split <;> rfl
@[simp] theorem LatchedEntry.removed_target (r : SlotRef) (u : Option AddrIx) (x : LatchedEntry) :
    (x.removed r u).target = x.target := by
  unfold LatchedEntry.removed; split <;> rfl

/-! ## The slots left to the rotation (R85) -/

/-- The slots left are some of the slots freed, in their order. -/
theorem leftOver_sublist (l : List TrunkId) (n : TrunkId → Nat) : (leftOver l n).Sublist l := by
  induction l generalizing n with
  | nil => exact List.Sublist.refl _
  | cons t ts ih =>
    simp only [leftOver]
    split
    · exact (ih n).cons_cons t
    · exact (ih _).cons t

/-- Of each trunk's freed slots, `n` fewer are left. -/
theorem leftOver_count (l : List TrunkId) (n : TrunkId → Nat) (k : TrunkId) :
    (leftOver l n).count k = l.count k - n k := by
  induction l generalizing n with
  | nil => simp [leftOver]
  | cons t ts ih =>
    simp only [leftOver]
    by_cases h : n t = 0 <;> by_cases hk : t = k
    · subst hk; simp [h, ih]
    · simp [h, ih, List.count_cons_of_ne hk]
    · subst hk; simp [h, ih]; omega
    · simp [h, ih, List.count_cons_of_ne hk, Ne.symm hk]

end Sys2Proof.Machine
end

