-- ==== Sys2Proof/Laws/Core.lean ====
section
/-! SUPPORT. That floor events keep the core of the hall (`Hall.core`, in Safety.lean): each operation of the floor
controller, the grant arbiter, the relay and the regroup controller has one lemma that it keeps the core. A reply read
and an absence also write the unit records they concern: these keep the `bare` part, which leaves those fields
out. -/

namespace Sys2Proof.Machine

/-- Keeping the core keeps the bare part. -/
theorem bare_of_core {g h : Hall} (e : g.core = h.core) : g.bare = h.bare := by
  simp only [Hall.core, Prod.mk.injEq] at e
  obtain ⟨e1, e2, e3, e4, e5⟩ := e
  have e2' : (fun u : UnitId => (g.unit u).bare) = fun u => (h.unit u).bare := by
    funext u
    have := congrFun e2 u
    simp only [UnitRec.core, Prod.mk.injEq] at this
    simp only [UnitRec.bare, this]
  simp only [Hall.bare, e1, e2', e3, e4, e5]

theorem core_room {g h : Hall} (e : g.core = h.core) (i : SegId) :
    (g.room i).map Room.core = (h.room i).map Room.core := congrFun (congrArg (·.1) e) i

theorem core_unit {g h : Hall} (e : g.core = h.core) (u : UnitId) : (g.unit u).core = (h.unit u).core :=
  congrFun (congrArg (·.2.1) e) u

theorem core_booth {g h : Hall} (e : g.core = h.core) (b : BoothId) : (g.booths[b]).core = (h.booths[b]).core :=
  congrFun (congrArg (·.2.2.1) e) b

theorem core_port {g h : Hall} (e : g.core = h.core) (p : PortId) : (g.ports[p]).core = (h.ports[p]).core :=
  congrFun (congrArg (·.2.2.2.2) e) p

variable (h : Hall)

/-! ## Flags -/

@[simp] theorem portFlagged_core (p : Port) (f : Flag) : (portFlagged p f).core = p.core := by
  unfold portFlagged
  split <;> rfl

@[simp] theorem raise_core (f : Flag) (x : SegSet) : (raise f x h).core = h.core := by
  have : ∀ p : PortId, ((raise f x h).ports[p]).core = (h.ports[p]).core := fun p => by
    simp only [raise, Fin.getElem_fin, tab_getElem]
    split <;> simp
  simp only [Hall.core, raise_room, raise_unit, raise_booths, raise_radiators, this]

@[simp] theorem raiseRoom_core (f : Flag) (i : SegId) : (raiseRoom f i h).core = h.core := raise_core _ _ _

@[simp] theorem raiseAt_core (f : Flag) (sg : SegId) : (raiseAt f sg h).core = h.core := by
  unfold raiseAt
  split <;> simp

@[simp] theorem raiseSeat_core (sg : Option SegId) : (raiseSeat sg h).core = h.core := by
  unfold raiseSeat
  split <;> simp

/-! ## Records -/

@[simp] theorem setAddr_core (u : UnitId) (r : AddrRec) : (h.setAddr u r).core = h.core := rfl

@[simp] theorem setEntry_core (r : SlotRef) (e : Option Entry) : (h.setEntry r e).core = h.core := rfl

theorem setUnit_core (u : UnitId) (r : UnitRec) (hr : r.core = (h.unit u).core) : (h.setUnit u r).core = h.core := by
  have : (fun v : UnitId => ((h.setUnit u r).unit v).core) = fun v => (h.unit v).core := by
    funext v
    by_cases e : u = v
    · subst e; simp [hr]
    · rw [Hall.setUnit_unit_ne _ _ e]
  simp only [Hall.core, this, Hall.setUnit_room, Hall.setUnit_booths, Hall.setUnit_radiators, Hall.setUnit_ports]

theorem setRoom_core (i : SegId) (r : Option Room) (hr : r.map Room.core = (h.room i).map Room.core) :
    (h.setRoom i r).core = h.core := by
  have : (fun j : SegId => ((h.setRoom i r).room j).map Room.core) = fun j => (h.room j).map Room.core := by
    funext j
    by_cases e : i = j
    · subst e; simp [hr]
    · rw [Hall.setRoom_room_ne _ _ e]
  simp only [Hall.core, this, Hall.setRoom_unit, Hall.setRoom_booths, Hall.setRoom_radiators, Hall.setRoom_ports]

theorem rooms_core (f : SegId → Room → Room) (hf : ∀ i r, (f i r).core = r.core) :
    ({ h with rooms := tab fun i => (h.rooms[i]).map (f i) } : Hall).core = h.core := by
  have : (fun j : SegId => ((({ h with rooms := tab fun i => (h.rooms[i]).map (f i) } : Hall)).room j).map Room.core)
      = fun j => (h.room j).map Room.core := by
    funext j
    simp only [Hall.room, Fin.getElem_fin, tab_getElem, Fin.eta, Option.map_map]
    congr 1
    funext r
    exact hf j r
  simp only [Hall.core, this]
  rfl

@[simp] theorem idleSweep_core : (idleSweep h).core = h.core := rooms_core h _ fun _ _ => rfl

@[simp] theorem setFrozen_core (f : SegId → Bool) : (setFrozen h f).core = h.core := rooms_core h _ fun _ _ => rfl

/-! ## Orders and requests -/

@[simp] theorem giveFloor_core (u : UnitId) (o : FloorOrder) : (giveFloor h u o).core = h.core := by
  unfold giveFloor
  split <;> simp

@[simp] theorem giveNotice_core (u : UnitId) (n : Notice) : (giveNotice h u n).core = h.core := by
  unfold giveNotice
  split <;> simp

@[simp] theorem withdrawGrant_core (u : UnitId) : (withdrawGrant h u).core = h.core := by
  unfold withdrawGrant
  split <;> simp

@[simp] theorem stopConfirm_core (u : UnitId) : (stopConfirm h u).core = h.core := rfl

@[simp] theorem giveNotice_unit (u v : UnitId) (n : Notice) : (giveNotice h u n).unit v = h.unit v := by
  unfold giveNotice
  split <;> simp

@[simp] theorem giveFloor_unit (u v : UnitId) (o : FloorOrder) : (giveFloor h u o).unit v = h.unit v := by
  unfold giveFloor
  split <;> simp

@[simp] theorem clearWarn_core (u : UnitId) : (clearWarn h u).core = h.core := by
  unfold clearWarn
  split
  · rw [setUnit_core _ _ _ (by simp [UnitRec.core])]; simp
  · rfl

@[simp] theorem warnUnit_core (u : UnitId) : (warnUnit h u).core = h.core := by
  unfold warnUnit
  split
  · rfl
  · rw [setUnit_core _ _ _ (by simp [UnitRec.core])]; simp

@[simp] theorem alignSeat_core (u : UnitId) : (alignSeat h u).core = h.core := by
  simp only [alignSeat]
  split
  · simp only [raiseSeat_core]
    exact setUnit_core _ _ _ rfl
  · rfl

@[simp] theorem requests_core (l : List Request) : ({ h with requests := l } : Hall).core = h.core := rfl

@[simp] theorem seq_core (n : Stamp) : ({ h with seq := n } : Hall).core = h.core := rfl

@[simp] theorem removeRequest_core (u : UnitId) : (removeRequest h u).core = h.core :=
  rooms_core _ (fun _ r => if r.elevated = some u then { r with elevated := none } else r) fun _ r => by
    split <;> rfl

@[simp] theorem mapRequests_core (x : SegSet) (f : Request → Request) : (mapRequests h x f).core = h.core := rfl

@[simp] theorem lowerScores_core (x : SegSet) (m g : Nat) : (lowerScores h x m g).core = h.core := rfl

/-! ## Waking and relay -/

@[simp] theorem wake_core (i : SegId) : (wake h i).core = h.core := by
  unfold wake
  split
  · rfl
  · next r hr =>
    split
    · rw [raiseRoom_core]; exact setRoom_core _ _ _ (by rw [hr]; rfl)
    · split
      · exact setRoom_core _ _ _ (by rw [hr]; rfl)
      · rfl

@[simp] theorem unpinMatched_core (l : Nat) (b : Booth) : (unpinMatched l b).core = b.core := by
  unfold unpinMatched
  split <;> rfl

@[simp] theorem pivotFor_core (l : Nat) (ps : List (BoothId × Nat)) (b : Booth) : (pivotFor l ps b).core = b.core := by
  unfold pivotFor
  split
  · rfl
  · split <;> rfl

@[simp] theorem relayOne_core (l : Nat) (ps : List (BoothId × Nat)) (b : Booth) : (relayOne l ps b).core = b.core := by
  unfold relayOne
  split
  · rfl
  · split
    · split
      · rfl
      · simp; rfl
    · simp

theorem relay_core (live : List BoothId) (l : Nat) (bs : Vector Booth 12) (b : BoothId) :
    ((relay live l bs)[b]).core = (bs[b]).core := by
  simp only [relay, Fin.getElem_fin, tab_getElem, Fin.eta]
  split <;> simp

theorem booths_core (bs : Vector Booth 12) (hb : ∀ b : BoothId, (bs[b]).core = (h.booths[b]).core) :
    ({ h with booths := bs } : Hall).core = h.core := by
  simp only [Hall.core, hb]
  rfl

@[simp] theorem reevaluate_core (i : SegId) : (reevaluate h i).core = h.core := by
  unfold reevaluate
  split
  · rfl
  · simp only []
    split
    · rfl
    · rw [raiseRoom_core]; exact booths_core _ _ fun b => relay_core _ _ _ b

/-! ## Grants -/

@[simp] theorem grantUnit_core (u : UnitId) (g : Option Stamp) : (grantUnit h u g).core = h.core := by
  unfold grantUnit
  split
  · simp only []
    split <;> simp
  · rfl

@[simp] theorem ageRoom_core (i : SegId) : (ageRoom h i).core = h.core := by
  unfold ageRoom
  split <;> simp

theorem selectOnce_core {h g : Hall} {i : SegId} (e : selectOnce h i = some g) : g.core = h.core := by
  unfold selectOnce at e
  cases hr : h.room i with
  | none => simp [hr] at e
  | some r =>
    cases hc : choose h r (candidates h i) with
    | none => simp [hr, hc] at e
    | some q =>
      simp only [hr, hc, Option.bind_some, Option.map_some, Option.some.injEq] at e
      rw [← e]
      simp

@[simp] theorem arbiterLoop_core (n : Nat) : ∀ (h : Hall) (i : SegId), (arbiterLoop n h i).core = h.core := by
  induction n with
  | zero => intro h i; rfl
  | succ n ih =>
    intro h i
    unfold arbiterLoop
    split
    · next g e => rw [ih, selectOnce_core e]
    · rfl

@[simp] theorem arbiterRun_core (i : SegId) : (arbiterRun h i).core = h.core := by
  unfold arbiterRun
  split
  · split <;> simp
  · rfl

@[simp] theorem serveRequest_core (i : SegId) (u : UnitId) : (serveRequest i h u).core = h.core := by
  unfold serveRequest
  split <;> simp

/-- A fold of operations that each keep the core keeps it. -/
theorem fold_core {γ : Type} {f : Hall → γ → Hall} (hf : ∀ g c, (f g c).core = g.core) (l : List γ) :
    (l.foldl f h).core = h.core :=
  foldl_keeps (P := fun g => g.core = h.core) (fun g c hg => (hf g c).trans hg) l h rfl

@[simp] theorem overrideService_core (i : SegId) : (overrideService h i).core = h.core :=
  fold_core h (fun g u => serveRequest_core g i u) _

@[simp] theorem grantHandling_core (i : SegId) : (grantHandling h i).core = h.core := by
  unfold grantHandling
  split
  · rfl
  · split
    · rfl
    · split <;> simp

@[simp] theorem grantHandlingAt_core (i : Option SegId) : (grantHandlingAt h i).core = h.core := by
  unfold grantHandlingAt
  split <;> simp

/-! ## Freed slots -/

@[simp] theorem rotation_core (v : Vector SegId 4) : ({ h with rotation := v } : Hall).core = h.core := rfl

@[simp] theorem rotate_core (t : TrunkId) (o : Option SegId) (l : List SegId) :
    ∀ h : Hall, (rotate t o l h).core = h.core := by
  induction l with
  | nil => intro h; rfl
  | cons i l ih =>
    intro h
    unfold rotate
    split
    · exact ih h
    · simp only []
      split
      · simp
      · rw [ih]; simp

@[simp] theorem rotateSlot_core (o : Option SegId) (t : TrunkId) : (rotateSlot o h t).core = h.core := by
  unfold rotateSlot
  split <;> simp

theorem offerChairs_core (l : List TrunkId) : ∀ h : Hall, (offerChairs l h).1.core = h.core := by
  induction l with
  | nil => intro h; rfl
  | cons t l ih =>
    intro h
    unfold offerChairs
    split
    · rw [ih]; simp
    · exact ih h

@[simp] theorem handOn_core (l : List TrunkId) (o : Option SegId) (f : Bool) : (handOn h l o f).core = h.core := by
  simp only [handOn]
  rw [fold_core _ fun g t => rotateSlot_core g _ _]
  split <;> split <;> simp [offerChairs_core]

@[simp] theorem chairService_core (l : List SegId) : (chairService h l).core = h.core := by
  unfold chairService
  exact fold_core h (fun g u => by split <;> simp) _

@[simp] theorem unfreeze_core (l : List SegId) : (unfreeze h l).core = h.core := by
  unfold unfreeze
  rw [fold_core _ grantHandling_core]
  simp

/-! ## Closing, cancelling and recalling -/

@[simp] theorem closeEntry_core (r : SlotRef) : (closeEntry h r).core = h.core := by
  unfold closeEntry
  split
  · split
    · simp only [raiseAt_core]
      split <;> simp
    · rfl
  · rfl

@[simp] theorem closeAndHandle_core (r : SlotRef) : (closeAndHandle h r).core = h.core := by
  unfold closeAndHandle
  split
  · split <;> simp
  · rfl

@[simp] theorem dropEntry_core (r : SlotRef) (e : Entry) : (dropEntry h r e).core = h.core := by simp [dropEntry]

@[simp] theorem closingDone_core (r : SlotRef) (e : Entry) : (closingDone h r e).core = h.core := by
  simp only [closingDone, handOn_core]
  split <;> simp

@[simp] theorem cancelEntry_core (r : SlotRef) (e : Entry) : (cancelEntry h r e).core = h.core := by
  simp only [cancelEntry]
  split <;> simp

@[simp] theorem cancelAndHandOn_core (r : SlotRef) (e : Entry) : (cancelAndHandOn h r e).core = h.core := by
  simp [cancelAndHandOn]

@[simp] theorem recallEntry_core (r : SlotRef) (e : Entry) : (recallEntry h r e).core = h.core := by
  simp only [recallEntry, handOn_core]
  split
  · split
    · split <;> simp
    · simp
  · simp
  · simp

/-! ## Requests and reports -/

@[simp] theorem acceptRequest_core (i : SegId) (u : UnitId) : (acceptRequest h i u).core = h.core := by
  unfold acceptRequest
  split
  · rw [raiseRoom_core]; rfl
  · rfl

@[simp] theorem overrideArrival_core (i : SegId) (u : UnitId) : (overrideArrival h i u).core = h.core := by
  simp only [overrideArrival]
  repeat' split
  all_goals simp

@[simp] theorem newRequest_core (u : UnitId) : (newRequest h u).core = h.core := by
  simp only [newRequest]
  repeat' split
  all_goals simp

@[simp] theorem chairRequest_core (u : UnitId) : (chairRequest h u).core = h.core := by
  simp only [chairRequest]
  repeat' split
  all_goals simp

theorem offOne_core (x : Hall × List TrunkId) (r : SlotRef) : (offOne x r).1.core = x.1.core := by
  unfold offOne
  repeat' split
  all_goals simp

@[simp] theorem allOff_core (i : SegId) : (allOff h i).core = h.core := by
  simp only [allOff, handOn_core]
  exact foldl_keeps (P := fun x : Hall × List TrunkId => x.1.core = h.core)
    (fun x r hx => (offOne_core x r).trans hx) _ _ rfl

@[simp] theorem setSpeaker_core (i : SegId) (sg : SegId) (l : Nat) : (setSpeaker h i sg l).core = h.core := by
  unfold setSpeaker
  split
  · rfl
  · next r hr =>
    split
    · rw [reevaluate_core]; exact setRoom_core _ _ _ (by rw [hr]; rfl)
    · exact setRoom_core _ _ _ (by rw [hr]; rfl)

@[simp] theorem openEntry_core (u : UnitId) (r : SlotRef) (e : Entry) : (openEntry h u r e).core = h.core := by
  simp only [openEntry]
  repeat' split
  all_goals simp

@[simp] theorem measureTimer_core (l : Nat) (r : SlotRef) : (measureTimer l h r).core = h.core := by
  unfold measureTimer
  repeat' split
  all_goals simp

@[simp] theorem readLatch_core (u : UnitId) (l : Bool) (m : Option FloorOrder) : (readLatch h u l m).core = h.core := by
  unfold readLatch
  repeat' split
  all_goals simp

@[simp] theorem readMic_core (u : UnitId) (m : Option SlotIx) : (readMic h u m).core = h.core := by
  unfold readMic
  repeat' split
  all_goals simp

@[simp] theorem chairNext_core (u : UnitId) : (chairNext h u).core = h.core := by
  unfold chairNext
  split
  · next i _ =>
    split
    · rfl
    · cases e : selectOnce h i with
      | none => rfl
      | some g => exact selectOnce_core e
  · rfl

@[simp] theorem chairAllOff_core (u : UnitId) : (chairAllOff h u).core = h.core := by
  unfold chairAllOff
  split <;> simp

theorem setUnit_bare (u : UnitId) (r : UnitRec) (hr : r.bare = (h.unit u).bare) : (h.setUnit u r).bare = h.bare := by
  have : (fun v : UnitId => ((h.setUnit u r).unit v).bare) = fun v => (h.unit v).bare := by
    funext v
    by_cases e : u = v
    · subst e; simp [hr]
    · rw [Hall.setUnit_unit_ne _ _ e]
  simp only [Hall.bare, this, Hall.setUnit_room, Hall.setUnit_booths, Hall.setUnit_radiators, Hall.setUnit_ports]

theorem storeReport_bare (u : UnitId) (l : Nat) (sg : SegId) : (storeReport h u l sg).bare = h.bare := by
  simp only [storeReport]
  refine (bare_of_core (alignSeat_core _ _)).trans ?_
  refine (bare_of_core (requests_core (h.setUnit u _) _)).trans (setUnit_bare h _ _ rfl)

/-- The record of a unit after its report is stored, seat and warned mark apart. -/
theorem storeReport_unit (u : UnitId) (l : Nat) (sg : SegId) :
    ((storeReport h u l sg).unit u).core = { h.unit u with lang := l, reported := some sg }.core := by
  simp only [storeReport]
  refine (core_unit (alignSeat_core _ _) u).trans ?_
  show ((h.setUnit u _).unit u).core = _
  rw [Hall.setUnit_unit]

theorem chairNext_if_core (u : UnitId) (c : Bool) : (if c = true then chairNext h u else h).core = h.core := by
  cases c
  · rfl
  · exact chairNext_core h u

theorem chairAllOff_if_core (u : UnitId) (c : Bool) : (if c = true then chairAllOff h u else h).core = h.core := by
  cases c
  · rfl
  · exact chairAllOff_core h u

/-- What a reply read does to the core between storing its report and storing its latches: nothing. -/
theorem readKeys_core (u : UnitId) (x : HandOver) : (readMic (readLatch h u x.latch x.mark) u x.mic).core = h.core :=
  (readMic_core _ _ _).trans (readLatch_core _ _ _ _)

theorem storeLatches_bare (u : UnitId) (x : HandOver) : (storeLatches h u x).bare = h.bare := setUnit_bare _ _ _ rfl

/-- Storing the latches writes them on whatever record the unit has, the core of which is given. -/
theorem storeLatches_unit (g : Hall) (u : UnitId) (x : HandOver) (r : UnitRec) (e : (g.unit u).core = r.core) :
    ((storeLatches g u x).unit u).core =
      { r with latch := x.latch, next := x.next, allOff := x.allOff, mic := x.mic }.core := by
  simp only [UnitRec.core, Prod.mk.injEq] at e
  simp only [storeLatches, Hall.setUnit_unit, UnitRec.core, e]

/-- Reading a reply keeps the bare part. -/
theorem readReply_bare (u : UnitId) (x : HandOver) : (readReply h u x).bare = h.bare := by
  unfold readReply
  split
  · rfl
  · refine (storeLatches_bare _ u x).trans ((bare_of_core (chairAllOff_if_core _ u _)).trans ?_)
    refine (bare_of_core (chairNext_if_core _ u _)).trans ?_
    exact (bare_of_core (readKeys_core _ u x)).trans (storeReport_bare h u x.lang x.seat)

/-- The record of a PRESENT unit after a reply is read: what the reply reports is stored (R79, R80). -/
theorem readReply_unit (u : UnitId) (x : HandOver) (hp : (h.unit u).present = true) :
    ((readReply h u x).unit u).core =
      { h.unit u with lang := x.lang, reported := some x.seat, latch := x.latch, next := x.next, allOff := x.allOff,
                      mic := x.mic }.core := by
  unfold readReply
  rw [if_neg (by rw [hp]; simp)]
  refine storeLatches_unit _ u x { h.unit u with lang := x.lang, reported := some x.seat } ?_
  refine (core_unit (chairAllOff_if_core _ u _) u).trans ?_
  refine (core_unit (chairNext_if_core _ u _) u).trans ?_
  exact (core_unit (readKeys_core _ u x) u).trans (storeReport_unit h u x.lang x.seat)

/-! ## Absence -/

theorem forgetUnit_bare (u : UnitId) : (forgetUnit h u).bare = h.bare := by
  simp only [forgetUnit]
  refine (bare_of_core ((raiseSeat_core _ _).trans (removeRequest_core _ _))).trans ?_
  exact setUnit_bare (h.setAddr u AddrRec.reset) _ _ rfl

/-- The records of the units after one is forgotten, seat and warned mark apart. -/
theorem forgetUnit_unit (u v : UnitId) :
    ((forgetUnit h u).unit v).core =
      if u = v then
        { h.unit u with present := false, latch := false, next := false, allOff := false, mic := none }.core
      else (h.unit v).core := by
  simp only [forgetUnit]
  refine (core_unit ((raiseSeat_core _ _).trans (removeRequest_core _ _)) v).trans ?_
  split
  · next e => subst e; rw [Hall.setUnit_unit]; rfl
  · next e => rw [Hall.setUnit_unit_ne _ _ e]; rfl

@[simp] theorem endEntry_core (u : UnitId) : (endEntry h u).core = h.core := by
  simp only [endEntry, alignSeat_core]
  repeat' split
  all_goals simp

theorem makeAbsent_bare (us : List UnitId) : (makeAbsent h us).bare = h.bare := by
  unfold makeAbsent
  refine (bare_of_core (fold_core _ endEntry_core us)).trans ?_
  exact foldl_keeps (P := fun g : Hall => g.bare = h.bare) (fun g u hg => (forgetUnit_bare g u).trans hg) _ _ rfl

theorem forget_present (us : List UnitId) (v : UnitId) :
    ∀ h : Hall, ((us.foldl forgetUnit h).unit v).present = (!us.contains v && (h.unit v).present) := by
  induction us with
  | nil => intro h; simp
  | cons u us ih =>
    intro h
    have e := forgetUnit_unit h u v
    rw [List.foldl_cons, ih]
    by_cases huv : u = v
    · subst huv
      simp only [if_true, UnitRec.core, Prod.mk.injEq] at e
      simp [e.1]
    · have hvu : v ≠ u := fun e => huv e.symm
      rw [if_neg huv] at e
      simp only [UnitRec.core, Prod.mk.injEq] at e
      simp [e.1, hvu]

/-- Exactly the units given become ABSENT (R61). -/
theorem makeAbsent_present (us : List UnitId) (v : UnitId) :
    ((makeAbsent h us).unit v).present = (!us.contains v && (h.unit v).present) := by
  have e := core_unit (fold_core (us.foldl forgetUnit h) endEntry_core us) v
  simp only [UnitRec.core, Prod.mk.injEq] at e
  exact e.1.trans (forget_present us v h)

/-! ## Drain -/

@[simp] theorem recallAt_core (r : SlotRef) : (recallAt h r).core = h.core := by
  unfold recallAt
  repeat' split
  all_goals simp

@[simp] theorem trimTo_core (x : SegSet) (n : Nat) : (trimTo h x n).core = h.core := fold_core h closeEntry_core _

@[simp] theorem trimPending_core (sc : Scanner) (rg : Regroup) : (trimPending sc rg h).core = h.core :=
  fold_core h (fun g _ => trimTo_core g _ _) _

end Sys2Proof.Machine
end

