-- ==== Sys2Proof/Laws/PerInstr.lean ====
section
/-! SUPPORT. One lemma per command on its frame: the code a command frame carries is not 00, and names that command
with its port, tag and payload (Tables 9-1 and 9-4). Events carry no frame. -/

namespace Sys2Proof.Laws

/-- The code of a command's frame is not 00 and names the command again. -/
def FrameCode.Statement (i : Instr) : Prop :=
  i.codeOk = true → ∀ p c t l, frameParts i = some (p, c, t, l) →
    c ≠ 0 ∧ (match commandOf c.toNat with | some k => k p t l | none => .unknownCommand p c t l) = i

/-- A code outside Table 9-4 names no command. -/
theorem commandOf_unlisted {n : Nat} (h : knownCodes.contains n = false) : commandOf n = none := by
  unfold commandOf
  split <;> first | rfl | exact absurd h (by decide)

/-- A term without a frame. -/
theorem unframed {i : Instr} (h : frameParts i = none) : FrameCode.Statement i := by
  intro _ p c t l e
  rw [h] at e
  exact absurd e (by simp)

/-- A command with the code of its row of Table 9-4. -/
theorem framed {i : Instr} {p : PortId} {c t : Byte} {l : List Byte} (k : PortId → Byte → List Byte → Instr)
    (h : frameParts i = some (p, c, t, l)) (hc : c ≠ 0) (hk : commandOf c.toNat = some k) (hi : k p t l = i) :
    FrameCode.Statement i := by
  intro _ p' c' t' l' e
  rw [h] at e
  simp only [Option.some.injEq, Prod.mk.injEq] at e
  obtain ⟨rfl, rfl, rfl, rfl⟩ := e
  rw [hk]
  exact ⟨hc, hi⟩

theorem FrameCode.fullReset : ∀ pins, FrameCode.Statement (.fullReset pins) := fun _ => unframed rfl

theorem FrameCode.contactEvent : ∀ w closed stowed, FrameCode.Statement (.contactEvent w closed stowed) := fun _ _ _ => unframed rfl

theorem FrameCode.settleTimerExpiry : ∀ w, FrameCode.Statement (.settleTimerExpiry w) := fun _ => unframed rfl

theorem FrameCode.stuckTimerExpiry : ∀ w, FrameCode.Statement (.stuckTimerExpiry w) := fun _ => unframed rfl

theorem FrameCode.deadlineExpiry : FrameCode.Statement (.deadlineExpiry) := unframed rfl

theorem FrameCode.mixBlockStart : FrameCode.Statement (.mixBlockStart) := unframed rfl

theorem FrameCode.rampEnd : ∀ t k, FrameCode.Statement (.rampEnd t k) := fun _ _ => unframed rfl

theorem FrameCode.mixBlockEnd : FrameCode.Statement (.mixBlockEnd) := unframed rfl

theorem FrameCode.senseLineChange : ∀ t chain, FrameCode.Statement (.senseLineChange t chain) := fun _ _ => unframed rfl

theorem FrameCode.overcurrent : ∀ t, FrameCode.Statement (.overcurrent t) := fun _ => unframed rfl

theorem FrameCode.pollRoundStart : ∀ t, FrameCode.Statement (.pollRoundStart t) := fun _ => unframed rfl

theorem FrameCode.pollReply : ∀ t rx, FrameCode.Statement (.pollReply t rx) := fun _ _ => unframed rfl

theorem FrameCode.roundEnd : ∀ t, FrameCode.Statement (.roundEnd t) := fun _ => unframed rfl

theorem FrameCode.confirmationCountExpiry : ∀ u, FrameCode.Statement (.confirmationCountExpiry u) := fun _ => unframed rfl

theorem FrameCode.handOverTaken : ∀ t, FrameCode.Statement (.handOverTaken t) := fun _ => unframed rfl

theorem FrameCode.speakLimitWarning : ∀ u, FrameCode.Statement (.speakLimitWarning u) := fun _ => unframed rfl

theorem FrameCode.speakLimitExpiry : ∀ u, FrameCode.Statement (.speakLimitExpiry u) := fun _ => unframed rfl

theorem FrameCode.idleTimerExpiry : ∀ room, FrameCode.Statement (.idleTimerExpiry room) := fun _ => unframed rfl

theorem FrameCode.attentionPulseEnd : ∀ p, FrameCode.Statement (.attentionPulseEnd p) := fun _ => unframed rfl

theorem FrameCode.failedFrame : ∀ p tag, FrameCode.Statement (.failedFrame p tag) := fun _ _ => unframed rfl

theorem FrameCode.unknownCommand : ∀ p code tag payload, FrameCode.Statement (.unknownCommand p code tag payload) := by
  intro p code tag payload w p' c t l e
  simp only [frameParts, Option.some.injEq, Prod.mk.injEq] at e
  obtain ⟨rfl, rfl, rfl, rfl⟩ := e
  simp only [Instr.codeOk, Bool.and_eq_true, decide_eq_true_eq, Bool.not_eq_true'] at w
  refine ⟨fun h => w.1 (by rw [h]; rfl), ?_⟩
  rw [commandOf_unlisted w.2]

theorem FrameCode.defineWall : ∀ p tag payload, FrameCode.Statement (.defineWall p tag payload) := fun _ _ _ => framed _ rfl (by decide) rfl rfl

theorem FrameCode.wallOverride : ∀ p tag payload, FrameCode.Statement (.wallOverride p tag payload) := fun _ _ _ => framed _ rfl (by decide) rfl rfl

theorem FrameCode.lockWalls : ∀ p tag payload, FrameCode.Statement (.lockWalls p tag payload) := fun _ _ _ => framed _ rfl (by decide) rfl rfl

theorem FrameCode.setSegmentDefaults : ∀ p tag payload, FrameCode.Statement (.setSegmentDefaults p tag payload) := fun _ _ _ => framed _ rfl (by decide) rfl rfl

theorem FrameCode.setLeadRank : ∀ p tag payload, FrameCode.Statement (.setLeadRank p tag payload) := fun _ _ _ => framed _ rfl (by decide) rfl rfl

theorem FrameCode.setRegroupTimes : ∀ p tag payload, FrameCode.Statement (.setRegroupTimes p tag payload) := fun _ _ _ => framed _ rfl (by decide) rfl rfl

theorem FrameCode.forceRegroup : ∀ p tag payload, FrameCode.Statement (.forceRegroup p tag payload) := fun _ _ _ => framed _ rfl (by decide) rfl rfl

theorem FrameCode.assignScope : ∀ p tag payload, FrameCode.Statement (.assignScope p tag payload) := fun _ _ _ => framed _ rfl (by decide) rfl rfl

theorem FrameCode.setUnit : ∀ p tag payload, FrameCode.Statement (.setUnit p tag payload) := fun _ _ _ => framed _ rfl (by decide) rfl rfl

theorem FrameCode.trunkPower : ∀ p tag payload, FrameCode.Statement (.trunkPower p tag payload) := fun _ _ _ => framed _ rfl (by decide) rfl rfl

theorem FrameCode.setRollcall : ∀ p tag payload, FrameCode.Statement (.setRollcall p tag payload) := fun _ _ _ => framed _ rfl (by decide) rfl rfl

theorem FrameCode.setRadiators : ∀ p tag payload, FrameCode.Statement (.setRadiators p tag payload) := fun _ _ _ => framed _ rfl (by decide) rfl rfl

theorem FrameCode.reinit : ∀ p tag payload, FrameCode.Statement (.reinit p tag payload) := fun _ _ _ => framed _ rfl (by decide) rfl rfl

theorem FrameCode.claimSegments : ∀ p tag payload, FrameCode.Statement (.claimSegments p tag payload) := fun _ _ _ => framed _ rfl (by decide) rfl rfl

theorem FrameCode.releaseSegments : ∀ p tag payload, FrameCode.Statement (.releaseSegments p tag payload) := fun _ _ _ => framed _ rfl (by decide) rfl rfl

theorem FrameCode.setRoom : ∀ p tag payload, FrameCode.Statement (.setRoom p tag payload) := fun _ _ _ => framed _ rfl (by decide) rfl rfl

theorem FrameCode.setWindow : ∀ p tag payload, FrameCode.Statement (.setWindow p tag payload) := fun _ _ _ => framed _ rfl (by decide) rfl rfl

theorem FrameCode.grant : ∀ p tag payload, FrameCode.Statement (.grant p tag payload) := fun _ _ _ => framed _ rfl (by decide) rfl rfl

theorem FrameCode.grantNext : ∀ p tag payload, FrameCode.Statement (.grantNext p tag payload) := fun _ _ _ => framed _ rfl (by decide) rfl rfl

theorem FrameCode.drop : ∀ p tag payload, FrameCode.Statement (.drop p tag payload) := fun _ _ _ => framed _ rfl (by decide) rfl rfl

theorem FrameCode.cancelRequest : ∀ p tag payload, FrameCode.Statement (.cancelRequest p tag payload) := fun _ _ _ => framed _ rfl (by decide) rfl rfl

theorem FrameCode.elevate : ∀ p tag payload, FrameCode.Statement (.elevate p tag payload) := fun _ _ _ => framed _ rfl (by decide) rfl rfl

theorem FrameCode.allOff : ∀ p tag payload, FrameCode.Statement (.allOff p tag payload) := fun _ _ _ => framed _ rfl (by decide) rfl rfl

theorem FrameCode.stageGain : ∀ p tag payload, FrameCode.Statement (.stageGain p tag payload) := fun _ _ _ => framed _ rfl (by decide) rfl rfl

theorem FrameCode.applyGains : ∀ p tag payload, FrameCode.Statement (.applyGains p tag payload) := fun _ _ _ => framed _ rfl (by decide) rfl rfl

theorem FrameCode.regroupAnswer : ∀ p tag payload, FrameCode.Statement (.regroupAnswer p tag payload) := fun _ _ _ => framed _ rfl (by decide) rfl rfl

theorem FrameCode.defineBooth : ∀ p tag payload, FrameCode.Statement (.defineBooth p tag payload) := fun _ _ _ => framed _ rfl (by decide) rfl rfl

theorem FrameCode.boothState : ∀ p tag payload, FrameCode.Statement (.boothState p tag payload) := fun _ _ _ => framed _ rfl (by decide) rfl rfl

theorem FrameCode.boothOutput : ∀ p tag payload, FrameCode.Statement (.boothOutput p tag payload) := fun _ _ _ => framed _ rfl (by decide) rfl rfl

theorem FrameCode.boothMic : ∀ p tag payload, FrameCode.Statement (.boothMic p tag payload) := fun _ _ _ => framed _ rfl (by decide) rfl rfl

theorem FrameCode.boothGain : ∀ p tag payload, FrameCode.Statement (.boothGain p tag payload) := fun _ _ _ => framed _ rfl (by decide) rfl rfl

theorem FrameCode.pinSource : ∀ p tag payload, FrameCode.Statement (.pinSource p tag payload) := fun _ _ _ => framed _ rfl (by decide) rfl rfl

theorem FrameCode.unpinSource : ∀ p tag payload, FrameCode.Statement (.unpinSource p tag payload) := fun _ _ _ => framed _ rfl (by decide) rfl rfl

theorem FrameCode.readWalls : ∀ p tag payload, FrameCode.Statement (.readWalls p tag payload) := fun _ _ _ => framed _ rfl (by decide) rfl rfl

theorem FrameCode.readRegroup : ∀ p tag payload, FrameCode.Statement (.readRegroup p tag payload) := fun _ _ _ => framed _ rfl (by decide) rfl rfl

theorem FrameCode.readRoom : ∀ p tag payload, FrameCode.Statement (.readRoom p tag payload) := fun _ _ _ => framed _ rfl (by decide) rfl rfl

theorem FrameCode.readQueue : ∀ p tag payload, FrameCode.Statement (.readQueue p tag payload) := fun _ _ _ => framed _ rfl (by decide) rfl rfl

theorem FrameCode.readUnit : ∀ p tag payload, FrameCode.Statement (.readUnit p tag payload) := fun _ _ _ => framed _ rfl (by decide) rfl rfl

theorem FrameCode.readBooth : ∀ p tag payload, FrameCode.Statement (.readBooth p tag payload) := fun _ _ _ => framed _ rfl (by decide) rfl rfl

theorem FrameCode.readTrunk : ∀ p tag payload, FrameCode.Statement (.readTrunk p tag payload) := fun _ _ _ => framed _ rfl (by decide) rfl rfl

theorem FrameCode.readFlags : ∀ p tag payload, FrameCode.Statement (.readFlags p tag payload) := fun _ _ _ => framed _ rfl (by decide) rfl rfl

theorem FrameCode.ackFlags : ∀ p tag payload, FrameCode.Statement (.ackFlags p tag payload) := fun _ _ _ => framed _ rfl (by decide) rfl rfl

theorem FrameCode.setAttention : ∀ p tag payload, FrameCode.Statement (.setAttention p tag payload) := fun _ _ _ => framed _ rfl (by decide) rfl rfl

theorem FrameCode.linkReset : ∀ p tag payload, FrameCode.Statement (.linkReset p tag payload) := fun _ _ _ => framed _ rfl (by decide) rfl rfl

theorem FrameCode.wordClockPeriod : ∀ x, FrameCode.Statement (.wordClockPeriod x) := fun _ => unframed rfl

theorem FrameCode.pollSend : ∀ t, FrameCode.Statement (.pollSend t) := fun _ => unframed rfl

end Sys2Proof.Laws
end

