-- ==== Sys2Proof/Laws/Pool.lean ====
section
/-! SUPPORT. The request pool (R73): only an accepted request and a recall add to it, each behind the test for space,
so every operation of the floor controller and the grant arbiter keeps its bound. -/

namespace Sys2Proof.Machine

variable {h : Hall}

theorem poolOk_of_eq {g : Hall} (e : g.requests = h.requests) (w : h.poolOk) : g.poolOk := by
  unfold Hall.poolOk at *
  rw [e]
  exact w

/-! ## Operations that leave the pool alone -/

@[simp] theorem raiseRoom_requests (f : Flag) (i : SegId) (h : Hall) : (raiseRoom f i h).requests = h.requests := rfl

@[simp] theorem raiseAt_requests (f : Flag) (sg : SegId) (h : Hall) : (raiseAt f sg h).requests = h.requests := by
  unfold raiseAt
  split <;> simp

@[simp] theorem raiseSeat_requests (sg : Option SegId) (h : Hall) : (raiseSeat sg h).requests = h.requests := by
  unfold raiseSeat
  split <;> simp

@[simp] theorem giveFloor_requests (h : Hall) (u : UnitId) (o : FloorOrder) :
    (giveFloor h u o).requests = h.requests := by
  unfold giveFloor
  split <;> simp

@[simp] theorem giveNotice_requests (h : Hall) (u : UnitId) (n : Notice) :
    (giveNotice h u n).requests = h.requests := by
  unfold giveNotice
  split <;> simp

@[simp] theorem withdrawGrant_requests (h : Hall) (u : UnitId) : (withdrawGrant h u).requests = h.requests := by
  unfold withdrawGrant
  split <;> simp

@[simp] theorem stopConfirm_requests (h : Hall) (u : UnitId) : (stopConfirm h u).requests = h.requests := rfl

@[simp] theorem clearWarn_requests (h : Hall) (u : UnitId) : (clearWarn h u).requests = h.requests := by
  unfold clearWarn
  split <;> simp

@[simp] theorem warnUnit_requests (h : Hall) (u : UnitId) : (warnUnit h u).requests = h.requests := by
  unfold warnUnit
  split <;> simp

@[simp] theorem alignSeat_requests (h : Hall) (u : UnitId) : (alignSeat h u).requests = h.requests := by
  simp only [alignSeat]
  split <;> simp

@[simp] theorem wake_requests (h : Hall) (i : SegId) : (wake h i).requests = h.requests := by
  unfold wake
  repeat' split
  all_goals simp

@[simp] theorem reevaluate_requests (h : Hall) (i : SegId) : (reevaluate h i).requests = h.requests := by
  unfold reevaluate
  split
  · rfl
  · simp only []
    split <;> simp

@[simp] theorem closeEntry_requests (h : Hall) (r : SlotRef) : (closeEntry h r).requests = h.requests := by
  unfold closeEntry
  split
  · split
    · simp only [raiseAt_requests]
      split <;> simp
    · rfl
  · rfl

@[simp] theorem dropEntry_requests (h : Hall) (r : SlotRef) (e : Entry) : (dropEntry h r e).requests = h.requests := by
  simp [dropEntry]

@[simp] theorem cancelEntry_requests (h : Hall) (r : SlotRef) (e : Entry) :
    (cancelEntry h r e).requests = h.requests := by
  simp only [cancelEntry]
  split <;> simp

@[simp] theorem setSpeaker_requests (h : Hall) (i sg : SegId) (l : Nat) :
    (setSpeaker h i sg l).requests = h.requests := by
  unfold setSpeaker
  split
  · rfl
  · split <;> simp

@[simp] theorem openEntry_requests (h : Hall) (u : UnitId) (r : SlotRef) (e : Entry) :
    (openEntry h u r e).requests = h.requests := by
  simp only [openEntry]
  repeat' split
  all_goals simp

@[simp] theorem setFrozen_requests (h : Hall) (f : SegId → Bool) : (setFrozen h f).requests = h.requests := rfl

/-! ## Operations that keep the bound -/

theorem removeRequest_pool (u : UnitId) (w : h.poolOk) : (removeRequest h u).poolOk :=
  le_trans (List.length_filter_le _ _) w

theorem mapRequests_pool (x : SegSet) (f : Request → Request) (w : h.poolOk) : (mapRequests h x f).poolOk := by
  simpa [Hall.poolOk, mapRequests] using w

theorem grantUnit_pool (u : UnitId) (g : Option Stamp) (w : h.poolOk) : (grantUnit h u g).poolOk := by
  unfold grantUnit
  split
  · simp only []
    split
    all_goals
      refine poolOk_of_eq ?_ (removeRequest_pool (h := { h with seq := h.seq + 1 }) u w)
      simp
  · exact w

theorem ageRoom_pool (i : SegId) (w : h.poolOk) : (ageRoom h i).poolOk := by
  unfold ageRoom
  split
  · exact mapRequests_pool _ _ w
  · exact w

theorem selectOnce_pool {g : Hall} {i : SegId} (e : selectOnce h i = some g) (w : h.poolOk) : g.poolOk := by
  unfold selectOnce at e
  cases hr : h.room i with
  | none => simp [hr] at e
  | some r =>
    cases hc : choose h r (candidates h i) with
    | none => simp [hr, hc] at e
    | some q =>
      simp only [hr, hc, Option.bind_some, Option.map_some, Option.some.injEq] at e
      rw [← e]
      exact ageRoom_pool _ (grantUnit_pool _ _ w)

theorem arbiterLoop_pool (n : Nat) : ∀ {h : Hall} (i : SegId), h.poolOk → (arbiterLoop n h i).poolOk := by
  induction n with
  | zero => intro h i w; exact w
  | succ n ih =>
    intro h i w
    unfold arbiterLoop
    split
    · next g e => exact ih i (selectOnce_pool e w)
    · exact w

theorem arbiterRun_pool (i : SegId) (w : h.poolOk) : (arbiterRun h i).poolOk := by
  unfold arbiterRun
  split
  · split
    · exact arbiterLoop_pool _ i w
    · exact w
  · exact w

theorem serveRequest_pool (i : SegId) (u : UnitId) (w : h.poolOk) : (serveRequest i h u).poolOk := by
  unfold serveRequest
  split
  · exact grantUnit_pool _ _ w
  · exact w

/-- A fold of operations that each keep the bound keeps it. -/
theorem fold_pool {γ : Type} {f : Hall → γ → Hall} (hf : ∀ g c, g.poolOk → (f g c).poolOk) (l : List γ)
    (w : h.poolOk) : (l.foldl f h).poolOk := foldl_keeps (P := Hall.poolOk) hf l h w

theorem overrideService_pool (i : SegId) (w : h.poolOk) : (overrideService h i).poolOk :=
  fold_pool (fun _ u w => serveRequest_pool i u w) _ w

theorem grantHandling_pool (i : SegId) (w : h.poolOk) : (grantHandling h i).poolOk := by
  unfold grantHandling
  split
  · exact w
  · split
    · exact w
    · split
      · exact arbiterRun_pool i w
      · exact w
      · exact overrideService_pool i w

theorem grantHandlingAt_pool (i : Option SegId) (w : h.poolOk) : (grantHandlingAt h i).poolOk := by
  unfold grantHandlingAt
  split
  · exact grantHandling_pool _ w
  · exact w

theorem rotate_pool (t : TrunkId) (o : Option SegId) (l : List SegId) :
    ∀ {h : Hall}, h.poolOk → (rotate t o l h).poolOk := by
  induction l with
  | nil => intro h w; exact w
  | cons i l ih =>
    intro h w
    unfold rotate
    split
    · exact ih w
    · simp only []
      split
      · exact poolOk_of_eq rfl (arbiterRun_pool i w)
      · exact ih (arbiterRun_pool i w)

theorem rotateSlot_pool (o : Option SegId) (t : TrunkId) {h : Hall} (w : h.poolOk) : (rotateSlot o h t).poolOk := by
  unfold rotateSlot
  split
  · exact w
  · exact rotate_pool _ _ _ w

theorem offerChairs_pool (l : List TrunkId) : ∀ {h : Hall}, h.poolOk → (offerChairs l h).1.poolOk := by
  induction l with
  | nil => intro h w; exact w
  | cons t l ih =>
    intro h w
    unfold offerChairs
    split
    · exact ih (grantUnit_pool _ _ w)
    · exact ih w

theorem handOn_pool (l : List TrunkId) (o : Option SegId) (f : Bool) (w : h.poolOk) : (handOn h l o f).poolOk := by
  simp only [handOn]
  refine fold_pool (fun g t w => rotateSlot_pool _ _ w) _ ?_
  split <;> split
  all_goals first
    | exact grantHandlingAt_pool _ (offerChairs_pool _ w)
    | exact offerChairs_pool _ w

theorem chairService_pool (l : List SegId) (w : h.poolOk) : (chairService h l).poolOk := by
  unfold chairService
  refine fold_pool (fun g u w => ?_) _ w
  split
  · exact grantUnit_pool _ _ w
  · exact w

theorem unfreeze_pool (l : List SegId) (w : h.poolOk) : (unfreeze h l).poolOk :=
  fold_pool (fun _ i w => grantHandling_pool i w) _ (chairService_pool l w)

theorem closeAndHandle_pool (r : SlotRef) (w : h.poolOk) : (closeAndHandle h r).poolOk := by
  unfold closeAndHandle
  split
  · split
    · exact grantHandlingAt_pool _ (poolOk_of_eq (by simp) w)
    · exact poolOk_of_eq (by simp) w
  · exact w

theorem closingDone_pool (r : SlotRef) (e : Entry) (w : h.poolOk) : (closingDone h r e).poolOk := by
  simp only [closingDone]
  refine handOn_pool _ _ _ (poolOk_of_eq ?_ w)
  split <;> simp

theorem cancelAndHandOn_pool (r : SlotRef) (e : Entry) (w : h.poolOk) : (cancelAndHandOn h r e).poolOk :=
  handOn_pool _ _ _ (poolOk_of_eq (by simp) w)

/-- A recall files a request only where the pool has space (R78). -/
theorem recallEntry_pool (r : SlotRef) (e : Entry) (w : h.poolOk) : (recallEntry h r e).poolOk := by
  simp only [recallEntry]
  refine handOn_pool _ _ _ ?_
  split
  · split
    · next hq =>
      simp only [Bool.and_eq_true, decide_eq_true_eq] at hq
      split
      all_goals
        simp only [Hall.poolOk, giveFloor_requests, withdrawGrant_requests, stopConfirm_requests, dropEntry_requests,
          List.length_append, List.length_singleton]
        exact hq.2
    · exact poolOk_of_eq (by simp) w
  · exact poolOk_of_eq (by simp) w
  · exact poolOk_of_eq (by simp) w

theorem hasSpace_room {i : SegId} (hs : h.hasSpace i = true) : h.requests.length < Config.poolSize := by
  unfold Hall.hasSpace at hs
  split at hs
  · simp only [Bool.and_eq_true, decide_eq_true_eq] at hs
    exact hs.2
  · simp at hs

/-- A request is accepted behind the test for space (R81, R86). -/
theorem acceptRequest_pool (i : SegId) (u : UnitId) (hs : h.hasSpace i = true) : (acceptRequest h i u).poolOk := by
  have hl := hasSpace_room hs
  unfold acceptRequest
  split
  · simp only [Hall.poolOk, raiseRoom_requests, List.length_append, List.length_singleton]
    exact hl
  · exact Nat.le_of_lt hl

theorem overrideArrival_pool (i : SegId) (u : UnitId) (w : h.poolOk) : (overrideArrival h i u).poolOk := by
  simp only [overrideArrival]
  repeat' split
  all_goals first
    | exact w
    | exact grantUnit_pool _ _ w
    | exact closeAndHandle_pool _ w
    | exact grantUnit_pool _ _ (closeAndHandle_pool _ w)
    | exact closeAndHandle_pool _ (closeAndHandle_pool _ w)

theorem newRequest_pool (u : UnitId) (w : h.poolOk) : (newRequest h u).poolOk := by
  simp only [newRequest]
  split
  · exact w
  · split
    · exact poolOk_of_eq (by simp) w
    · next hs =>
      have ha : (acceptRequest (wake h _) _ u).poolOk := acceptRequest_pool _ _ (by simpa using hs)
      repeat' split
      all_goals first
        | exact ha
        | exact arbiterRun_pool _ ha
        | exact overrideArrival_pool _ _ ha

theorem chairRequest_pool (u : UnitId) (w : h.poolOk) : (chairRequest h u).poolOk := by
  simp only [chairRequest]
  split
  · exact w
  · next i _ =>
    have hw : (wake h i).poolOk := poolOk_of_eq (wake_requests h i) w
    split
    · split
      · next hs => exact acceptRequest_pool _ _ hs
      · exact poolOk_of_eq (by simp) w
    · split
      · exact grantUnit_pool _ _ (poolOk_of_eq (h := wake h i) rfl hw)
      · split
        · next hs =>
          have ha : (acceptRequest (wake h i) i u).poolOk := acceptRequest_pool _ _ hs
          split
          · exact closeAndHandle_pool _ ha
          · exact ha
        · exact poolOk_of_eq (by simp) w

theorem offOne_pool (x : Hall × List TrunkId) (r : SlotRef) (w : x.1.poolOk) : (offOne x r).1.poolOk := by
  unfold offOne
  split
  · split
    · exact w
    · split
      · exact poolOk_of_eq (by simp) w
      · exact poolOk_of_eq (by simp) w
  · exact w

theorem allOff_pool (i : SegId) (w : h.poolOk) : (allOff h i).poolOk := by
  simp only [allOff]
  exact handOn_pool _ _ _
    (foldl_keeps (P := fun x : Hall × List TrunkId => x.1.poolOk) (fun x r hx => offOne_pool x r hx) _ _ w)

theorem measureTimer_pool (l : Nat) (r : SlotRef) (w : h.poolOk) : (measureTimer l h r).poolOk := by
  unfold measureTimer
  repeat' split
  all_goals first
    | exact w
    | exact closeAndHandle_pool _ w
    | exact poolOk_of_eq (by simp) w

theorem readLatch_pool (u : UnitId) (l : Bool) (m : Option FloorOrder) (w : h.poolOk) :
    (readLatch h u l m).poolOk := by
  unfold readLatch
  repeat' split
  all_goals first
    | exact w
    | exact chairRequest_pool _ w
    | exact newRequest_pool _ w
    | exact cancelAndHandOn_pool _ _ w
    | simpa [Hall.poolOk] using w
    | exact poolOk_of_eq (by simp) (removeRequest_pool u w)

theorem readMic_pool (u : UnitId) (m : Option SlotIx) (w : h.poolOk) : (readMic h u m).poolOk := by
  unfold readMic
  repeat' split
  all_goals first
    | exact w
    | exact closeAndHandle_pool _ w
    | exact poolOk_of_eq (by simp) w

theorem chairNext_pool (u : UnitId) (w : h.poolOk) : (chairNext h u).poolOk := by
  unfold chairNext
  split
  · next i _ =>
    split
    · exact w
    · cases e : selectOnce h i with
      | none => exact w
      | some g => exact selectOnce_pool e w
  · exact w

theorem chairAllOff_pool (u : UnitId) (w : h.poolOk) : (chairAllOff h u).poolOk := by
  unfold chairAllOff
  split
  · exact allOff_pool _ w
  · exact w

theorem storeReport_pool (u : UnitId) (l : Nat) (sg : SegId) (w : h.poolOk) : (storeReport h u l sg).poolOk := by
  simpa [storeReport, Hall.poolOk] using w

theorem storeLatches_pool (u : UnitId) (x : HandOver) (w : h.poolOk) : (storeLatches h u x).poolOk := w

theorem chairNext_if_pool (u : UnitId) (c : Bool) (w : h.poolOk) :
    (if c = true then chairNext h u else h).poolOk := by
  cases c
  · exact w
  · exact chairNext_pool u w

theorem chairAllOff_if_pool (u : UnitId) (c : Bool) (w : h.poolOk) :
    (if c = true then chairAllOff h u else h).poolOk := by
  cases c
  · exact w
  · exact chairAllOff_pool u w

/-- Reading a reply keeps the bound of the pool. -/
theorem readReply_pool (u : UnitId) (x : HandOver) (w : h.poolOk) : (readReply h u x).poolOk := by
  have h2 : (readMic (readLatch (storeReport h u x.lang x.seat) u x.latch x.mark) u x.mic).poolOk :=
    readMic_pool _ _ (readLatch_pool _ _ _ (storeReport_pool _ _ _ w))
  unfold readReply
  split
  · exact w
  · exact storeLatches_pool _ _ (chairAllOff_if_pool _ _ (chairNext_if_pool _ _ h2))

theorem forgetUnit_pool (u : UnitId) (w : h.poolOk) : (forgetUnit h u).poolOk := by
  simp only [forgetUnit]
  refine poolOk_of_eq (raiseSeat_requests _ _) ?_
  exact removeRequest_pool (h := (h.setAddr u AddrRec.reset).setUnit u _) u w

theorem endEntry_pool (u : UnitId) (w : h.poolOk) : (endEntry h u).poolOk := by
  simp only [endEntry]
  refine poolOk_of_eq (alignSeat_requests _ _) ?_
  repeat' split
  all_goals first
    | exact w
    | exact handOn_pool _ _ _ (poolOk_of_eq (by simp) w)
    | exact grantHandlingAt_pool _ (poolOk_of_eq (by simp) w)
    | exact poolOk_of_eq (by simp) w

theorem makeAbsent_pool (us : List UnitId) (w : h.poolOk) : (makeAbsent h us).poolOk :=
  fold_pool (fun _ u w => endEntry_pool u w) _ (fold_pool (fun _ u w => forgetUnit_pool u w) _ w)

theorem recallAt_pool (r : SlotRef) (w : h.poolOk) : (recallAt h r).poolOk := by
  unfold recallAt
  repeat' split
  all_goals first
    | exact w
    | exact recallEntry_pool _ _ w

theorem trimTo_requests (h : Hall) (x : SegSet) (n : Nat) : (trimTo h x n).requests = h.requests :=
  foldl_keeps (P := fun g : Hall => g.requests = h.requests) (fun g r hg => (closeEntry_requests g r).trans hg) _ _ rfl

theorem trimPending_requests (sc : Scanner) (rg : Regroup) (h : Hall) :
    (trimPending sc rg h).requests = h.requests :=
  foldl_keeps (P := fun g : Hall => g.requests = h.requests) (fun g _ hg => (trimTo_requests g _ _).trans hg) _ _ rfl

end Sys2Proof.Machine
end

