-- ==== Sys2Proof/Laws/Ports.lean ====
section
/-! SUPPORT. What taking a command at a port can do, said once for the commands that select no room and once for those
that do (R171, R172), and what an answer writes. -/

namespace Sys2Proof.Machine

/-! ## The answer buffer -/

/-- The answer buffer of a port. -/
@[simp] theorem setAnswer_answer (s : State) (p : PortId) (tag : Byte) (st : Status) (l : List Byte) :
    ((setAnswer s p tag st l).hall.ports[p.val]).answer = { tag := tag, status := st, payload := l } := by
  simp [setAnswer]

/-- An answer writes no other port. -/
theorem setAnswer_port_ne (s : State) {p q : PortId} (tag : Byte) (st : Status) (l : List Byte) (h : p ≠ q) :
    (setAnswer s p tag st l).hall.ports[q] = s.hall.ports[q] := by
  simpa [setAnswer] using put_get_ne s.hall.ports { s.hall.ports[p] with answer := ⟨tag, st, l⟩ } h

@[simp] theorem setAnswer_rooms (s : State) (p : PortId) (tag : Byte) (st : Status) (l : List Byte) :
    (setAnswer s p tag st l).hall.rooms = s.hall.rooms := rfl
@[simp] theorem setAnswer_units (s : State) (p : PortId) (tag : Byte) (st : Status) (l : List Byte) :
    (setAnswer s p tag st l).hall.units = s.hall.units := rfl
@[simp] theorem setAnswer_addrs (s : State) (p : PortId) (tag : Byte) (st : Status) (l : List Byte) :
    (setAnswer s p tag st l).hall.addrs = s.hall.addrs := rfl
@[simp] theorem setAnswer_requests (s : State) (p : PortId) (tag : Byte) (st : Status) (l : List Byte) :
    (setAnswer s p tag st l).hall.requests = s.hall.requests := rfl
@[simp] theorem setAnswer_seq (s : State) (p : PortId) (tag : Byte) (st : Status) (l : List Byte) :
    (setAnswer s p tag st l).hall.seq = s.hall.seq := rfl
@[simp] theorem setAnswer_pools (s : State) (p : PortId) (tag : Byte) (st : Status) (l : List Byte) :
    (setAnswer s p tag st l).hall.pools = s.hall.pools := rfl
@[simp] theorem setAnswer_rotation (s : State) (p : PortId) (tag : Byte) (st : Status) (l : List Byte) :
    (setAnswer s p tag st l).hall.rotation = s.hall.rotation := rfl
@[simp] theorem setAnswer_booths (s : State) (p : PortId) (tag : Byte) (st : Status) (l : List Byte) :
    (setAnswer s p tag st l).hall.booths = s.hall.booths := rfl
@[simp] theorem setAnswer_radiators (s : State) (p : PortId) (tag : Byte) (st : Status) (l : List Byte) :
    (setAnswer s p tag st l).hall.radiators = s.hall.radiators := rfl

/-! ## Taking a command -/

section
variable {α : Type} {s : State} {p : PortId} {tag : Byte}

/-- A port with REINIT pending answers BUSY (R171, step 1). -/
theorem takeCommand_busy {roles : List Role} {args : Option α} {body : α → Reply}
    (hb : (s.hall.ports[p]).reinitPending = true) :
    takeCommand s p tag roles args body = setAnswer s p tag .busy [] := by
  unfold takeCommand
  rw [if_pos hb]

/-- A role that may not give the command is answered ROLE (R171, step 3). -/
theorem takeCommand_role {roles : List Role} {args : Option α} {body : α → Reply}
    (hb : (s.hall.ports[p]).reinitPending = false) (hr : roles.contains (s.hall.ports[p]).role = false) :
    takeCommand s p tag roles args body = setAnswer s p tag .role [] := by
  unfold takeCommand
  rw [if_neg (by rw [hb]; simp), if_pos (by rw [hr]; rfl)]

/-- Past the port's own checks a command with a good payload does what its owning rule says. -/
theorem takeCommand_body {roles : List Role} {a : α} {body : α → Reply}
    (hb : (s.hall.ports[p]).reinitPending = false) (hr : roles.contains (s.hall.ports[p]).role = true) :
    takeCommand s p tag roles (some a) body =
      match body a with
      | .refuse st => setAnswer s p tag st []
      | .done c l s' => setAnswer s' p tag (doneStatus c) l := by
  unfold takeCommand
  refine (if_neg (by rw [hb]; simp)).trans ((if_neg (by rw [hr]; simp)).trans ?_)
  cases hba : body a <;> simp only [hba]

/-- Everything that taking a command can do: an answer that is a refusal, on the state as it was, or the state that
the owning rule leaves with its answer. -/
theorem takeCommand_cases (roles : List Role) (args : Option α) (body : α → Reply) :
    (∃ st, st ≠ .done ∧ st ≠ .doneClamped ∧ takeCommand s p tag roles args body = setAnswer s p tag st []) ∨
    (∃ a st, args = some a ∧ body a = .refuse st ∧ takeCommand s p tag roles args body = setAnswer s p tag st []) ∨
    (∃ a c l s', args = some a ∧ body a = .done c l s' ∧
      takeCommand s p tag roles args body = setAnswer s' p tag (doneStatus c) l) := by
  unfold takeCommand
  split
  · exact .inl ⟨.busy, by decide, by decide, rfl⟩
  · split
    · exact .inl ⟨.role, by decide, by decide, rfl⟩
    · split
      · exact .inl ⟨.range, by decide, by decide, rfl⟩
      · next a =>
        split
        · next st hst => exact .inr (.inl ⟨a, st, rfl, hst, rfl⟩)
        · next c l s' hd => exact .inr (.inr ⟨a, c, l, s', rfl, hd, rfl⟩)

/-- A property of the state that no answer changes, and that the owning rule keeps, is kept by the command. -/
theorem takeCommand_keeps {P : State → Prop} (hP : ∀ s p tag st l, P s → P (setAnswer s p tag st l))
    {roles : List Role} {args : Option α} {body : α → Reply}
    (hbody : ∀ a c l s', args = some a → body a = .done c l s' → P s') (hs : P s) :
    P (takeCommand s p tag roles args body) := by
  rcases takeCommand_cases (s := s) (p := p) (tag := tag) roles args body with
    ⟨st, -, -, e⟩ | ⟨a, st, -, -, e⟩ | ⟨a, c, l, s', ha, hd, e⟩
  · rw [e]; exact hP _ _ _ _ _ hs
  · rw [e]; exact hP _ _ _ _ _ hs
  · rw [e]; exact hP _ _ _ _ _ (hbody a c l s' ha hd)

/-- Everything that taking a room-selecting command can do. -/
theorem takeRoomCommand_cases (args : Option (Option (BitVec 16) × Selector × α)) (body : SegId → α → Reply) :
    (∃ st l, st ≠ .done ∧ st ≠ .doneClamped ∧ takeRoomCommand s p tag args body = setAnswer s p tag st l) ∨
    (∃ g sel a i st, args = some (g, sel, a) ∧ selectRoom s.hall sel = .ok i ∧ body i a = .refuse st ∧
      takeRoomCommand s p tag args body = setAnswer s p tag st (roomTail s.hall i)) ∨
    (∃ g sel a i c l s', args = some (g, sel, a) ∧ selectRoom s.hall sel = .ok i ∧ scopeOk s.hall p i = true ∧
      genOk s.hall i g = true ∧ body i a = .done c l s' ∧
      takeRoomCommand s p tag args body = setAnswer s' p tag (doneStatus c) (roomTail s'.hall i ++ l)) := by
  unfold takeRoomCommand
  split
  · exact .inl ⟨.busy, [], by decide, by decide, rfl⟩
  · split
    · exact .inl ⟨.role, [], by decide, by decide, rfl⟩
    · split
      · exact .inl ⟨.range, [], by decide, by decide, rfl⟩
      · next g sel a =>
        split
        · next st hsel =>
          refine .inl ⟨st, [], ?_, ?_, rfl⟩
          all_goals
            intro e
            subst e
            cases sel with
            | seg b =>
              simp only [selectRoom] at hsel
              split at hsel
              · exact absurd hsel (by simp)
              · split at hsel <;> simp at hsel
            | unit t a =>
              simp only [selectRoom] at hsel
              split at hsel
              · exact absurd hsel (by simp)
              · split at hsel <;> simp at hsel
        · next i hi =>
          split
          · exact .inl ⟨.scope, _, by decide, by decide, rfl⟩
          · next hsc =>
            split
            · exact .inl ⟨.stale, _, by decide, by decide, rfl⟩
            · next hg =>
              split
              · next st hst => exact .inr (.inl ⟨g, sel, a, i, st, rfl, hi, hst, rfl⟩)
              · next c l s' hd =>
                exact .inr (.inr ⟨g, sel, a, i, c, l, s', rfl, hi, by simpa using hsc, by simpa using hg, hd, rfl⟩)

/-- A property of the state that no answer changes, and that the owning rule keeps, is kept by a room-selecting
command. -/
theorem takeRoomCommand_keeps {P : State → Prop} (hP : ∀ s p tag st l, P s → P (setAnswer s p tag st l))
    {args : Option (Option (BitVec 16) × Selector × α)} {body : SegId → α → Reply}
    (hbody : ∀ i a c l s', body i a = .done c l s' → P s') (hs : P s) :
    P (takeRoomCommand s p tag args body) := by
  rcases takeRoomCommand_cases (s := s) (p := p) (tag := tag) args body with
    ⟨st, l, -, -, e⟩ | ⟨g, sel, a, i, st, -, -, -, e⟩ | ⟨g, sel, a, i, c, l, s', -, -, -, -, hd, e⟩
  · rw [e]; exact hP _ _ _ _ _ hs
  · rw [e]; exact hP _ _ _ _ _ hs
  · rw [e]; exact hP _ _ _ _ _ (hbody i a c l s' hd)

end

end Sys2Proof.Machine
end

