-- ==== Sys2Proof/Laws/Regroup.lean ====
section
/-! SUPPORT. What the regroup controller's operations on the whole state keep: the scanner, the trunks, the mix
engine, the queue of commands, the core of the hall and the bound of the request pool. -/

namespace Sys2Proof.Machine

/-- What the regroup controller's reactions to a wall report and to the consoles keep of a state. -/
structure Quiet (s t : State) : Prop where
  scanner : t.scanner = s.scanner
  trunks  : t.trunks = s.trunks
  mix     : t.mix = s.mix
  pending : t.pending = s.pending
  core    : t.hall.core = s.hall.core
  times   : t.regroup.consentSecs = s.regroup.consentSecs ∧ t.regroup.holdSecs = s.regroup.holdSecs
  pool    : s.hall.poolOk → t.hall.poolOk

namespace Quiet

theorem refl (s : State) : Quiet s s := ⟨rfl, rfl, rfl, rfl, rfl, ⟨rfl, rfl⟩, id⟩

theorem trans {s t u : State} (a : Quiet s t) (b : Quiet t u) : Quiet s u :=
  ⟨b.scanner.trans a.scanner, b.trunks.trans a.trunks, b.mix.trans a.mix, b.pending.trans a.pending,
    b.core.trans a.core, ⟨b.times.1.trans a.times.1, b.times.2.trans a.times.2⟩, b.pool ∘ a.pool⟩

end Quiet

theorem drainTest_quiet (s : State) : Quiet s (drainTest s) := by
  unfold drainTest
  split
  · exact ⟨rfl, rfl, rfl, rfl, rfl, ⟨rfl, rfl⟩, id⟩
  · exact Quiet.refl s

theorem enterDrain_quiet (s : State) : Quiet s (enterDrain s) := by
  have hcore : ((grantedInFrozen (raise .regroup allSegs s.hall)).foldl recallAt (raise .regroup allSegs s.hall)).core
      = s.hall.core := (fold_core _ recallAt_core _).trans (raise_core _ _ _)
  unfold enterDrain
  simp only []
  refine Quiet.trans ?_ (drainTest_quiet _)
  refine ⟨rfl, rfl, rfl, rfl, ?_, ⟨rfl, rfl⟩, fun w => ?_⟩
  · exact (trimPending_core _ _ _).trans hcore
  · exact poolOk_of_eq (trimPending_requests _ _ _)
      (fold_pool (fun _ r w => recallAt_pool r w) _ (poolOk_of_eq (raise_requests _ _ _) w))

theorem enterConsent_quiet (s : State) : Quiet s (enterConsent s) := by
  have hcore : ∀ f l, (raise .regroup allSegs (unfreeze (setFrozen s.hall f) l)).core = s.hall.core := by
    intro f l
    simp
  have hpool : ∀ f l, s.hall.poolOk → (raise .regroup allSegs (unfreeze (setFrozen s.hall f) l)).poolOk :=
    fun f l w => poolOk_of_eq (raise_requests _ _ _)
      (unfreeze_pool l (poolOk_of_eq (setFrozen_requests s.hall f) w))
  unfold enterConsent
  simp only []
  split
  · refine Quiet.trans ?_ (enterDrain_quiet _)
    exact ⟨rfl, rfl, rfl, rfl, hcore _ _, ⟨rfl, rfl⟩, hpool _ _⟩
  · exact ⟨rfl, rfl, rfl, rfl, hcore _ _, ⟨rfl, rfl⟩, hpool _ _⟩

theorem abandon_quiet (s : State) : Quiet s (abandon s) := by
  unfold abandon
  refine ⟨rfl, rfl, rfl, rfl, ?_, ⟨rfl, rfl⟩, fun w => unfreeze_pool _ (poolOk_of_eq rfl w)⟩
  simp

theorem wallChange_quiet (s : State) : Quiet s (wallChange s) := ⟨rfl, rfl, rfl, rfl, rfl, ⟨rfl, rfl⟩, id⟩

theorem restReport_quiet (s : State) : Quiet s (restReport s) := by
  have h1 : Quiet s { s with regroup := { s.regroup with pendingMap := computeMap s.scanner } } :=
    ⟨rfl, rfl, rfl, rfl, rfl, ⟨rfl, rfl⟩, id⟩
  unfold restReport
  simp only []
  split
  · split
    · exact h1.trans (abandon_quiet _)
    · exact h1.trans ⟨rfl, rfl, rfl, rfl, rfl, ⟨rfl, rfl⟩, id⟩
  · exact h1.trans (enterConsent_quiet _)

theorem restIfAtRest_quiet (s : State) : Quiet s (restIfAtRest s) := by
  unfold restIfAtRest
  split
  · exact restReport_quiet s
  · exact Quiet.refl s

theorem raised_quiet (s : State) (f : Flag) (x : SegSet) : Quiet s (s.raised f x) :=
  ⟨rfl, rfl, rfl, rfl, raise_core _ _ _, ⟨rfl, rfl⟩, id⟩

theorem sweep_quiet (s : State) : Quiet s s.sweep :=
  ⟨rfl, rfl, rfl, rfl, idleSweep_core _, ⟨rfl, rfl⟩, id⟩

end Sys2Proof.Machine
end

