-- ==== Sys2Proof/Laws/Slots.lean ====
section
/-! SUPPORT. What grants do to the slot pools: a grant takes a free slot, so every operation made of grants leaves each
held slot with the entry it holds (R75, R100). `Held h g` says that of two halls; closing an entry changes that one
entry and no other slot. -/

namespace Sys2Proof.Machine

/-- Every slot held in `h` is held by the same entry in `g`. -/
def Held (h g : Hall) : Prop := ∀ r e, h.entry r = some e → g.entry r = some e

namespace Held

theorem refl (h : Hall) : Held h h := fun _ _ e => e

theorem trans {f g h : Hall} (a : Held f g) (b : Held g h) : Held f h := fun r e x => b r e (a r e x)

/-- Equal pools hold the same slots. -/
theorem of_pools {h g : Hall} (e : g.pools = h.pools) : Held h g := fun r x hx => by
  simpa only [Hall.entry, e] using hx

end Held

theorem entry_of_pools {h g : Hall} (e : g.pools = h.pools) (q : SlotRef) : g.entry q = h.entry q := by
  simp only [Hall.entry, e]

/-- A fold of operations that keep the held slots keeps them. -/
theorem fold_held {γ : Type} {f : Hall → γ → Hall} (hf : ∀ g c, Held g (f g c)) (l : List γ) (h : Hall) :
    Held h (l.foldl f h) :=
  foldl_keeps (P := fun g => Held h g) (fun g c hg => hg.trans (hf g c)) l h (Held.refl h)

variable (h : Hall)

/-! ## Operations that write no slot -/

@[simp] theorem raiseRoom_pools (f : Flag) (i : SegId) : (raiseRoom f i h).pools = h.pools := rfl

@[simp] theorem raiseAt_pools (f : Flag) (sg : SegId) : (raiseAt f sg h).pools = h.pools := by
  unfold raiseAt
  split <;> rfl

@[simp] theorem raiseSeat_pools (sg : Option SegId) : (raiseSeat sg h).pools = h.pools := by
  unfold raiseSeat
  split <;> simp

@[simp] theorem giveFloor_pools (u : UnitId) (o : FloorOrder) : (giveFloor h u o).pools = h.pools := by
  unfold giveFloor
  split <;> rfl

@[simp] theorem giveNotice_pools (u : UnitId) (n : Notice) : (giveNotice h u n).pools = h.pools := by
  unfold giveNotice
  split <;> rfl

@[simp] theorem clearWarn_pools (u : UnitId) : (clearWarn h u).pools = h.pools := by
  unfold clearWarn
  split <;> simp

@[simp] theorem warnUnit_pools (u : UnitId) : (warnUnit h u).pools = h.pools := by
  unfold warnUnit
  split <;> simp

@[simp] theorem alignSeat_pools (u : UnitId) : (alignSeat h u).pools = h.pools := by
  simp only [alignSeat]
  split
  · simp
  · rfl

@[simp] theorem removeRequest_pools (u : UnitId) : (removeRequest h u).pools = h.pools := rfl

@[simp] theorem wake_pools (i : SegId) : (wake h i).pools = h.pools := by
  unfold wake
  repeat' split
  all_goals rfl

@[simp] theorem ageRoom_pools (i : SegId) : (ageRoom h i).pools = h.pools := by
  unfold ageRoom
  split <;> rfl

/-! ## Grants -/

/-- The slot a grant takes is free. -/
theorem freeSlot_free {t : TrunkId} {k : SlotIx} (e : h.freeSlot t = some k) :
    h.entry { trunk := t, slot := k } = none := by
  have := List.find?_some e
  simpa [Hall.entry] using this

/-- A grant keeps every held slot. -/
theorem grantUnit_held (u : UnitId) (g : Option Stamp) : Held h (grantUnit h u g) := by
  unfold grantUnit
  split
  · next k sg hk _ =>
    simp only []
    intro r e he
    have hne : ({ trunk := u.trunk, slot := k } : SlotRef) ≠ r := by
      intro x
      rw [← x, freeSlot_free h hk] at he
      exact absurd he (by simp)
    have key : ∀ x, ((removeRequest { h with seq := h.seq + 1 } u).setEntry { trunk := u.trunk, slot := k } x).entry r
        = some e := fun x => (Hall.setEntry_entry_ne _ _ hne).trans he
    split
    · exact (Held.of_pools ((wake_pools _ _).trans ((raiseAt_pools _ _ _).trans (giveFloor_pools _ _ _)))) r e (key _)
    · exact (Held.of_pools ((raiseAt_pools _ _ _).trans (giveFloor_pools _ _ _))) r e (key _)
  · exact Held.refl h

theorem selectOnce_held {h g : Hall} {i : SegId} (e : selectOnce h i = some g) : Held h g := by
  unfold selectOnce at e
  cases hr : h.room i with
  | none => simp [hr] at e
  | some r =>
    cases hc : choose h r (candidates h i) with
    | none => simp [hr, hc] at e
    | some q =>
      simp only [hr, hc, Option.bind_some, Option.map_some, Option.some.injEq] at e
      rw [← e]
      exact (grantUnit_held h q.unit none).trans (Held.of_pools (ageRoom_pools _ _))

theorem arbiterLoop_held (n : Nat) : ∀ (h : Hall) (i : SegId), Held h (arbiterLoop n h i) := by
  induction n with
  | zero => intro h i; exact Held.refl h
  | succ n ih =>
    intro h i
    unfold arbiterLoop
    split
    · next g e => exact (selectOnce_held e).trans (ih g i)
    · exact Held.refl h

theorem arbiterRun_held (i : SegId) : Held h (arbiterRun h i) := by
  unfold arbiterRun
  split
  · split
    · exact arbiterLoop_held _ _ _
    · exact Held.refl h
  · exact Held.refl h

theorem serveRequest_held (i : SegId) (u : UnitId) : Held h (serveRequest i h u) := by
  unfold serveRequest
  split
  · exact grantUnit_held _ _ _
  · exact Held.refl h

theorem overrideService_held (i : SegId) : Held h (overrideService h i) := fold_held (fun g u => serveRequest_held g i u) _ h

/-- A room's grant handling keeps every held slot. -/
theorem grantHandling_held (i : SegId) : Held h (grantHandling h i) := by
  unfold grantHandling
  split
  · exact Held.refl h
  · split
    · exact Held.refl h
    · split
      · exact arbiterRun_held _ _
      · exact Held.refl h
      · exact overrideService_held _ _

theorem grantHandlingAt_held (i : Option SegId) : Held h (grantHandlingAt h i) := by
  unfold grantHandlingAt
  split
  · exact grantHandling_held _ _
  · exact Held.refl h

/-! ## Freed slots -/

theorem rotate_held (t : TrunkId) (o : Option SegId) (l : List SegId) : ∀ h : Hall, Held h (rotate t o l h) := by
  induction l with
  | nil => intro h; exact Held.refl h
  | cons i l ih =>
    intro h
    unfold rotate
    split
    · exact ih h
    · simp only []
      split
      · exact (arbiterRun_held h i).trans (Held.of_pools rfl)
      · exact (arbiterRun_held h i).trans (ih _)

theorem rotateSlot_held (o : Option SegId) (t : TrunkId) : Held h (rotateSlot o h t) := by
  unfold rotateSlot
  split
  · exact Held.refl h
  · exact rotate_held t o _ h

theorem offerChairs_held (l : List TrunkId) : ∀ h : Hall, Held h (offerChairs l h).1 := by
  induction l with
  | nil => intro h; exact Held.refl h
  | cons t l ih =>
    intro h
    unfold offerChairs
    split
    · exact (grantUnit_held h _ none).trans (ih _)
    · exact ih h

theorem ifHandled_held (o : Option SegId) (c : Bool) : Held h (if c = true then grantHandlingAt h o else h) := by
  cases c
  · exact Held.refl h
  · exact grantHandlingAt_held h o

/-- The handing on of freed slots keeps every slot that is held. -/
theorem handOn_held (l : List TrunkId) (o : Option SegId) (f : Bool) : Held h (handOn h l o f) := by
  simp only [handOn]
  refine Held.trans (offerChairs_held l h) (Held.trans ?_ (fold_held (fun g t => rotateSlot_held g _ _) _ _))
  exact ifHandled_held _ o _

theorem chairService_held (l : List SegId) : Held h (chairService h l) := by
  unfold chairService
  refine fold_held (fun g u => ?_) _ _
  split
  · exact grantUnit_held _ _ _
  · exact Held.refl _

theorem unfreeze_held (l : List SegId) : Held h (unfreeze h l) :=
  (chairService_held h l).trans (fold_held grantHandling_held _ _)

/-! ## Closing and cancelling -/

/-- The hall as `closeEntry` leaves it for an entry in OPENING or OPEN. -/
def closedPools (r : SlotRef) (e : Entry) : Hall :=
  raiseAt .floor e.seg (match holderOf r.trunk e with
    | some u => clearWarn (h.setEntry r (some { e with state := .closing, timer := none })) u
    | none => h.setEntry r (some { e with state := .closing, timer := none }))

/-- Sending an entry to CLOSING writes its slot and no other. -/
theorem closeEntry_entry (r : SlotRef) (e : Entry) (he : h.entry r = some e) (ho : e.onAir = true) (q : SlotRef) :
    (closeEntry h r).entry q =
      if q = r then some { e with state := .closing, timer := none } else h.entry q := by
  unfold closeEntry
  rw [he]
  simp only [ho, if_true]
  have key : (closedPools h r e).entry q = (h.setEntry r (some { e with state := .closing, timer := none })).entry q := by
    refine entry_of_pools ((raiseAt_pools _ _ _).trans ?_) q
    split <;> simp
  refine key.trans ?_
  split
  · next x => subst x; simp
  · next x => exact Hall.setEntry_entry_ne _ _ fun y => x y.symm

/-- An entry sent to CLOSING stands so after the grant handling too. -/
theorem closeAndHandle_entry (r : SlotRef) (e : Entry) (he : h.entry r = some e) (ho : e.onAir = true) :
    (closeAndHandle h r).entry r = some { e with state := .closing, timer := none } := by
  have hc : (closeEntry h r).entry r = some { e with state := .closing, timer := none } := by
    rw [closeEntry_entry h r e he ho, if_pos rfl]
  unfold closeAndHandle
  rw [he]
  simp only []
  split
  · exact grantHandlingAt_held _ _ _ _ hc
  · exact hc

end Sys2Proof.Machine
end

