-- ==== Sys2Proof/Tests/Slice0.lean ====
section
/-! SUPPORT. Tests. The well-formedness smoke tests and the spec's own worked values (each names where it stands), and,
for every statement with hypotheses, states and operands that meet them, clause by clause (the theorems `wit_…`). Each
test is about one step on a small state. -/

-- Each test is evaluated by the kernel; one after another, so that no crowd of waiting threads is needed.
set_option Elab.async false

namespace Sys2Proof.Tests
open Sys2Proof Sys2Proof.Machine

/-! ## Small states -/

/-- The state a command leaves. -/
def after (c : Instr) (s : State) : State := match exec c s with | .next t => t | _ => s

/-- The status a port was answered. -/
def statusAt (s : State) (p : PortId) : Status := (s.hall.ports[p]).answer.status

/-- The payload a port was answered. -/
def payloadAt (s : State) (p : PortId) : List Byte := (s.hall.ports[p]).answer.payload

def s0 : State := State.reset

/-- Unit T0:1, T0:2 and T1:1. -/
def uA : UnitId := { trunk := 0, addr := 0 }
def uB : UnitId := { trunk := 0, addr := 1 }
def uC : UnitId := { trunk := 1, addr := 0 }

/-- A PRESENT unit seated in a segment. -/
def seat (s : State) (u : UnitId) (sg : SegId) : State :=
  { s with hall := s.hall.setUnit u { s.hall.unit u with present := true, seat := some sg, reported := some sg } }

/-- A request of a unit with a stamp. -/
def req (u : UnitId) (n : Nat) : Request :=
  { unit := u, stamp := BitVec.ofNat 32 n, lang := 0, cls := .delegate, score := 0, guard := 16, due := false,
    recalled := false }

/-- A request in the pool. -/
def ask (s : State) (q : Request) : State := { s with hall := { s.hall with requests := s.hall.requests ++ [q] } }

/-- An entry of the unit at an address, filed in S0. -/
def ent (a : AddrIx) (st : EntryState) (e : Nat) : Entry :=
  { unit := some a, seg := 0, chair := false, reqStamp := 1, grantStamp := 2, state := st, e := e, ramp := none,
    timer := none }

/-- An entry placed in a slot of trunk T0. -/
def hold (s : State) (k : SlotIx) (e : Entry) : State :=
  { s with hall := s.hall.setEntry { trunk := 0, slot := k } (some e) }

def room (s : State) (i : SegId) (f : Room → Room) : State := { s with hall := s.hall.mapRoom i f }

def port (s : State) (p : PortId) (f : Port → Port) : State := s.setPort p (f s.hall.ports[p])

def wall (s : State) (w : WallId) (f : Wall → Wall) : State := s.setWall w (f s.scanner.walls[w])

def reg (s : State) (f : Regroup → Regroup) : State := { s with regroup := f s.regroup }

def trunk (s : State) (k : TrunkId) (f : Trunk → Trunk) : State := s.setTrunk k (f s.trunks[k])

def booth (s : State) (b : BoothId) (f : Booth → Booth) : State := { s with hall := s.hall.setBooth b (f s.hall.booths[b]) }

def addr (s : State) (u : UnitId) (f : AddrRec → AddrRec) : State :=
  { s with hall := s.hall.setAddr u (f (s.hall.addr u)) }

/-- Unit T0:1 PRESENT, seated in S0. -/
def sA : State := seat s0 uA 0

/-- T0:1 waiting in S0. -/
def sAsk : State := ask sA (req uA 1)

/-- T0:1 GRANTED in slot 0, its GRANT pending. -/
def sGranted : State := addr (hold sA 0 (ent 0 .granted 0)) uA fun a => { a with floorOrder := some (.grant 0) }

/-- T0:1 OPEN in slot 0. -/
def sOpen : State := hold sA 0 (ent 0 .opened 16384)

/-- The room of S0 at its open limit of 1. -/
def sFull : State := seat (room sOpen 0 fun r => { r with settings := { r.settings with openLimit := 1 } }) uB 0

/-- Trunk T0 in UP. -/
def sUp : State := trunk s0 0 fun x => { x with state := .up, sense := true }

/-- A round of T0 that awaits the reply of an address. -/
def sWait (s : State) (a : AddrIx) (probe : Bool) (o : Option Order) : State :=
  trunk s 0 fun x =>
    { x with
      state := .up,
      round := some { todo := [], sent := some { addr := a, probe := probe, order := o }, good := false, fresh := [] } }

/-- Wall W0 defined between S0 and S1. -/
def sWall : State := wall s0 0 fun w => { w with pair := some (0, 1) }

/-- W0 forced OPEN: the hall's map differs from the active one. -/
def sJoin : State := wall sWall 0 fun w => { w with ovr := .forceOpen }

/-- CONSENT, with P0 asked. -/
def sConsent : State :=
  reg (port s0 0 fun p => { p with scope := 0x01 }) fun rg =>
    { rg with state := .consent, isOpen := true, affected := 0x03, consent := [0], deadline := some 5000 }

/-- A defined booth of room S0 in a state, with an A language and a passive language. -/
def team (s : State) (b : BoothId) (st : BoothState) (a : Nat) (ps : List Nat) : State :=
  booth s b fun x => { x with defined := true, home := some 0, langA := a, passive := ps, state := st, mic := true }

/-- The room of S0 with the language list 3, 5, 9, 11, 12 and a floor language (6.11.1). -/
def listed (s : State) (l : Nat) : State :=
  room s 0 fun r => { r with langs := [3, 5, 9, 11, 12], size := 6, floorLang := l }

/-- The five booths of 6.11.1, all LIVE. -/
def sBooths (l : Nat) : State :=
  team (team (team (booth (team (booth (team (listed s0 l) 0 .live 3 [7]) 0 fun x => { x with langB := 5 }) 1 .live 5 [])
    1 fun x => { x with langB := 3 }) 2 .live 9 [3]) 3 .live 11 [5]) 4 .live 12 [9]

/-- A word-clock period of silence. -/
def quiet : AudioIn := { slots := Vector.replicate 4 (Vector.replicate 8 0), voices := Vector.replicate 12 0 }

/-! ## Well-formedness: an ill-formed term for each check -/

theorem test_wf_payload_too_long : (Instr.readFlags 0 1 (List.replicate 256 0)).wellFormed = false := by decide +kernel
theorem test_wf_payload_255_fits : (Instr.readFlags 0 1 (List.replicate 255 0)).wellFormed = true := by decide +kernel
theorem test_wf_unknown_code_known : (Instr.unknownCommand 0 0x41 1 []).wellFormed = false := by decide
theorem test_wf_unknown_code_zero : (Instr.unknownCommand 0 0 1 []).wellFormed = false := by decide
theorem test_wf_reply_too_long : (Instr.pollReply 0 (List.replicate 8 0)).wellFormed = false := by decide

/-! ## The spec's worked values -/

/-- The example of 9.2.1: READ-REGROUP with tag 3 is 65, 3, 0, 0, 68. -/
theorem test_frame_read_regroup : encodeFrame (.readRegroup 0 3 []) = some (0, [65, 3, 0, 0, 68]) := by decide
theorem test_frame_read_regroup_back : decodeFrame 0 [65, 3, 0, 0, 68] = some (.readRegroup 0 3 []) := by decide
/-- Table 9-1: LOCK-WALLS (12) with tag 7, byte by byte: 18 + 7 + 0 = 25. -/
theorem test_frame_lock_walls : decodeFrame 3 [0x12, 7, 0, 0, 25] = some (.lockWalls 3 7 []) := by decide
/-- A first byte of 00, and no byte at all, carry no command (R169). -/
theorem test_frame_no_command : decodeFrame 0 [0, 1, 2] = none ∧ decodeFrame 0 [] = none := by decide
/-- The example of R69: GRANT with slot 2 to address 17. -/
theorem test_poll_bytes : pollBytes 16 (some (.floor (.grant 2))) = [0xC3, 17, 18, 221, 0x3C] := by decide
/-- The example of R69: latch set, language 5, seat segment S3 from address 17. -/
theorem test_reply_bytes :
    checkReply 16 false [0xC3, 17, 128, 5, 3, 103, 0x3C] =
      .ok { latch := true, next := false, allOff := false, mic := none, lang := 5, seat := 3 } := by decide
/-- 8.9.1: the coefficients of the three microphones, and the floor. -/
theorem test_mix_coefficients :
    coefficient 16384 3 16384 = 9459 ∧ coefficient 24576 3 16384 = 14189 ∧ coefficient 16384 3 8192 = 4730 ∧
      coefficient 24576 3 8192 = 7094 := by decide
theorem test_mix_floor : sat24 (rounded (2000000 * 9459 - 500000 * 9459 + 6000000 * 14189)) = 6062164 := by decide
/-- 8.9.2: four entries at 32767, and the saturation. -/
theorem test_mix_saturates :
    coefficient 32767 4 16384 = 16384 ∧ rounded (4 * 8000000 * 16384) = 32000000 ∧ sat24 32000000 = 8388607 := by decide
/-- 8.9.3: the opening ramp and the ramp that replaces it. -/
theorem test_mix_ramp :
    rampAt 0 16384 96 1 = 171 ∧ rampAt 0 16384 96 48 = 8192 ∧ rampAt 8192 4096 96 1 = 8149 ∧
      rampAt 8192 4096 96 48 = 6144 ∧ rampAt 8192 4096 96 96 = 4096 := by decide
/-- 8.9.4: the language channel under an interpreter, and its levels halfway to the floor. -/
theorem test_mix_channel :
    channelValue 1000000 2000000 16384 3277 = 1400024 ∧ rampAt 16384 0 384 192 = 8192 ∧
      rampAt 3277 16384 384 192 = 9831 := by decide
/-- 6.11.1: the sources at floor language 3 and at floor language 5. -/
theorem test_relay_floor_3 :
    ((List.finRange 5).map fun b : Fin 5 =>
      ((reevaluate (sBooths 3).hall 0).booths[(Fin.castLE (by omega) b : BoothId)]).source) =
      [.floor, .floor, .floor, .booth 1, .booth 2] := by decide +kernel
theorem test_relay_floor_5 :
    ((List.finRange 5).map fun b : Fin 5 =>
      ((reevaluate (sBooths 5).hall 0).booths[(Fin.castLE (by omega) b : BoothId)]).source) =
      [.floor, .floor, .booth 0, .floor, .floor] ∧
    ((reevaluate (sBooths 5).hall 0).booths[(4 : BoothId)]).noPivot = true := by decide +kernel

/-! ## Single steps -/

/-- The step takes the front command; on an empty queue a millisecond passes. -/
theorem test_step_takes_front :
    (match step { s0 with pending := [.failedFrame 0 (some 9), .mixBlockStart] } with
      | .next t => decide (t.pending = [.mixBlockStart]) && decide (statusAt t 0 = .check)
      | _ => false) = true := by decide +kernel
/-- R168: P2 is a desk, which may not send LOCK-WALLS. -/
theorem test_desk_locks_no_wall : statusAt (after (.lockWalls 2 1 []) s0) 2 = .role := by decide +kernel
/-- R183: READ-FLAGS of a port with WALL set returns the flag and clears it. -/
theorem test_read_flags :
    payloadAt (after (.readFlags 3 1 []) (port s0 3 fun p => { p with flags := 1 })) 3 = [1, 3, 0, 0x7F, 0, 0] ∧
      ((after (.readFlags 3 1 []) (port s0 3 fun p => { p with flags := 1 })).hall.ports[(3 : PortId)]).flags = 0 := by
  decide +kernel
/-- R1 to R3: W0's contacts begin to move. -/
theorem test_contact_moving :
    ((after (.contactEvent 0 false false) (wall sWall 0 fun w => { w with raw := .closed })).scanner.walls[(0 : WallId)]).stuck
      = .running 60000 := by decide +kernel
/-- R21: with W0 open, S0 and S1 are one room led by S0. -/
theorem test_map_joined :
    (computeMap sJoin.scanner).map (·.segs) = [0x03, 0x04, 0x08, 0x10, 0x20, 0x40, 0x80] := by decide +kernel
/-- R38 to R45: the commit of that map makes room S0 of S0 and S1, of generation 1. -/
theorem test_commit_joined :
    ((after .mixBlockStart (reg sJoin fun rg =>
      { rg with state := .commitWait, isOpen := true, affected := 0x03, pendingMap := computeMap sJoin.scanner })).hall.room
        0).map (fun r => (r.segs, r.gen)) = some (0x03, 1) := by decide +kernel
/-- R75: T0:1 is granted slot 0. -/
theorem test_grant_slot :
    ((after (.grant 3 1 [0, 0, 0, 0, 1, 0]) sA).hall.addr uA).floorOrder = some (.grant 0) := by decide +kernel
/-- R89: at the limit without "bump". -/
theorem test_grant_full : statusAt (after (.grant 3 1 [0, 0, 0, 0, 2, 0]) sFull) 3 = .full := by decide +kernel
/-- R173: P1 may not claim what P0 holds. -/
theorem test_claim_held :
    statusAt (after (.claimSegments 1 1 [0x03]) (port s0 0 fun p => { p with scope := 0x02 })) 1 = .scope := by
  decide +kernel
/-- R59: the third miss makes the unit ABSENT. -/
theorem test_third_miss :
    ((after (.pollReply 0 []) (sWait (addr sA uA fun a => { a with miss := 2 }) 0 false none)).hall.unit uA).present
      = false := by decide +kernel
/-- R60: a probe finds a unit, in segment S3. -/
theorem test_probe_finds :
    ((after (.pollReply 0 [0xC3, 17, 128, 5, 3, 103, 0x3C]) (sWait s0 16 true none)).hall.unit
      { trunk := 0, addr := 16 }).seat = some 3 := by decide +kernel
/-- R164: the seventeenth unit of a staging area. -/
theorem test_stage_gain_full :
    statusAt (after (.stageGain 3 1 [0, 0, 0, 0, 1, 0x40, 0]) (room sA 0 fun r =>
      { r with staging := { r.staging with pairs := List.replicate 16 (uB, 0) } })) 3 = .full := by decide +kernel
/-- R48, R136: REINIT stands a LIVE booth by. -/
theorem test_reinit_booth :
    ((after .mixBlockStart (port (team (listed s0 0) 0 .live 3 []) 3 fun p =>
      { p with reinitPending := true })).hall.booths[(0 : BoothId)]).state = .standby := by decide +kernel

/-! ## Witnesses: the hypotheses of the statements are met -/

theorem wit_empty_queue_due :
    (port s0 1 fun p => { p with pulse := true }).pending = [] ∧
      dueEvent (port s0 1 fun p => { p with pulse := true }) = some (.attentionPulseEnd 1) := by decide +kernel
theorem wit_empty_queue_idle : s0.pending = [] ∧ dueEvent s0 = none := by decide +kernel
theorem wit_frame_round_trip :
    (Instr.readRegroup 0 3 []).wellFormed = true ∧ encodeFrame (.readRegroup 0 3 []) = some (0, [65, 3, 0, 0, 68]) := by
  decide
theorem wit_failed_frame_short :
    (0x41 : Byte) ≠ 0 ∧ ([0] : List Byte).length < (0 : Byte).toNat + 2 := by decide
theorem wit_failed_frame_check : (([0, 1] : List Byte).drop 0).take 2 ≠ checkBytes [0x41, 3, 0] := by decide
theorem wit_busy : frameParts (.lockWalls 3 1 []) = some (3, 0x12, 1, []) ∧
    ((port s0 3 fun p => { p with reinitPending := true }).hall.ports[(3 : PortId)]).reinitPending = true := by
  decide +kernel
theorem wit_unknown : frameParts (.unknownCommand 3 0x01 1 []) = some (3, 0x01, 1, []) ∧
    (s0.hall.ports[(3 : PortId)]).reinitPending = false ∧ rolesOf (.unknownCommand 3 0x01 1 []) = none := by
  decide +kernel
theorem wit_role : frameParts (.lockWalls 2 1 []) = some (2, 0x12, 1, []) ∧
    rolesOf (.lockWalls 2 1 []) = some [.venue] ∧ (s0.hall.ports[(2 : PortId)]).role ∉ [Role.venue] := by decide +kernel

/-- The venue port passes the first checks for its commands, P0 for a console's, P2 for the desk's. -/
theorem wit_admits_venue : s0.admits 3 [.venue] := ⟨by decide +kernel, by decide +kernel⟩
theorem wit_admits_console : s0.admits 0 [.console] := ⟨by decide +kernel, by decide +kernel⟩
theorem wit_admits_desk : s0.admits 2 [.desk, .venue] := ⟨by decide +kernel, by decide +kernel⟩
theorem wit_admits_any : s0.admits 1 [.console, .desk, .venue] := ⟨by decide +kernel, by decide +kernel⟩

/-- The venue port selects room S0 by segment, with and without an expected generation. -/
theorem wit_admits_room : s0.admitsRoom 3 (some 0) (.seg 0) 0 :=
  ⟨⟨by decide +kernel, by decide +kernel⟩, by rfl, by decide +kernel, by decide +kernel⟩
/-- The venue port selects room S0 by the unit T0:1. -/
theorem wit_admits_unit : sA.admitsRoom 3 none (.unit 0 1) 0 :=
  ⟨⟨by decide +kernel, by decide +kernel⟩, by rfl, by decide +kernel, by decide +kernel⟩
theorem wit_room_none : roomHead (.grantNext 3 1 [0, 0, 0, 8]) = some (none, .seg 8) ∧
    s0.admits 3 [.console, .venue] ∧ selectRoom s0.hall (.seg 8) = .error .range :=
  ⟨by rfl, ⟨by decide +kernel, by decide +kernel⟩, by rfl⟩
theorem wit_room_scope : roomHead (.grantNext 0 1 [0, 0, 0, 2]) = some (none, .seg 2) ∧
    s0.admits 0 [.console, .venue] ∧ selectRoom s0.hall (.seg 2) = .ok 2 ∧ scopeOk s0.hall 0 2 = false :=
  ⟨by rfl, ⟨by decide +kernel, by decide +kernel⟩, by rfl, by decide +kernel⟩
theorem wit_room_stale : roomHead (.grantNext 3 1 [1, 0, 5, 2]) = some (some 5, .seg 2) ∧
    selectRoom s0.hall (.seg 2) = .ok 2 ∧ scopeOk s0.hall 3 2 = true ∧ genOk s0.hall 2 (some 5) = false :=
  ⟨by rfl, by rfl, by decide +kernel, by decide +kernel⟩
theorem wit_refusal : ∃ t, exec (.lockWalls 2 1 []) s0 = .next t ∧ statusAt t 2 ≠ .done ∧
    statusAt t 2 ≠ .doneClamped := ⟨_, rfl, by decide +kernel, by decide +kernel⟩
theorem wit_ports_isolated : (0 : PortId) ≠ 3 ∧ ∃ t, exec (.lockWalls 3 1 []) s0 = .next t := ⟨by decide, _, rfl⟩
theorem wit_invariants : s0.settingsOk = true ∧ s0.hall.gainsOk = true ∧ s0.hall.poolOk ∧ ∃ t, step s0 = .next t :=
  ⟨by decide +kernel, by decide +kernel, by unfold Hall.poolOk; decide +kernel, _, rfl⟩
theorem wit_scopes_apart : s0.hall.scopesApart := by unfold Hall.scopesApart; decide +kernel
theorem wit_wall_lock : ({ s0 with scanner := { s0.scanner with lock := true } } : State).scanner.lock = true ∧
    (∀ pins, Instr.defineWall 3 1 [0, 0, 0, 1] ≠ .fullReset pins) := ⟨rfl, (by intro _ h; cases h)⟩
theorem wit_active_map : (∀ pins, Instr.deadlineExpiry ≠ .fullReset pins) ∧ Instr.deadlineExpiry ≠ .mixBlockStart ∧
    (∀ x, Instr.deadlineExpiry ≠ .wordClockPeriod x) ∧ ∃ t, exec .deadlineExpiry sConsent = .next t :=
  ⟨(by intro _ h; cases h), (by intro h; cases h), (by intro _ h; cases h), _, rfl⟩
theorem wit_booth_definition : (∀ p t l, Instr.boothState 2 1 [0, 0] ≠ .defineBooth p t l) ∧
    ∃ t, exec (.boothState 2 1 [0, 0]) s0 = .next t := ⟨(by intro _ _ _ h; cases h), _, rfl⟩
/-- B3 relays from B1 at floor language 3, and B4 has no pivot at floor language 5. -/
theorem wit_relay : (3 : BoothId) ∈ (sBooths 3).hall.liveBooths 0 ∧
    ((reevaluate (sBooths 3).hall 0).booths[(3 : BoothId)]).source = .booth 1 := by decide +kernel
theorem wit_relay_no_pivot : (4 : BoothId) ∈ (sBooths 5).hall.liveBooths 0 ∧
    ((reevaluate (sBooths 5).hall 0).booths[(4 : BoothId)]).noPivot = true := by decide +kernel

/-! ### Walls -/

theorem wit_contact_same : readingOf false false = (s0.scanner.walls[(0 : WallId)]).raw := by decide +kernel
theorem wit_contact_undefined : (s0.scanner.walls[(0 : WallId)]).pair = none ∧
    readingOf true false ≠ (s0.scanner.walls[(0 : WallId)]).raw := by decide +kernel
theorem wit_contact_defined : (sWall.scanner.walls[(0 : WallId)]).pair = some (0, 1) ∧
    readingOf true false ≠ (sWall.scanner.walls[(0 : WallId)]).raw := by decide +kernel
theorem wit_settle_expiry :
    ((wall sWall 0 fun w => { w with settle := some 0 }).scanner.walls[(0 : WallId)]).settle ≠ none ∧
      (sWall.scanner.walls[(0 : WallId)]).settle = none := by decide +kernel
theorem wit_stuck_expiry :
    ((wall sWall 0 fun w => { w with stuck := .running 0 }).scanner.walls[(0 : WallId)]).stuck = .running 0 ∧
      (sWall.scanner.walls[(0 : WallId)]).stuck = .stopped := by decide +kernel
theorem wit_define_wall : s0.scanner.lock = false ∧ (0 : Byte).getLsbD 0 = false ∧ (1 : Byte).getLsbD 0 = true ∧
    idOf 12 11 = some 11 ∧ idOf 12 12 = none ∧ idOf 8 7 = some 7 ∧ idOf 8 8 = none := by decide +kernel
theorem wit_define_wall_pairs : (sWall.scanner.walls[(0 : WallId)]).pair = some (0, 1) ∧
    (sWall.scanner.walls[(1 : WallId)]).pair = none := by decide +kernel
theorem wit_override : (s0.scanner.walls[(11 : WallId)]).ovr ≠ .forceOpen ∧
    (s0.scanner.walls[(11 : WallId)]).ovr = .follow ∧ (2 : Byte).toNat ≤ 2 ∧ 2 < (3 : Byte).toNat := by decide +kernel
theorem wit_defaults : idOf 8 7 = some 7 ∧ (s0.scanner.defaults[(7 : SegId)]).ok = true ∧ wordOf 0 31 ≤ 31 ∧
    31 < wordOf 0 32 := by decide +kernel
theorem wit_venue_settings : idOf 8 7 = some 7 ∧ 7 < (8 : Byte).toNat ∧ idOf 4 3 = some 3 ∧ 3 < (4 : Byte).toNat ∧
    8 ∈ [0, 1, 2, 4, 8] ∧ (∀ m' ∈ [0, 1, 2, 4, 8], m' ≤ (255 : Byte).toNat → m' ≤ 8) := by decide

/-! ### Regrouping -/

theorem wit_rest_equal : sameMap (computeMap s0.scanner) s0.hall.activeMap = true ∧ s0.regroup.isOpen = false ∧
    (reg s0 fun rg => { rg with isOpen := true }).regroup.isOpen = true := by decide +kernel
theorem wit_rest_differs : sameMap (computeMap sJoin.scanner) sJoin.hall.activeMap = false ∧
    consolesOf sJoin.hall (affectedSet sJoin.hall.activeMap (computeMap sJoin.scanner)) = [] ∧
    consolesOf (port sJoin 0 fun p => { p with scope := 1 }).hall
      (affectedSet sJoin.hall.activeMap (computeMap sJoin.scanner)) = [0] := by decide +kernel
theorem wit_drain : sConsent.regroup.state = .consent ∧ sConsent.regroup.deadline ≠ none ∧
    s0.regroup.state ≠ .consent ∧ (sConsent.hall.ports[(3 : PortId)]).role = .venue := by decide +kernel
theorem wit_answer_agree : parseRegroupAnswer [0, 0] = some (0, none) ∧ sConsent.regroup.state = .consent ∧
    (0 : PortId) ∈ sConsent.regroup.consent ∧ ∀ q ∈ sConsent.regroup.consent, q = 0 := by decide +kernel
theorem wit_answer_agree_not_last : ∃ q ∈ (reg sConsent fun rg => { rg with consent := [0, 1] }).regroup.consent, q ≠ 0 :=
  ⟨1, by decide +kernel, by decide⟩
theorem wit_answer_hold : parseRegroupAnswer [1, 1, 0, 0] = some (1, some 0) ∧ sConsent.regroup.round = 0 ∧
    (0 : PortId) ∉ sConsent.regroup.holds ∧ (0 : PortId) ∈ (reg sConsent fun rg => { rg with holds := [0] }).regroup.holds := by
  decide +kernel
theorem wit_answer_refused : parseRegroupAnswer [2, 0] = some (2, none) ∧ 1 < (2 : Byte).toNat ∧
    parseRegroupAnswer [0, 1, 0, 9] = some (0, some 9) ∧ (some (9 : BitVec 16)) ≠ some sConsent.regroup.round ∧
    s0.regroup.state ≠ .consent := by decide +kernel
theorem wit_claim : (0x01 : Byte) &&& heldByOthers s0.hall 0 = 0 ∧
    (0x01 : Byte) &&& heldByOthers (port s0 1 fun p => { p with scope := 1 }).hall 0 ≠ 0 := by decide +kernel
theorem wit_assign : idOf 4 1 = some 1 ∧ idOf 4 4 = none ∧ (s0.hall.ports[(1 : PortId)]).role = .console ∧
    (s0.hall.ports[(2 : PortId)]).role ≠ .console := by decide +kernel

/-! ### Trunks -/

theorem wit_power : powered (sUp.trunks[(0 : TrunkId)]).state = true ∧ powered (s0.trunks[(0 : TrunkId)]).state = false ∧
    (s0.trunks[(0 : TrunkId)]).mode = .auto ∧ (s0.trunks[(0 : TrunkId)]).sense = false ∧
    (sUp.trunks[(0 : TrunkId)]).sense = true := by decide +kernel
theorem wit_sense_recorded :
    ((trunk s0 0 fun x => { x with mode := .on }).trunks[(0 : TrunkId)]).mode ≠ .auto ∧
      true ≠ ((trunk s0 0 fun x => { x with mode := .on }).trunks[(0 : TrunkId)]).sense := by decide +kernel
theorem wit_trunk_power : idOf 4 0 = some 0 ∧
    ((trunk s0 0 fun x => { x with state := .tripped }).trunks[(0 : TrunkId)]).state = .tripped ∧
    ((trunk s0 0 fun x => { x with state := .tripped }).trunks[(0 : TrunkId)]).sense = false := by decide +kernel
theorem wit_round_start :
    ((List.finRange 60).filter fun a => !(sUp.hall.unit { trunk := 0, addr := a }).present) ≠ [] ∧
      (sUp.trunks[(0 : TrunkId)]).probes = 2 := by decide +kernel
/-- A round with neither a poll nor a probe: no unit PRESENT and a probe count of 0. -/
theorem wit_round_silent :
    ((List.finRange 60).filter fun a => (sUp.hall.unit { trunk := 0, addr := a }).present) = [] ∧
      ((trunk sUp 0 fun x => { x with probes := 0 }).trunks[(0 : TrunkId)]).probes = 0 := by decide +kernel
/-- A poll of T0:1, a probe of address 2 after it, and a poll to skip. -/
theorem wit_poll_send :
    ∃ rd, ((trunk sA 0 fun x => { x with
        round := some { todo := [(0, false), (1, true)], sent := none, good := false, fresh := [] } }).trunks[(0 : TrunkId)]).round
        = some rd ∧ rd.sent = none ∧ rd.todo = [(0, false), (1, true)] ∧ (sA.hall.unit uA).present = true ∧
      (s0.hall.unit uA).present = false := ⟨_, rfl, rfl, rfl, by decide +kernel, by decide +kernel⟩
/-- T0:1's GRANT of slot 0 is held back by T0:2's mic report. -/
theorem wit_poll_held :
    (sGranted.hall.addr uA).floorOrder = some (.grant 0) ∧
      ((addr sGranted uB fun a => { a with lastMic := some 0 }).hall.addr uB).lastMic = some 0 := by decide +kernel
theorem wit_reply_late : ([] : List Byte).head? ≠ some 0xC3 ∧ checkReply 0 false [] = .error .late := ⟨by decide, by rfl⟩
theorem wit_reply_framing : ([0xC3, 1] : List Byte).head? = some 0xC3 ∧ ([0xC3, 1] : List Byte).length ≠ 7 ∧
    checkReply 0 false [0xC3, 2, 0, 0, 0, 0xFE, 0x3C] = .error .framing := ⟨by decide, by decide, by rfl⟩
theorem wit_reply_check : checkReply 0 false [0xC3, 1, 0, 0, 0, 0, 0x3C] = .error .check := by rfl
theorem wit_reply_overrun : checkReply 0 true [0xC3, 1, 0, 0, 0, 0xFF, 0x3C] = .error .overrun := by rfl
/-- A poll of T0:1 is awaited: a first miss, a third miss, and one whose unit has become ABSENT; and a probe. -/
theorem wit_reply_awaited :
    (∃ rd sent, ((sWait sA 0 false none).trunks[(0 : TrunkId)]).round = some rd ∧ rd.sent = some sent ∧
      sent.probe = false ∧ sent.addr = 0) ∧ (sA.hall.unit uA).present = true ∧ (sA.hall.addr uA).miss < 2 ∧
    2 ≤ ((addr sA uA fun a => { a with miss := 2 }).hall.addr uA).miss ∧ (s0.hall.unit uA).present = false :=
  ⟨⟨_, _, rfl, rfl, rfl, rfl⟩, by decide +kernel, by decide +kernel, by decide +kernel, by decide +kernel⟩
theorem wit_probe_awaited :
    ∃ rd sent, ((sWait s0 0 true none).trunks[(0 : TrunkId)]).round = some rd ∧ rd.sent = some sent ∧
      sent.probe = true ∧ checkReply sent.addr false [0xC3, 1, 0, 0, 0, 0xFF, 0x3C] = .ok
        { latch := false, next := false, allOff := false, mic := none, lang := 0, seat := 0 } :=
  ⟨_, _, rfl, rfl, rfl, by rfl⟩
/-- A good reply that is no stray one; and a stray one, after two others. -/
theorem wit_reply_good : checkReply 0 false [0xC3, 1, 0, 0, 0, 0xFF, 0x3C] =
      .ok { latch := false, next := false, allOff := false, mic := none, lang := 0, seat := 0 } ∧
    isStray sA.hall uA { latch := false, next := false, allOff := false, mic := none, lang := 0, seat := 0 } = false :=
  ⟨by rfl, by decide +kernel⟩
theorem wit_reply_stray :
    checkReply 0 false [0xC3, 1, 0x12, 0, 0, 0xED, 0x3C] =
      .ok { latch := false, next := false, allOff := false, mic := some 2, lang := 0, seat := 0 } ∧
    isStray sA.hall uA { latch := false, next := false, allOff := false, mic := some 2, lang := 0, seat := 0 } = true ∧
    2 ≤ ((addr sA uA fun a => { a with stray := 2 }).hall.addr uA).stray := ⟨by rfl, by decide +kernel, by decide +kernel⟩
theorem wit_round_end : (∃ rd, ((trunk sUp 0 fun x => { x with
      round := some { todo := [], sent := none, good := true, fresh := [] } }).trunks[(0 : TrunkId)]).round = some rd) ∧
    (sUp.trunks[(0 : TrunkId)]).round = none := ⟨⟨_, rfl⟩, by decide +kernel⟩
theorem wit_confirmation : ((addr sA uA fun a => { a with confirm := some 1 }).hall.addr uA).confirm ≠ none ∧
    (sA.hall.addr uA).confirm = none := by decide +kernel

/-! ### The floor -/

/-- A reply of T0:1 in the hand-over. -/
def handed (s : State) : State := trunk s 0 fun x =>
  { x with
    handOver :=
      some { addr := 0, latch := true, next := false, allOff := false, mic := none, lang := 5, seat := 0, mark := none } }

theorem wit_hand_over : (∃ y, ((handed sA).trunks[(0 : TrunkId)]).handOver = some y ∧ y.addr = 0) ∧
    (sA.hall.unit uA).present = true ∧ (s0.hall.unit uA).present = false ∧
    (s0.trunks[(0 : TrunkId)]).handOver = none := ⟨⟨_, rfl, rfl⟩, by decide +kernel, by decide +kernel, by decide +kernel⟩
theorem wit_latch_idle : sA.hall.floorState uA = .idle ∧ answered sA.hall uA none = false ∧
    answered sA.hall uA (some .deny) = true ∧ (sA.hall.unit uA).cls ≠ .chair ∧ sA.hall.unitRoom uA = some 0 ∧
    (sA.hall.queue 0).length < 24 ∧ sA.hall.requests.length < 96 := by decide +kernel
theorem wit_latch_room : ∃ r, sA.hall.room 0 = some r ∧ (sA.hall.queue 0).length < r.settings.queueLimit :=
  ⟨_, rfl, by decide +kernel⟩
/-- A full queue, and a frozen and a MANUAL room. -/
theorem wit_latch_full : ∃ r, (room (ask sA (req uB 1)) 0 fun r => { r with settings := { r.settings with queueLimit := 1 } }).hall.room 0
    = some r ∧ r.settings.queueLimit = 1 := ⟨_, rfl, by rfl⟩
theorem wit_latch_full_queue : ((seat (ask sA (req uB 1)) uB 0).hall.queue 0).length = 1 := by decide +kernel
theorem wit_latch_waits : ∃ r, (room sA 0 fun r => { r with frozen := true }).hall.room 0 = some r ∧ r.frozen = true :=
  ⟨_, rfl, by rfl⟩
theorem wit_latch_waiting : sAsk.hall.requestOf uA = some (req uA 1) ∧ (req uA 1).recalled = false ∧
    (ask sA { req uA 1 with recalled := true }).hall.requestOf uA = some { req uA 1 with recalled := true } := by
  decide +kernel
theorem wit_set_unit : unitOf 3 60 = some { trunk := 3, addr := 59 } ∧ unitOf 4 1 = none ∧ unitOf 0 0 = none ∧
    unitOf 0 61 = none ∧ sA.hall.floorState uA = .idle ∧ sAsk.hall.floorState uA ≠ .idle := by decide +kernel
theorem wit_set_room : parseSetRoom [0, 0, 0, 0, 1, 2, 0, 5] = some (none, .seg 0, [(2, .word 5)]) ∧
    badMode [(2, .word 5)] = false ∧ badMode [(1, .word 3)] = true ∧ ∃ r, s0.hall.room 0 = some r :=
  ⟨by rfl, by decide, by decide, _, rfl⟩
theorem wit_grant : parseUnitOption [0, 0, 0, 0, 1, 0] = some (none, .unit 0 1, (0, 1, 0)) ∧ unitOf 0 1 = some uA ∧
    (sA.hall.unit uA).seat = some 0 ∧ (sA.hall.unit uA).present = true ∧ sA.hall.floorState uA = .idle ∧
    sA.hall.frozen 0 = false ∧ sA.hall.freeSlot 0 = some 0 ∧ sA.hall.underLimit 0 = true :=
  ⟨by rfl, by rfl, by decide +kernel, by decide +kernel, by decide +kernel, by decide +kernel, by decide +kernel,
    by decide +kernel⟩
/-- At the limit, with an entry to bump; and at the limit with none. -/
theorem wit_grant_full : sFull.hall.underLimit 0 = false ∧ oldestOpen sFull.hall 0 none = some { trunk := 0, slot := 0 } ∧
    (sFull.hall.unit uB).seat = some 0 ∧ sFull.hall.floorState uB = .idle ∧ (1 : Byte).getLsbD 0 = true := by
  decide +kernel
theorem wit_grant_no_bump : oldestOpen (room sGranted 0 fun r =>
      { r with settings := { r.settings with openLimit := 1 } }).hall 0 none = none ∧
    (room sGranted 0 fun r => { r with settings := { r.settings with openLimit := 1 } }).hall.underLimit 0 = false := by
  decide +kernel
theorem wit_grant_stops : sOpen.hall.floorState uA = .opened ∧ (room sA 0 fun r => { r with frozen := true }).hall.frozen 0 = true := by
  decide +kernel
/-- Every slot of T0 held. -/
def sNoSlot : State := { s0 with hall := { s0.hall with pools := put s0.hall.pools 0 (Vector.replicate 8 (some (ent 9 .closing 5))) } }
theorem wit_grant_no_slot : sNoSlot.hall.freeSlot 0 = none ∧ (sNoSlot.hall.freeSlot 1) = some 0 := by decide +kernel
theorem wit_grant_next : parseSeg [0, 0, 0, 0] = some (none, .seg 0, ()) ∧ sAsk.hall.queue 0 = [req uA 1] ∧
    sAsk.hall.freeSlot 0 ≠ none ∧ sAsk.hall.underLimit 0 = true ∧ sA.hall.queue 0 = [] :=
  ⟨by rfl, by decide +kernel, by decide +kernel, by decide +kernel, by decide +kernel⟩
theorem wit_drop : parseUnit [0, 0, 0, 0, 1] = some (none, .unit 0 1, (0, 1)) ∧ sA.hall.entryOf uA = none ∧
    sGranted.hall.entryOf uA = some ({ trunk := 0, slot := 0 }, ent 0 .granted 0) ∧
    sOpen.hall.entryOf uA = some ({ trunk := 0, slot := 0 }, ent 0 .opened 16384) ∧
    (hold sA 0 (ent 0 .closing 5)).hall.entryOf uA = some ({ trunk := 0, slot := 0 }, ent 0 .closing 5) :=
  ⟨by rfl, by decide +kernel, by decide +kernel, by decide +kernel, by decide +kernel⟩
theorem wit_cancel_elevate : parseElevate [0, 0, 0, 1, 0] = some (none, .seg 0, none) ∧
    parseElevate [0, 0, 0, 0, 0, 1] = some (none, .unit 0 1, some (0, 1)) ∧ sAsk.hall.requestOf uA ≠ none ∧
    sA.hall.requestOf uA = none := ⟨by rfl, by rfl, by decide +kernel, by decide +kernel⟩
/-- A GRANTED, an OPEN and a CLOSING entry, and a chair's, filed in S0. -/
theorem wit_all_off : sGranted.hall.entry { trunk := 0, slot := 0 } = some (ent 0 .granted 0) ∧
    sOpen.hall.entry { trunk := 0, slot := 0 } = some (ent 0 .opened 16384) ∧ (ent 0 .opened 1).onAir = true ∧
    (hold sA 1 { ent 0 .opened 5 with chair := true }).hall.entry { trunk := 0, slot := 1 } =
      some { ent 0 .opened 5 with chair := true } ∧ inSet (setOf 0) 0 = true := by decide +kernel
theorem wit_staging : parseStageGain [0, 0, 0, 0, 1, 0x7F, 0xFF] = some (none, .unit 0 1, (0, 1, 32767)) ∧
    ∃ r, sA.hall.room 0 = some r ∧ r.staging.pending = false ∧ ¬(∃ x ∈ r.staging.pairs, x.1 = uA) ∧
      r.staging.pairs.length < 16 := ⟨by rfl, _, rfl, by rfl, by decide +kernel, by decide +kernel⟩
/-- A pending area, and one that holds the unit. -/
theorem wit_staging_held :
    (∃ r, (room sA 0 fun r => { r with staging := { r.staging with pending := true } }).hall.room 0 = some r ∧
      r.staging.pending = true) ∧
    ∃ r, (room sA 0 fun r => { r with staging := { r.staging with pairs := [(uA, 1)] } }).hall.room 0 = some r ∧
      r.staging.pairs = [(uA, 1)] := ⟨⟨_, rfl, by rfl⟩, _, rfl, by rfl⟩
/-- T0:1 OPEN with its speak timer running in a room with a speak limit, not warned. -/
def sTimed : State :=
  room (hold sA 0 { ent 0 .opened 16384 with timer := some 40000 }) 0 fun r =>
    { r with settings := { r.settings with speakLimit := 60 } }
theorem wit_speak_limit :
    sTimed.hall.entryOf uA = some ({ trunk := 0, slot := 0 }, { ent 0 .opened 16384 with timer := some 40000 }) ∧
      sTimed.hall.roomOf 0 = some 0 ∧ (sTimed.hall.unit uA).warned = false ∧
      (∃ r, sTimed.hall.room 0 = some r ∧ r.settings.speakLimit ≠ 0) :=
  ⟨by decide +kernel, by decide +kernel, by decide +kernel, _, rfl, by decide +kernel⟩
theorem wit_idle_timer : (∃ r, (room s0 0 fun r => { r with idle := some 0 }).hall.room 0 = some r ∧ r.idle ≠ none) ∧
    ∀ r, s0.hall.room 0 = some r → r.idle = none := by
  refine ⟨⟨_, rfl, by decide +kernel⟩, fun r h => ?_⟩
  cases h
  rfl

/-! ### Windows and booths -/

theorem wit_window : parseSetWindow [0, 0, 0, 0, 28, 4] = some (none, .seg 0, (28, 4)) ∧
    parseSetWindow [0, 0, 0, 0, 0, 3] = some (none, .seg 0, (0, 3)) ∧
    ∃ r, s0.hall.room 0 = some r ∧ r.frozen = false ∧ r.base = 0 ∧ r.size = 4 ∧ r.langs = [] ∧
      ∃ r', s0.hall.room 7 = some r' ∧ r'.base = 28 ∧ r'.size = 4 :=
  ⟨by rfl, by rfl, _, rfl, by rfl, by rfl, by rfl, by rfl, _, rfl, by rfl, by rfl⟩
theorem wit_window_edges : (31 : Nat) ≤ 31 ∧ 32 < 31 + 2 ∧ ¬((1 : Nat) ≤ 0 ∧ 0 ≤ 16) := by decide
theorem wit_radiators : parseRadiators [2, 0, 1, 7, 0] = some [(0, 1), (7, 0)] ∧
    [((0 : Byte), (1 : Byte)), (7, 0)] =
      (([(0, false), (7, true)] : List (SegId × Bool)).map fun x => (BitVec.ofNat 8 x.1.val, if x.2 then 0 else 1)) ∧
    parseRadiators [1, 8, 0] = some [(8, 0)] := ⟨by rfl, by decide, by rfl⟩
theorem wit_define_booth : parseDefineBooth [0, 11, 0, 3, 5, 1, 7] = some (11, .team 0 3 5 [7]) ∧
    parseDefineBooth [1, 0] = some (0, .undefine) ∧ idOrNamed 8 255 = some none ∧ idOrNamed 8 0 = some (some 0) ∧
    idOrNamed 8 8 = none ∧ [3, 5, 7].Nodup ∧ (s0.hall.booths[(0 : BoothId)]).state ≠ .live ∧
    (((sBooths 3).hall.booths[(0 : BoothId)]).state = .live) :=
  ⟨by rfl, by rfl, by rfl, by rfl, by rfl, by decide, by decide +kernel, by decide +kernel⟩
/-- A STANDBY booth of room S0 whose language is in the list, one that is appended, one that clashes; a full list. -/
theorem wit_booth_state : (team (listed s0 3) 0 .standby 3 []).hall.boothRoom 0 = some 0 ∧
    ((team (listed s0 3) 0 .standby 3 []).hall.booths[(0 : BoothId)]).state = .standby ∧
    (1 : BoothId) ∈ (team (team s0 0 .standby 3 []) 1 .live 3 []).hall.liveBooths 0 ∧
    s0.hall.boothRoom 0 = none ∧ (0 : BoothId) ∈ (sBooths 3).hall.liveBooths 0 := by decide +kernel
theorem wit_booth_full : ∃ r, (team (listed s0 3) 0 .standby 7 []).hall.room 0 = some r ∧ 7 ∉ r.langs ∧
    r.size ≤ r.langs.length + 1 := ⟨_, rfl, by decide +kernel, by decide +kernel⟩
theorem wit_booth_append : ∃ r, (team s0 0 .standby 7 []).hall.room 0 = some r ∧ 7 ∉ r.langs ∧
    ¬r.size ≤ r.langs.length + 1 := ⟨_, rfl, by decide +kernel, by decide +kernel⟩
/-- B0 of 6.11.1 can switch to B, B2 has no B language; B5 is not defined. -/
theorem wit_booth_side : ((sBooths 3).hall.booths[(0 : BoothId)]).langB ≠ 0 ∧
    ((sBooths 3).hall.booths[(2 : BoothId)]).langB = 0 ∧ ((sBooths 3).hall.booths[(5 : BoothId)]).defined = false ∧
    ((sBooths 3).hall.booths[(0 : BoothId)]).side = .a := by decide +kernel
/-- The pins of 6.11.1: B3 may be pinned to B1, and B4 may not be pinned to itself. -/
theorem wit_pin : (sBooths 3).hall.boothRoom 3 = some 0 ∧ ((sBooths 3).hall.booths[(3 : BoothId)]).state = .live ∧
    pinRefusal (sBooths 3).hall 0 3 1 = none ∧ pinRefusal (sBooths 3).hall 0 4 4 = some .loop ∧
    ((sBooths 3).hall.booths[(1 : BoothId)]).pin = none ∧
    ((sBooths 3).hall.booths[(1 : BoothId)]).understood.contains 3 = true := by decide +kernel
theorem wit_unpin :
    ((booth (sBooths 3) 2 fun x => { x with pin := some .floor }).hall.booths[(2 : BoothId)]).pin ≠ none := by
  decide +kernel

/-! ### The mix engine and the ports -/

/-- Ramps of an OPENING and of a CLOSING entry, mixed to the end. -/
theorem wit_ramp_end :
    (hold sA 0 { ent 0 .opening 16384 with ramp := some { start := 0, target := 16384, len := 96, pos := 96 } }).hall.entry
      { trunk := 0, slot := 0 } =
        some { ent 0 .opening 16384 with ramp := some { start := 0, target := 16384, len := 96, pos := 96 } } ∧
    (hold sA 0 { ent 0 .closing 0 with ramp := some { start := 9, target := 0, len := 96, pos := 96 } }).hall.entry
      { trunk := 0, slot := 0 } =
        some { ent 0 .closing 0 with ramp := some { start := 9, target := 0, len := 96, pos := 96 } } ∧
    (∀ e, sOpen.hall.entry { trunk := 0, slot := 0 } = some e → e.ramp = none) := by
  refine ⟨by decide +kernel, by decide +kernel, fun e h => ?_⟩
  cases h
  rfl
theorem wit_block_end : (after .mixBlockStart s0).mix.block ≠ none ∧ s0.mix.block = none := by decide +kernel
theorem wit_block_start_commit : (reg s0 fun rg => { rg with state := .commitWait }).regroup.state = .commitWait ∧
    s0.regroup.state ≠ .commitWait ∧ ∀ p : PortId, (s0.hall.ports[p]).reinitPending = false := by decide +kernel
theorem wit_block_start_gains :
    ∃ r, (room sA 0 fun r => { r with staging := { pairs := [(uA, 7)], pending := true, applied := false } }).hall.room 0
      = some r ∧ r.staging.pending = true ∧ (uA, 7) ∈ r.staging.pairs ∧
      (∀ x ∈ r.staging.pairs, x.1 = uA → x.2 = 7) := by
  exact ⟨_, rfl, by rfl, by decide +kernel, by decide +kernel⟩
theorem wit_word_clock : (after .mixBlockStart s0).mix.block = some 0 ∧ (∀ m, s0.mix.block = some m → 48 ≤ m) ∧
    (after (.wordClockPeriod quiet) s0).mix.block = some 1 := by
  refine ⟨by decide +kernel, fun m h => ?_, by decide +kernel⟩
  cases h
theorem wit_ramp_values : (0 : Nat) < 96 ∧ (48 : Nat) ≤ 96 ∧ (0 : Int) ≤ (16384 : Nat) - (0 : Nat) ∧
    ((4096 : Nat) : Int) - (8192 : Nat) < 0 := by decide
theorem wit_reads : (0 : Byte).getLsbD 0 = false ∧ (1 : Byte).getLsbD 0 = true ∧ idOf 8 7 = some 7 ∧
    s0.hall.roomOf 7 = some 7 ∧ unitOf 0 1 = some uA ∧ idOf 12 11 = some 11 ∧ idOf 4 3 = some 3 := by decide +kernel
theorem wit_set_attention : (0x7F : Byte).getLsbD 7 = false ∧ (0x80 : Byte).getLsbD 7 = true ∧
    1 < (2 : Byte).toNat := by decide
theorem wit_ack_flags : portTakes (s0.hall.ports[(3 : PortId)]) .wall 1 = true ∧
    (s0.hall.ports[(3 : PortId)]).mask &&& flagBit .wall ≠ 0 := by decide +kernel
/-- An UNUSED port: P3 of a part whose second venue strap makes it so. -/
theorem wit_unused : roleOf ⟨#[3, 3, 0, 1], rfl⟩ 1 = .unused ∧ roleOf ⟨#[3, 3, 0, 1], rfl⟩ 0 = .venue := by decide

/-! ### Witnesses of the clauses, by statement -/

/-- A slot of T0. -/
def slot (k : SlotIx) : SlotRef := { trunk := 0, slot := k }

/-- A chair unit T0:2 seated in S0. -/
def chair (s : State) : State :=
  { seat s uB 0 with
    hall := (seat s uB 0).hall.setUnit uB { (seat s uB 0).hall.unit uB with cls := .chair } }

/-- The room of S0 in a mode. -/
def moded (s : State) (m : Mode) : State := room s 0 fun r => { r with settings := { r.settings with mode := m } }

/-- No slot of T0 free: one OPEN entry of S0 in slot 0, and orphans in the others. -/
def sPacked (s : State) : State :=
  hold
    { s with
      hall := { s.hall with
        pools := put s.hall.pools 0 (Vector.replicate 8 (some { ent 9 .closing 5 with unit := none, seg := 7 })) } }
    0 (ent 9 .opened 5)

/-- The hall of `sA` with one entry holds no other. -/
theorem alone (k : SlotIx) (e : Entry) : ∀ q e', (hold sA k e).hall.entry q = some e' → q = slot k := by
  intro q e' hq
  by_cases h : slot k = q
  · exact h.symm
  · have none_of : ∀ t : TrunkId, ∀ j : SlotIx, sA.hall.entry { trunk := t, slot := j } = none := by decide +kernel
    rw [show (hold sA k e).hall = sA.hall.setEntry (slot k) (some e) from rfl, Hall.setEntry_entry_ne _ _ h,
      none_of q.trunk q.slot] at hq
    cases hq

/-- In the hall of `sA` the entry of T0:1 in slot 0 is its only one. -/
theorem wit_sole_entry (e : Entry) (h : e.unit = some uA.addr) : (hold sA 0 e).hall.soleEntry uA (slot 0) e := by
  refine ⟨?_, rfl, h, rfl, fun q e' hq _ _ => alone 0 e q e' hq⟩
  exact Hall.setEntry_entry sA.hall (slot 0) (some e)

/-- The rooms of the reset share no segment. -/
theorem wit_apart : s0.hall.apart 0 := by
  intro j r r' hj h h'
  have all : ∀ j : SegId, j ≠ 0 → ((s0.hall.room 0).map (·.segs)).getD 0 &&& ((s0.hall.room j).map (·.segs)).getD 0 = 0 := by
    decide +kernel
  simpa [h, h'] using all j hj

/-- O7: a console's room in scope, the venue's, and a generation given, left out and stale. -/
theorem wit_room_in_scope : scopeOk (port s0 0 fun p => { p with scope := 0x04 }).hall 0 2 = true ∧
    scopeOk s0.hall 3 2 = true ∧ genOk s0.hall 2 none = true ∧ genOk s0.hall 2 (some 0) = true ∧
    genOk s0.hall 2 (some 65535) = false := by decide +kernel
/-- O19: at floor language 3, B1 pinned to FLOOR and B0, floor-matched with a pin, are members; B3 pinned to the member
B1, and B4 to B3, which is none. -/
theorem wit_relay_pins :
    let s := booth (booth (booth (booth (sBooths 3) 0 fun x => { x with pin := some (.booth 1) }) 1 fun x =>
      { x with pin := some .floor }) 3 fun x => { x with pin := some (.booth 1) }) 4 fun x => { x with pin := some (.booth 3) }
    (s.hall.booths[(0 : BoothId)]).output = 3 ∧
      ((List.finRange 5).map fun b : Fin 5 =>
        ((reevaluate s.hall 0).booths[(Fin.castLE (by omega) b : BoothId)]).source) =
        [.floor, .floor, .floor, .booth 1, .booth 2] ∧
      ((reevaluate s.hall 0).booths[(4 : BoothId)]).pin = none := by decide +kernel
/-- O19: nothing changes at floor language 0; something does at 3; a booth outside the room. -/
theorem wit_relay_changes : (reevaluate (sBooths 0).hall 0).booths = (sBooths 0).hall.booths ∧
    (reevaluate (sBooths 3).hall 0).booths ≠ (sBooths 3).hall.booths ∧
    (5 : BoothId) ∉ (sBooths 3).hall.liveBooths 0 ∧ (sBooths 3).hall.room 0 ≠ none := by decide +kernel
/-- O24: several fields, an empty list, a code twice, 16 codes, and the edges of the refused ranges. -/
theorem wit_defaults_fields :
    parseDefaults [7, 3, 8, 0, 15, 9, 0, 4, 8, 0, 2] = some (7, [(8, .word 15), (9, .word 4), (8, .word 2)]) ∧
    parseDefaults [7, 1, 17, 0] = some (7, [(17, .list [])]) ∧
    parseDefaults [7, 1, 17, 2, 63, 63] = some (7, [(17, .list [63, 63])]) ∧ ¬[63, 63].Nodup ∧
    parseDefaults [7, 1, 17, 16, 1, 2, 3, 4, 5, 6, 7, 8, 9, 10, 11, 12, 13, 14, 15, 16] =
      some (7, [(17, .list [1, 2, 3, 4, 5, 6, 7, 8, 9, 10, 11, 12, 13, 14, 15, 16])]) ∧
    parseDefaults [7, 2, 18, 0, 63, 18, 0, 64] = some (7, [(18, .word 63), (18, .word 64)]) ∧
    parseDefaults [8, 0] = some (8, []) ∧ idOf 8 8 = none :=
  ⟨by rfl, by rfl, by rfl, by decide, by rfl, by rfl, by rfl, by rfl⟩
/-- O26: W0 forced open joins S0 and S1; W1 follows an open contact. -/
theorem wit_map_joins : (sJoin.scanner.walls[(0 : WallId)]).pair = some (0, 1) ∧
    (sJoin.scanner.walls[(0 : WallId)]).ovr = .forceOpen ∧ sJoin.scanner.ranks[(1 : SegId)] = sJoin.scanner.ranks[(0 : SegId)] ∧
    (computeMap (wall sJoin 1 fun w => { w with pair := some (2, 1), settled := .opened }).scanner).map (·.segs) =
      [0x07, 0x08, 0x10, 0x20, 0x40, 0x80] := by decide +kernel

/-- CONSENT over S0, which is frozen, with T0:1 GRANTED there. -/
def sRecall (s : State) : State :=
  reg (room s 0 fun r => { r with frozen := true }) fun rg =>
    { rg with state := .consent, affected := 0x03, deadline := some 0, pendingMap := computeMap sJoin.scanner }
/-- O27: a frozen room with a GRANTED entry, its GRANT pending and delivered; a queue with space and one at its limit. -/
theorem wit_recalls :
    (∃ rm, (sRecall sGranted).hall.room 0 = some rm ∧ rm.frozen = true ∧ inSet rm.segs 0 = true ∧
      ((sRecall sGranted).hall.queue 0).length + 1 ≤ rm.settings.queueLimit) ∧
    (sRecall sGranted).hall.entry (slot 0) = some (ent 0 .granted 0) ∧ ((sRecall sGranted).hall.unit uA).seat = some 0 ∧
    (sRecall sGranted).hall.grantPending uA = true ∧ (sRecall (hold sA 0 (ent 0 .granted 0))).hall.grantPending uA = false ∧
    grantedInFrozen (sRecall sGranted).hall = [slot 0] ∧
    ((ask (seat sGranted uB 0) (req uB 1)).hall.queue 0).length = 1 := by
  refine ⟨⟨_, rfl, by decide +kernel, by decide +kernel, by decide +kernel⟩, ?_⟩
  decide +kernel
/-- O27: of two open entries of the pending room of S0 and S1 a limit of 1 keeps the newer; one lead continues. -/
theorem wit_trims :
    let s := sRecall (room (hold sOpen 1 { ent 1 .opening 0 with grantStamp := 3 }) 0 fun r =>
      { r with settings := { r.settings with openLimit := 1 } })
    openIn s.hall 0x03 = [slot 0, slot 1] ∧ inheritedLimit s.scanner s.hall { id := 0, segs := 0x03, lead := 0 } = 1 ∧
      { id := 0, segs := 0x03, lead := 0 } ∈ s.regroup.pendingMap ∧ (0x03 : SegSet) &&& s.regroup.affected ≠ 0 := by
  decide +kernel
/-- O27: a frozen room with a CLOSING entry keeps DRAIN. -/
theorem wit_drain_stays : closingInFrozen (sRecall (hold sA 0 (ent 0 .closing 5))).hall = true ∧
    closingInFrozen (sRecall sA).hall = false := by decide +kernel
/-- O30 to O37: a unit that becomes ABSENT GRANTED, OPEN and CLOSING, and one whose trunk is another. -/
theorem wit_unit_gone : (sGranted.hall.unit uA).present = true ∧ (sOpen.hall.unit uA).present = true ∧
    (ent 0 .opened 16384).onAir = true ∧ (ent 0 .closing 5).state = .closing ∧
    (decide (uC.trunk = 0)) = false ∧ ((trunk sOpen 0 fun x => { x with state := .up }).trunks[(0 : TrunkId)]).state = .up := by
  decide +kernel

/-- O39: requests of T0:1 in an AUTO room under its limit with nobody waiting, at its limit, and with no free slot. -/
theorem wit_latch_auto : ∃ r, sA.hall.room 0 = some r ∧ r.settings.mode = .auto ∧ r.frozen = false ∧
    sA.hall.underLimit 0 = true ∧ sA.hall.freeSlot 0 = some 0 ∧ sA.hall.queue 0 = [] ∧
    sFull.hall.underLimit 0 = false ∧ sFull.hall.floorState uB = .idle ∧ (sPacked sA).hall.freeSlot 0 = none :=
  ⟨_, rfl, by rfl, by rfl, by decide +kernel, by decide +kernel, by decide +kernel, by decide +kernel,
    by decide +kernel, by decide +kernel⟩
/-- O39: an OVERRIDE room at its limit with an open entry and with a GRANTED one alone; under it with a free slot, and
with none, the oldest speaker on the trunk there or not. -/
theorem wit_latch_override :
    (moded sFull .override).hall.underLimit 0 = false ∧ oldestOpen (moded sFull .override).hall 0 none = some (slot 0) ∧
    oldestOpen (room sGranted 0 fun r => { r with settings := { r.settings with openLimit := 1 } }).hall 0 none = none ∧
    (moded sA .override).hall.underLimit 0 = true ∧ (moded sA .override).hall.freeSlot 0 = some 0 ∧
    (moded (sPacked sA) .override).hall.underLimit 0 = true ∧
    oldestOpen (moded (sPacked sA) .override).hall 0 (some 0) = some (slot 0) ∧
    oldestOpen (hold (moded (sPacked sA) .override) 0 { ent 9 .closing 5 with unit := none }).hall 0 (some 0) = none := by
  decide +kernel
/-- O39: a chair's request with a free slot, with none, in a frozen room, and in a full queue. -/
theorem wit_latch_chair : ((chair sA).hall.unit uB).cls = .chair ∧ (chair sA).hall.unitRoom uB = some 0 ∧
    (chair sA).hall.floorState uB = .idle ∧ (chair sA).hall.freeSlot 0 = some 0 ∧
    (chair (sPacked sA)).hall.freeSlot 0 = none ∧ oldestOpen (chair (sPacked sA)).hall 0 (some 0) = some (slot 0) ∧
    (room (chair sA) 0 fun r => { r with frozen := true }).hall.frozen 0 = true ∧
    ((room (chair sAsk) 0 fun r => { r with settings := { r.settings with queueLimit := 1 } }).hall.queue 0).length = 1 := by
  decide +kernel
/-- O39: a GRANTED entry whose GRANT is pending, and one whose GRANT was delivered. -/
theorem wit_latch_granted : sGranted.hall.requestOf uA = none ∧
    sGranted.hall.entryOf uA = some (slot 0, ent 0 .granted 0) ∧ sGranted.hall.grantPending uA = true ∧
    (hold sA 0 (ent 0 .granted 0)).hall.grantPending uA = false ∧
    sOpen.hall.entryOf uA = some (slot 0, ent 0 .opened 16384) := by decide +kernel
/-- O39: a chair's next key has a request to grant, and has none. -/
theorem wit_chair_keys : (chair sAsk).hall.unitRoom uB = some 0 ∧ req uA 1 ∈ (chair sAsk).hall.queue 0 ∧
    (chair sAsk).hall.freeSlot (req uA 1).unit.trunk ≠ none ∧ (chair sAsk).hall.underLimit 0 = true ∧
    (chair sA).hall.queue 0 = [] := by decide +kernel
/-- O38: mic reports of a GRANTED, an OPEN and a CLOSING unit; the room's floor language left and changed; a limit of
30 s, and one above it. -/
theorem wit_mic_report : sGranted.hall.entryOf uA = some (slot 0, ent 0 .granted 0) ∧ some (1 : SlotIx) ≠ some (slot 0).slot ∧
    (hold sA 0 (ent 0 .closing 5)).hall.entryOf uA = some (slot 0, ent 0 .closing 5) ∧ sGranted.hall.roomOf 0 = some 0 ∧
    s0.hall.entryOf uA = none ∧
    (∃ rm, sGranted.hall.room 0 = some rm ∧ rm.floorLang = 0 ∧ rm.settings.speakLimit = 0) ∧
    ∃ rm, (room sGranted 0 fun r => { r with settings := { r.settings with speakLimit := 30 } }).hall.room 0 = some rm ∧
      rm.settings.speakLimit = 30 :=
  ⟨by decide +kernel, by decide, by decide +kernel, by decide +kernel, by decide +kernel, ⟨_, rfl, by rfl, by rfl⟩, _, rfl,
    by rfl⟩
/-- O38: a chair's reply with both keys set that were clear, and one whose keys were set before. -/
theorem wit_hand_over_keys : ((chair s0).hall.unit uB).cls = .chair ∧ ((chair s0).hall.unit uB).next = false ∧
    ((chair s0).hall.unit uB).allOff = false ∧ (sA.hall.unit uA).cls ≠ .chair ∧ sAsk.hall.floorState uA = .waiting := by
  decide +kernel
/-- O41: a lowered open limit sheds the older of two; a timer at the limit, past the warning point and before it. -/
theorem wit_set_room_shed :
    let s := hold sOpen 1 { ent 1 .granted 0 with grantStamp := 3 }
    ((s.hall.speaking 0).filter fun y => !y.2.chair && y.2.state ≠ .closing).map (·.1) = [slot 0, slot 1] ∧
      ∃ r, s.hall.room 0 = some r ∧ (r.settings.named [(2, .word 0)]).openLimit = 1 ∧
        r.settings.clampedBy [(2, .word 0)] = true ∧ (r.settings.named [(4, .word 40)]).speakLimit = 40 ∧
        r.settings.speakLimit = 0 := by
  refine ⟨by decide +kernel, _, rfl, by rfl, by rfl, by rfl, by rfl⟩
theorem wit_set_room_timer : sTimed.hall.entry (slot 0) = some { ent 0 .opened 16384 with timer := some 40000 } ∧
    40 * 1000 ≤ 40000 ∧ (70 - 30) * 1000 ≤ 40000 ∧ ¬(71 - 30) * 1000 ≤ 40000 := by decide +kernel
/-- O43: a request of the most recent speaker's segment, one of another, and a VIP's in the floor language. -/
theorem wit_scores : ∃ r, (room sAsk 0 fun r => { r with lastSpeaker := some 0 }).hall.room 0 = some r ∧
    r.lastSpeaker = some 0 ∧ (sAsk.hall.unit uA).seat = some 0 ∧ (s0.hall.unit uA).seat ≠ some 0 :=
  ⟨_, rfl, by rfl, by decide +kernel, by decide +kernel⟩
/-- O43: the arbiter's run in a MANUAL, a frozen and an AUTO room. -/
theorem wit_arbiter : (∃ r, (moded s0 .manual).hall.room 0 = some r ∧ r.settings.mode ≠ .auto) ∧
    (∃ r, (room s0 0 fun r => { r with frozen := true }).hall.room 0 = some r ∧ r.frozen = true) ∧
    ((arbiterRun sAsk.hall 0).entry (slot 0)).map (·.state) = some .granted :=
  ⟨⟨_, rfl, by decide +kernel⟩, ⟨_, rfl, by rfl⟩, by decide +kernel⟩
/-- O48: a room with an idle time and nobody speaking, and one where one speaks; a DORMANT room, one whose timer runs and
one whose timer stands. -/
theorem wit_idle_rooms :
    ((idleSweep (room s0 0 fun r => { r with settings := { r.settings with idle := 1 } }).hall).room 0).map (·.idle) =
      some (some 60000) ∧
    ((idleSweep (room sOpen 0 fun r => { r with settings := { r.settings with idle := 1 }, idle := some 5 }).hall).room 0).map
      (·.idle) = some none ∧
    (∃ r, (room s0 0 fun r => { r with dormant := true }).hall.room 0 = some r ∧ r.dormant = true) ∧
    (∃ r, (room s0 0 fun r => { r with idle := some 5 }).hall.room 0 = some r ∧ r.dormant = false ∧ r.idle ≠ none) ∧
    ∃ r, s0.hall.room 0 = some r ∧ r.dormant = false ∧ r.idle = none :=
  ⟨by decide +kernel, by decide +kernel, ⟨_, rfl, by rfl⟩, ⟨_, rfl, by rfl, by decide +kernel⟩, _, rfl, by rfl, by rfl⟩
/-- O49: the channels of a room: its first, provided ones, spare ones, those of a DORMANT room, and one of no window. -/
theorem wit_channel_map : (List.range 4).map (sBooths 3).hall.content = [.floor 0, .lang 0, .lang 1, .lang 2] ∧
    (List.range 4).map (fun n => s0.hall.content (28 + n)) = List.replicate 4 (.floor 7) ∧
    (room s0 7 fun r => { r with dormant := true }).hall.content 31 = .silence ∧ s0.hall.content 32 = .silence := by
  decide +kernel
/-- O49: a plan at its base, one relocated, one shrunk to the longest run, and one without a window. -/
theorem wit_placement :
    let p : Plan := { id := 0, rank := 0, base := 0, size := 3, langs := [1, 2], placement := .moved, dropped := [9] }
    (placePlan [] p).placement = .asBase ∧ (placePlan [(0, 4)] p).base = 4 ∧
      placePlan [(0, 5), (7, 25)] p =
        { p with base := 5, size := 2, langs := [1], placement := .shrunk, dropped := [9, 2] } ∧
      placePlan [(0, 32)] p = { p with size := 0, langs := [], placement := .noWindow, dropped := [9, 1, 2] } := by
  decide +kernel
/-- O49: a pending room that continues the room of S0, one whose lead leads no room, and one that continues a room
without a window. -/
theorem wit_plans : (∃ r, s0.hall.room 0 = some r ∧ r.lead = 0 ∧ r.size = 4) ∧
    (∀ j : SegId, (({ s0.hall with rooms := put s0.hall.rooms 0 none } : Hall).room j).map (·.lead) ≠ some 0) ∧
    ∃ r, (room s0 0 fun r => { r with size := 0 }).hall.room 0 = some r ∧ r.size = 0 :=
  ⟨⟨_, rfl, by rfl, by rfl⟩, by decide +kernel, _, rfl, by rfl⟩
/-- O54: a chair request waits on T0; an OVERRIDE and an AUTO room have a request there; none has. -/
theorem wit_hand_on : chairRequests (ask (chair s0) { req uB 5 with cls := .chair }).hall 0 = [uB] ∧
    chairRequests sAsk.hall 0 = [] ∧ overrideClaims (moded sAsk .override).hall 0 0 = true ∧
    eligible sAsk.hall 0 0 = true ∧ overrideClaims sA.hall 0 0 = false ∧ eligible sA.hall 0 0 = false := by
  decide +kernel
/-- O54: the rotation after S7 begins at S0; the room of S0 takes the slot; a trunk without a free slot. -/
theorem wit_rotation : rotationOrder 7 = [0, 1, 2, 3, 4, 5, 6, 7] ∧
    ((rotateSlot none { sAsk.hall with rotation := Vector.replicate 4 7 } 0).rotation[(0 : TrunkId)]) = 0 ∧
    (sPacked sA).hall.freeCount 0 = 0 := by decide +kernel
/-- R85, R112, R113: an ALL-OFF in an OVERRIDE room frees two slots of T0; its one request there takes the first, the
AUTO room of S1 the second. -/
theorem test_all_off_two_slots :
    let s := seat (seat (seat s0 { trunk := 0, addr := 2 } 0) { trunk := 0, addr := 3 } 1) uB 0
    let s := moded (hold (hold (sPacked s) 0 { ent 0 .granted 0 with unit := some 4 }) 1
      { ent 0 .granted 0 with unit := some 5 }) .override
    let s := ask (ask s (req { trunk := 0, addr := 2 } 1)) (req { trunk := 0, addr := 3 } 2)
    (after (.allOff 3 1 [0, 0, 0, 0]) s).hall.requests = [] := by decide +kernel
/-- O55: REINIT is pending; a commit waits; DRAIN with a ramp end owed; a CLOSING entry at 0 with no ramp ends. -/
theorem wit_block_start_reinit :
    ((settleBlock (port s0 3 fun p => { p with reinitPending := true })).hall.ports[(3 : PortId)]).reinitPending = true ∧
    (∀ p : PortId, ((settleBlock s0).hall.ports[p]).reinitPending = false) ∧
    (settleBlock (reg s0 fun rg => { rg with state := .commitWait })).regroup.state = .commitWait := by decide +kernel
theorem wit_block_start_owed :
    ({ ent 0 .closing 0 with ramp := some { start := 9, target := 0, len := 96, pos := 96 } } : Entry).owesEnd ∧
    ¬(ent 0 .closing 0).owesEnd ∧ (ent 0 .closing 0).silentEnd ∧ ¬(ent 0 .closing 5).silentEnd :=
  ⟨⟨_, rfl, by decide⟩, (fun ⟨_, h, _⟩ => nomatch h), ⟨rfl, rfl, fun _ h => nomatch h⟩, fun h => nomatch h.2.1⟩
/-- O55: the ids of `sJoin`'s map, its affected set, and a room whose generation wraps; that the maps agree outside the
affected set is `wit_commit_maps`. -/
theorem wit_commit : ((computeMap sJoin.scanner).map (·.id)).Nodup ∧
    ((computeMap sJoin.scanner).Pairwise fun a b => a.id < b.id) ∧
    affectedSet sJoin.hall.activeMap (computeMap sJoin.scanner) = 0x03 ∧
    nextGen (room s0 0 fun r => { r with gen := 65535 }).hall 0x01 = 0 := by decide +kernel
/-- O55: entries that start a ramp, keep one and need none; a channel sent, kept and reset. -/
theorem wit_ramp_starts : (ent 0 .opening 16384).latched 16384 96 =
      { ent 0 .opening 16384 with ramp := some { start := 16384, target := 16384, len := 96, pos := 0 } } ∧
    (ent 0 .opened 16384).latched 16384 96 = ent 0 .opened 16384 ∧
    ChState.reset.toward (0, 16384) 96 = ChState.reset ∧
    (ChState.reset.toward (16384, 3277) 96).ramp =
      some { startV := 0, targetV := 16384, startD := 16384, targetD := 3277, len := 96, pos := 0 } := by decide
/-- R157, R167: the latched entry of a CLOSING unit removed at its ramp end keeps the unit, and reads as gain 0. -/
theorem test_latched_left :
    let e : Entry := { ent 0 .closing 9 with ramp := some { start := 9, target := 0, len := 96, pos := 95 } }
    let s := after (.rampEnd 0 0) (latch (hold sA 0 e))
    (s.mix.rooms[(0 : SegId)]).map (fun r => r.entries.map (·.left)) = some [some (some 0)] ∧
      s.hall.entry (slot 0) = none := by decide +kernel
/-- A channel ramp on its way to an interpreter's levels, at a position. -/
def sending (k : Nat) : ChState :=
  { v := 0, d := 16384, ramp := some ⟨0, 16384, 16384, 3277, 96, k⟩ }
/-- O57: a channel ramp in its course, and with its last sample. -/
theorem wit_channel_advance : (sending 94).advance.ramp ≠ none ∧
    (sending 95).advance = { v := 16384, d := 3277, ramp := none } := by decide
/-- O59: which ports take an event of S0: the venue, the console that holds it, the desk for BOOTH and REGROUP. -/
theorem wit_port_takes : portTakes (s0.hall.ports[(3 : PortId)]) .clip 0 = true ∧
    portTakes (port s0 0 fun p => { p with scope := 1 }).hall.ports[(0 : PortId)] .floor 1 = true ∧
    portTakes s0.hall.ports[(0 : PortId)] .floor 1 = false ∧ portTakes s0.hall.ports[(0 : PortId)] .regroup 1 = true ∧
    portTakes s0.hall.ports[(2 : PortId)] .booth 1 = true ∧ portTakes s0.hall.ports[(2 : PortId)] .floor 1 = false := by
  decide +kernel
/-- R127: a pin to the source that a booth already has is stored, and raises nothing. -/
theorem test_pin_no_event :
    let t := after (.pinSource 3 1 [2, 255]) (port (sBooths 0) 3 fun p => { p with flags := 0, mask := 0x7F })
    (t.hall.booths[(2 : BoothId)]).pin = some .floor ∧ (t.hall.ports[(3 : PortId)]).flags = 0 := by decide +kernel

/-! ### Invariants, and what is due -/

/-- Windows apart, from the list of them. -/
theorem windows_apart_of {h : Hall} (w : SegId → Nat × Nat)
    (rooms : ∀ i, (h.room i).map (fun r => (r.base, r.size)) = some (w i))
    (fit : ∀ i, (w i).2 = 0 ∨ (w i).1 + (w i).2 ≤ 32)
    (apart : ∀ i j, i ≠ j → (w i).2 ≠ 0 → (w j).2 ≠ 0 →
      (w i).1 + (w i).2 ≤ (w j).1 ∨ (w j).1 + (w j).2 ≤ (w i).1) : h.windowsApart := by
  have at_room : ∀ i r, h.room i = some r → w i = (r.base, r.size) := fun i r hr => by simpa [hr] using (rooms i).symm
  refine ⟨fun i r hr => by simpa [at_room i r hr] using fit i, fun i j r r' hij hr hr' => ?_⟩
  simpa [at_room i r hr, at_room j r' hr'] using apart i j hij

/-- LIVE booths sound, from decidable facts about their rooms. -/
theorem booths_ok_of {h : Hall}
    (listed : ∀ b : BoothId, (h.booths[b]).state = .live →
      ((h.boothRoom b).bind h.room).map (fun r => r.langs.contains (h.booths[b]).output) = some true)
    (one : ∀ i b c, b ∈ h.liveBooths i → c ∈ h.liveBooths i → (h.booths[b]).output = (h.booths[c]).output → b = c) :
    h.boothsOk := by
  refine ⟨fun b hb => ?_, one⟩
  have hl := listed b hb
  simp only [Option.map_eq_some_iff, Option.bind_eq_some_iff, List.contains_eq_mem, decide_eq_true_eq] at hl
  obtain ⟨r, ⟨i, hi, hr⟩, hm⟩ := hl
  exact ⟨i, r, hi, hr, hm⟩

/-- T0:1 OPEN in slot 0 and T0:2 waiting. -/
def sBusy : State := ask (hold sA 0 (ent 0 .opened 16384)) (req uB 1)

theorem wit_windows_apart : s0.mapsOk ∧ s0.hall.windowsApart ∧ ∃ t, step s0 = .next t :=
  ⟨by unfold State.mapsOk dividesSegs; decide +kernel,
    windows_apart_of (fun i => (4 * i.val, 4)) (by decide +kernel) (by decide) (by decide), _, rfl⟩
theorem wit_floor_ok : sBusy.hall.floorOk ∧ ∃ t, step sBusy = .next t := by
  refine ⟨⟨by decide +kernel, fun q q' e e' a hq hq' _ _ _ => ?_, fun q e a hq ha y hy => ?_⟩, _, rfl⟩
  · exact (alone 0 _ q e hq).trans (alone 0 _ q' e' hq').symm
  · obtain rfl : q = slot 0 := alone 0 _ q e hq
    have unit_of : (sBusy.hall.entry (slot 0)).map (·.unit) = some (some 0) := by decide +kernel
    obtain rfl : a = 0 := by simpa [show sBusy.hall.entry (slot 0) = some e from hq, ha] using unit_of
    obtain rfl : y = req uB 1 := by simpa [sBusy, ask, hold, sA, seat, s0, State.reset, State.powerOn] using hy
    decide
theorem wit_booths_ok : (sBooths 3).mapsOk ∧ (sBooths 3).hall.boothsOk ∧ ∃ t, step (sBooths 3) = .next t :=
  ⟨by unfold State.mapsOk dividesSegs; decide +kernel, booths_ok_of (by decide +kernel) (by decide +kernel), _, rfl⟩
/-- O17: maps in COMMIT-WAIT, where they differ, and in STEADY. -/
def sCommit : State :=
  reg sJoin fun rg =>
    { rg with state := .commitWait, isOpen := true, affected := 0x03, pendingMap := computeMap sJoin.scanner }
theorem wit_maps_ok : sCommit.mapsOk ∧ s0.mapsOk ∧ sCommit.hall.activeMap ≠ sCommit.regroup.pendingMap ∧
    ∃ t, step sCommit = .next t := by
  refine ⟨?_, ?_, by decide +kernel, _, rfl⟩ <;> · unfold State.mapsOk dividesSegs; decide +kernel

/-- O2: each timer at its end makes its own event due, and a millisecond before it does not. -/
theorem wit_due_walls :
    dueEvent (wall sWall 0 fun w => { w with settle := some 0 }) = some (.settleTimerExpiry 0) ∧
    dueEvent (wall sWall 0 fun w => { w with settle := some 1 }) = none ∧
    dueEvent (wall sWall 0 fun w => { w with stuck := .running 0 }) = some (.stuckTimerExpiry 0) ∧
    dueEvent (wall sWall 0 fun w => { w with stuck := .running 1 }) = none := by decide +kernel
theorem wit_due_deadline : dueEvent (reg sConsent fun rg => { rg with deadline := some 0 }) = some .deadlineExpiry ∧
    dueEvent (reg sConsent fun rg => { rg with deadline := some 1 }) = none := by decide +kernel
theorem wit_due_idle : dueEvent (room s0 7 fun r => { r with idle := some 0 }) = some (.idleTimerExpiry 7) ∧
    dueEvent (room s0 7 fun r => { r with idle := some 1 }) = none := by decide +kernel
/-- T0:1 OPEN for a time in a room with a speak limit of 60 s. -/
def sSpoken (ms : Nat) : State :=
  room (hold sA 0 { ent 0 .opened 16384 with timer := some ms }) 0 fun r =>
    { r with settings := { r.settings with speakLimit := 60 } }
theorem wit_due_speaker : dueEvent (sSpoken 60000) = some (.speakLimitExpiry uA) ∧
    dueEvent (sSpoken 59999) = some (.speakLimitWarning uA) ∧ dueEvent (sSpoken 30000) = some (.speakLimitWarning uA) ∧
    dueEvent (sSpoken 29999) = none := by decide +kernel
/-- O2: the expiry of a settle timer is taken before that of a deadline. -/
theorem wit_due_both : dueEvent (wall (reg sConsent fun rg => { rg with deadline := some 0 }) 11 fun w =>
    { w with pair := some (2, 3), settle := some 0 }) = some (.settleTimerExpiry 11) := by decide +kernel

/-! ### Rooms, scopes and walls -/

/-- In the reset's hall, and after a unit is seated there, one room alone holds a segment. -/
theorem only_room (h : Hall) (sg : SegId) (rooms : ∀ i, (h.room i).map (·.segs) = some (setOf i)) :
    (∃ r, h.room sg = some r ∧ inSet r.segs sg = true) ∧
      ∀ j r, h.room j = some r → inSet r.segs sg = true → j = sg := by
  have self : ∀ j sg : SegId, inSet (setOf j) sg = true ↔ j = sg := by decide
  have at_room : ∀ j r, h.room j = some r → r.segs = setOf j := fun j r hr => by simpa [hr] using rooms j
  refine ⟨?_, fun j r hr hs => (self j sg).mp (at_room j r hr ▸ hs)⟩
  have hsome := rooms sg
  cases hr : h.room sg with
  | none => simp [hr] at hsome
  | some r => exact ⟨r, rfl, at_room sg r hr ▸ (self sg sg).mpr rfl⟩
/-- O7: segments S7 and S8, T0:1 and T3:60, a trunk T4, addresses 0 and 61, and a unit without a seat. -/
theorem wit_select_room : (∀ i, (sA.hall.room i).map (·.segs) = some (setOf i)) ∧
    selectRoom s0.hall (.seg 7) = .ok 7 ∧ selectRoom s0.hall (.seg 8) = .error .range ∧
    selectRoom sA.hall (.unit 0 1) = .ok 0 ∧ selectRoom s0.hall (.unit 0 1) = .error .state ∧
    selectRoom (seat s0 { trunk := 3, addr := 59 } 7).hall (.unit 3 60) = .ok 7 ∧
    selectRoom s0.hall (.unit 4 1) = .error .range ∧ selectRoom s0.hall (.unit 0 0) = .error .range ∧
    selectRoom s0.hall (.unit 0 61) = .error .range := by decide +kernel
/-- O10: straps 10, 11, 11 and 01: a desk, the venue port, an UNUSED one, a console. -/
theorem wit_straps : (List.finRange 4).map (roleOf ⟨#[2, 3, 3, 1], rfl⟩) = [.desk, .venue, .unused, .console] := by
  decide
/-- O21: an undefined wall, one that follows, one forced; a hall at rest and one where a timer runs. -/
theorem wit_effective : effective (s0.scanner.walls[(0 : WallId)]) = none ∧
    effective (sWall.scanner.walls[(0 : WallId)]) = some .closed ∧
    effective (sJoin.scanner.walls[(0 : WallId)]) = some .opened ∧
    pairSegs (sWall.scanner.walls[(0 : WallId)]) = 0x03 ∧ atRest sWall.scanner = true ∧
    atRest (wall sWall 0 fun w => { w with settle := some 5 }).scanner = false ∧
    atRest (wall sWall 0 fun w => { w with stuck := .running 5 }).scanner = false ∧
    atRest (wall sWall 0 fun w => { w with stuck := .expired }).scanner = true := by decide +kernel
/-- O26: consoles of an affected set; equal maps with another lead, and differing ones; an abandon with a frozen room;
a room frozen before that the new affected set leaves out. -/
theorem wit_consoles : consolesOf s0.hall 0xFF = [] ∧
    consolesOf (port (port s0 0 fun p => { p with scope := 0x02 }) 1 fun p => { p with scope := 0x04 }).hall 0x03 = [0] ∧
    (s0.hall.ports[(1 : PortId)]).role = .console := by decide +kernel
theorem wit_same_map :
    sameMap (computeMap sJoin.scanner)
      (computeMap { sJoin.scanner with ranks := put sJoin.scanner.ranks 1 (3 : Nat) }) = true ∧
    computeMap sJoin.scanner ≠ computeMap { sJoin.scanner with ranks := put sJoin.scanner.ranks 1 (3 : Nat) } ∧
    sameMap (computeMap sJoin.scanner) (computeMap sWall.scanner) = false ∧
    dividesSegs (computeMap sJoin.scanner) ∧ companions (computeMap sJoin.scanner) 1 = 0x03 := by
  unfold dividesSegs
  decide +kernel
/-- CONSENT over S0 and S1 with the room of S0 frozen and T0:1 waiting there, the wall since closed again. -/
def sBack : State :=
  reg (room sAsk 0 fun r => { r with frozen := true }) fun rg => { rg with state := .settling, isOpen := true }
theorem wit_abandon : sameMap (computeMap sBack.scanner) sBack.hall.activeMap = true ∧ sBack.regroup.isOpen = true ∧
    sBack.hall.frozenRooms = [0] ∧
    ((restReport sBack).hall.entry (slot 0)).map (·.state) = some .granted := by decide +kernel
/-- The room of S7 frozen, and a new affected set of S0 and S1. -/
theorem wit_refreeze : let s := room sJoin 7 fun r => { r with frozen := true }
    s.hall.frozenRooms = [7] ∧ affectedSet s.hall.activeMap (computeMap s.scanner) = 0x03 ∧
      (restReport s).hall.frozenRooms = [0, 1] := by decide +kernel
/-- O27: the clause of `closingInFrozen`, in a room that is frozen and in one that is not. -/
theorem wit_closing_in_frozen :
    closingInFrozen (room (hold sA 0 (ent 0 .closing 5)) 0 fun r => { r with frozen := true }).hall = true ∧
    closingInFrozen (hold sA 0 (ent 0 .closing 5)).hall = false ∧
    closingInFrozen (room (hold sA 0 (ent 0 .opened 5)) 0 fun r => { r with frozen := true }).hall = false := by
  decide +kernel
/-- O27: the speaking list of S0 in the order of its grant stamps, which wrap: base 0xFFFFFFFE; the open and the GRANTED
of its entries. -/
theorem wit_speaking_order :
    let s := room (hold (hold sA 3 (ent 4 .opened 5)) 1 { ent 5 .granted 0 with grantStamp := 0xFFFFFFFF }) 0 fun r =>
      { r with frozen := true }
    (s.hall.entriesIn 0x01).map (·.1) = [slot 1, slot 3] ∧ s.hall.speaking 0 = s.hall.entriesIn 0x01 ∧
      openIn s.hall 0x01 = [slot 3] ∧ grantedInFrozen s.hall = [slot 1] ∧
      ∀ k : SlotIx, ∀ e ∈ s.hall.entry (slot k), (e.grantStamp - 0xFFFFFFFE).toNat < 2 ^ 31 := by decide +kernel
/-- O29: a segment without a console and one with; the venue port's scope counts for nothing. -/
theorem wit_console_of : consoleOf s0.hall 0 = none ∧
    consoleOf (port s0 1 fun p => { p with scope := 0x01 }).hall 0 = some 1 ∧
    consoleOf (port s0 3 fun p => { p with scope := 0x01 }).hall 0 = none := by decide +kernel
/-- O29: a claim of S0 sets the controlling console of its room and raises ROOM; a claim of no segment raises nothing. -/
theorem test_claim_raises :
    ((after (.claimSegments 0 1 [0x01]) s0).hall.ports[(3 : PortId)]).flags = flagBit .room ∧
    ((after (.claimSegments 0 1 [0x01]) s0).hall.room 0).map (·.console) = some (some 0) ∧
    ((after (.claimSegments 0 1 [0x00]) s0).hall.ports[(3 : PortId)]).flags = 0 := by decide +kernel

/-! ### Trunks -/

/-- O32: a round without a poll is the trunk's first silent round, or its third; DOWN stays. -/
theorem wit_no_poll : let s := trunk sUp 0 fun x => { x with probes := 0 }
    ((after (.pollRoundStart 0) s).trunks[(0 : TrunkId)]).state = .up ∧
    ((after (.pollRoundStart 0) (trunk s 0 fun x => { x with silent := 2, state := .degraded })).trunks[(0 : TrunkId)]).state
      = .down ∧
    ((after (.pollRoundStart 0) (trunk s 0 fun x => { x with silent := 3, state := .down })).trunks[(0 : TrunkId)]).state
      = .down := by decide +kernel
/-- O35, O36: a mic report of a unit without an entry, of one in its own slot and of one in another; no mic report. -/
theorem wit_stray :
    let live (k : SlotIx) : Report := { latch := false, next := false, allOff := false, mic := some k, lang := 0, seat := 0 }
    isStray sA.hall uA (live 2) = true ∧ isStray sOpen.hall uA (live 0) = false ∧
      isStray sOpen.hall uA (live 2) = true ∧ isStray sA.hall uA { live 2 with mic := none } = false ∧
      sA.hall.entryOf uA = none ∧ sOpen.hall.entryOf uA = some (slot 0, ent 0 .opened 16384) := by decide +kernel
/-- R62: T0:1, latch set, reports mic-live on its slot before its GRANT has reached it; the reply to the poll that delivers the GRANT
finds the entry in OPENING, and its count stops at once; a later mic report stops one that runs. -/
theorem test_late_grant :
    let live : List Byte := [0xC3, 1, 0x90, 0, 0, 0x6F, 0x3C]
    let opening (s : State) : State := after (.handOverTaken 0) (after (.pollReply 0 live) s)
    let s := opening (sWait (seat sGranted uA 0) 0 false none)
    let t := opening (sWait s 0 false (some (.floor (.grant 0))))
    (s.hall.addr uA).floorOrder = some (.grant 0) ∧ (s.hall.addr uA).confirm = none ∧
      (s.hall.entry (slot 0)).map (·.state) = some .opening ∧
      (t.hall.addr uA).floorOrder = none ∧ (t.hall.addr uA).confirm = none ∧
      ((opening (sWait (addr s uA fun a => { a with floorOrder := none, confirm := some 2 }) 0 false none)).hall.addr
        uA).confirm = none := by decide +kernel
/-- O37: of two counts on a trunk one is spent and one lowered. -/
theorem wit_counts :
    let s := addr (addr (seat sA uB 0) uA fun a => { a with confirm := some 1 }) uB fun a => { a with confirm := some 3 }
    let t := after (.roundEnd 0) (trunk s 0 fun x =>
      { x with state := .up, round := some { todo := [], sent := none, good := true, fresh := [] } })
    (t.hall.unit uA).present = false ∧ (t.hall.addr uB).confirm = some 2 := by decide +kernel

/-! ### The floor -/

/-- O39, O42: a room without an entry to close, one with an entry of its chair alone, one with an entry on T0 alone. -/
theorem wit_oldest_none : oldestOpen sA.hall 0 none = none ∧
    oldestOpen (hold sA 1 { ent 0 .opened 5 with chair := true }).hall 0 none = none ∧
    oldestOpen sOpen.hall 0 (some 1) = none ∧ oldestOpen sOpen.hall 0 (some 0) = some (slot 0) := by decide +kernel
/-- O40: a seat override, a class and a gain together; one of them out of range; a busy unit's gain with its own class. -/
theorem wit_set_unit_fields :
    parseSetUnit [0, 1, 3, 1, 0, 7, 2, 0, 2, 3, 0x80, 0] =
      some ((0, 1), [(1, .word 7), (2, .word 2), (3, .word 32768)]) ∧
    parseSetUnit [0, 1, 2, 3, 0, 5, 2, 0, 3] = some ((0, 1), [(3, .word 5), (2, .word 3)]) ∧
    parseSetUnit [0, 1, 1, 4, 0, 0] = none ∧
    (let t := after (.setUnit 3 1 [0, 1, 3, 1, 0, 7, 2, 0, 2, 3, 0x80, 0]) sA;
      statusAt t 3 = .doneClamped ∧ (t.hall.unit uA).seat = some 7 ∧ (t.hall.unit uA).cls = .chair ∧
        (t.hall.unit uA).gain = 32767) ∧
    (let t := after (.setUnit 3 1 [0, 1, 2, 3, 0, 5, 2, 0, 3]) sA;
      statusAt t 3 = .range ∧ (t.hall.unit uA).gain = 16384) ∧
    statusAt (after (.setUnit 3 1 [0, 1, 2, 3, 0, 5, 2, 0, 0]) sAsk) 3 = .done ∧
    statusAt (after (.setUnit 3 1 [0, 1, 2, 3, 0, 5, 2, 0, 1]) sAsk) 3 = .state := by decide +kernel
/-- O41: SET-ROOM lowers the queue limit under two requests: the newer is denied, ROOM and FLOOR are raised. -/
theorem wit_set_room_events :
    let t := after (.setRoom 3 1 [0, 0, 0, 0, 1, 3, 0, 1]) (seat (ask sAsk (req uB 2)) uB 0)
    statusAt t 3 = .done ∧ t.hall.requests = [req uA 1] ∧ (t.hall.addr uB).floorOrder = some .deny ∧
      (t.hall.ports[(3 : PortId)]).flags = flagBit .room ||| flagBit .floor := by decide +kernel
/-- O43: two chairs of one trunk wait in a room that is unfrozen, the newer first in the pool; one slot is free. -/
def sChairs : State :=
  let two := seat (seat sA uB 0) { trunk := 0, addr := 2 } 0
  let full := { two with hall := { two.hall with
    pools := put two.hall.pools 0 (put (Vector.replicate 8 (some (ent 9 .closing 5))) (4 : SlotIx) none) } }
  ask (ask full { req { trunk := 0, addr := 2 } 7 with cls := .chair }) { req uB 5 with cls := .chair }
theorem wit_chair_service : (sChairs.hall.requests.map (·.unit)).Nodup ∧ sChairs.hall.freeSlot 0 = some 4 ∧
    sChairs.hall.unitRoom uB = some 0 ∧ ((chairService sChairs.hall [0]).requests.map (·.unit)) =
      [{ trunk := 0, addr := 2 }] ∧
    ((chairService sChairs.hall [0]).entry (slot 4)).map (·.unit) = some (some 1) ∧
    (chairService sChairs.hall [1]).requests = sChairs.hall.requests := by decide +kernel
/-- O43: a queue in the order of its stamps, which wrap: base 0xFFFFFFFE. -/
theorem wit_queue_order :
    let h := (ask (ask (seat sA uB 0) (req uB 1)) (req uA 0xFFFFFFFF)).hall
    h.queueIn 0x01 = [req uA 0xFFFFFFFF, req uB 1] ∧ h.queue 0 = h.queueIn 0x01 ∧
      ∀ q ∈ h.requests, (q.stamp - 0xFFFFFFFE).toNat < 2 ^ 31 := by decide +kernel

/-! ### Booths -/

/-- O51: B0 goes LIVE beside B1, which is LIVE in another language, and stands by with a booth pinned to it. -/
theorem wit_booth_goes :
    let s := team (team (listed s0 3) 0 .standby 7 []) 1 .live 5 []
    (∀ r, s.hall.room 0 = some r → 7 ∉ r.langs) ∧
      statusAt (after (.boothState 3 1 [0, 0]) (room s 0 fun r => { r with size := 7 })) 3 = .done ∧
      ((after (.boothState 3 1 [0, 0]) (room s 0 fun r => { r with size := 7 })).hall.room 0).map (·.langs) =
        some [3, 5, 9, 11, 12, 7] := by
  refine ⟨fun r hr => ?_, by decide +kernel, by decide +kernel⟩
  cases hr
  decide +kernel
theorem wit_booth_stands_by :
    let t := after (.boothState 3 1 [1, 1]) (booth (sBooths 3) 3 fun x => { x with pin := some (.booth 1), source := .booth 1 })
    (t.hall.booths[(1 : BoothId)]).state = .standby ∧ (t.hall.booths[(3 : BoothId)]).pin = none ∧
      (t.hall.booths[(3 : BoothId)]).source = .floor ∧
      (t.hall.ports[(3 : PortId)]).flags &&& flagBit .booth ≠ 0 := by decide +kernel
/-- O53: an UNPIN of a booth that is in a room, and of one that is in none. -/
theorem wit_unpin_rooms :
    (sBooths 3).hall.boothRoom 2 = some 0 ∧ (booth s0 5 fun x => { x with pin := some .floor }).hall.boothRoom 5 = none ∧
    statusAt (after (.unpinSource 3 1 [5]) (booth s0 5 fun x => { x with pin := some .floor })) 3 = .done := by
  decide +kernel

/-! ### Payloads -/

/-- O6: a payload too long, one too short, a presence byte of 2, a field number that SET-ROOM lacks, and payloads that
are the command's. -/
theorem wit_payloads : payloadOk (.lockWalls 3 1 [0]) = false ∧ payloadOk (.grant 3 1 [0, 0, 0, 0, 1]) = false ∧
    payloadOk (.grantNext 3 1 [2, 0, 0, 0]) = false ∧ payloadOk (.setRoom 3 1 [0, 0, 0, 0, 1, 15, 0, 1]) = false ∧
    payloadOk (.setRadiators 3 1 [0]) = false ∧ payloadOk (.regroupAnswer 0 1 [0, 0, 0, 0]) = false ∧
    payloadOk (.defineBooth 3 1 [0, 11, 0, 3, 5, 2, 7]) = false ∧
    payloadOk (.defineBooth 3 1 [0, 11, 0, 3, 5, 1, 7]) = true ∧ payloadOk (.elevate 3 1 [0, 0, 0, 1, 0]) = true ∧
    statusAt (after (.lockWalls 3 1 [0]) s0) 3 = .range ∧
    statusAt (after (.grantNext 3 1 [2, 0, 0, 0]) s0) 3 = .range := by decide +kernel

/-! ### The block start -/

/-- O55: an entry that ends at the block start, which gives its unit RELEASE and frees its slot, and one that does
not. -/
theorem wit_prepared : (ent 0 .closing 0).silentEnd ∧ ¬(ent 0 .closing 5).silentEnd ∧
    ((endSilent (hold sA 0 (ent 0 .closing 0)) (slot 0)).hall.addr uA).floorOrder = some .release ∧
    ((endSilent (hold sA 0 (ent 0 .closing 0)) (slot 0)).hall.entry (slot 0)) = none :=
  ⟨⟨rfl, rfl, fun _ h => nomatch h⟩, (fun h => nomatch h.2.1), by decide +kernel, by decide +kernel⟩
/-- R99: a REINIT that a block start applies leaves no request and no entry, and gives a RELEASE for each entry. -/
theorem test_reinit_floor :
    let t := after .mixBlockStart (port (hold (ask sA (req uB 1)) 0 (ent 0 .opened 5)) 3 fun p =>
      { p with reinitPending := true })
    t.hall.requests = [] ∧ t.hall.entry (slot 0) = none ∧ (t.hall.addr uA).floorOrder = some .release ∧
      (t.hall.ports[(3 : PortId)]).flags &&& flagBit .regroup ≠ 0 := by decide +kernel

/-! ### The commit -/

/-- O55: the maps of `sCommit` agree outside the affected segments. -/
theorem wit_commit_maps : (sCommit.regroup.pendingMap.Pairwise fun a b => a.id < b.id) ∧
    (sCommit.regroup.pendingMap.map (·.id)).Nodup ∧
    ∀ (i : SegId) (y : SegSet), (y &&& sCommit.regroup.affected) = 0 →
      ((∃ r, sCommit.hall.room i = some r ∧ r.segs = y) ↔
        ∃ m ∈ sCommit.regroup.pendingMap, m.id = i ∧ m.segs = y) := by
  refine ⟨by decide +kernel, by decide +kernel, fun i y hy => ?_⟩
  have rooms : ∀ i, (sCommit.hall.room i).map (·.segs) = some (setOf i) := by decide +kernel
  have maps : sCommit.regroup.pendingMap.map (fun m => (m.id, m.segs)) =
      [(0, 0x03), (2, 0x04), (3, 0x08), (4, 0x10), (5, 0x20), (6, 0x40), (7, 0x80)] := by decide +kernel
  have agree : ∀ i : SegId, ∀ y : SegSet, (y &&& 0x03) = 0 → (some (setOf i) = some y ↔
      (i, y) ∈ ([(0, 0x03), (2, 0x04), (3, 0x08), (4, 0x10), (5, 0x20), (6, 0x40), (7, 0x80)] : List (SegId × SegSet))) := by
    decide +kernel
  rw [show (∃ r, sCommit.hall.room i = some r ∧ r.segs = y) ↔ (sCommit.hall.room i).map (·.segs) = some y by
    simp only [Option.map_eq_some_iff], rooms i, agree i y hy, ← maps]
  simp only [List.mem_map, Prod.mk.injEq]
/-- O55: maps and floor records are sound. -/
theorem wit_commit_sound : sCommit.mapsOk ∧ sCommit.hall.floorOk := by
  refine ⟨by unfold State.mapsOk dividesSegs; decide +kernel, by decide +kernel, fun q q' e e' a hq => ?_, fun q e a hq => ?_⟩
  all_goals
    have none_of : ∀ t : TrunkId, ∀ j : SlotIx, sCommit.hall.entry { trunk := t, slot := j } = none := by decide +kernel
    rw [none_of q.trunk q.slot] at hq
    cases hq
/-- R40, R41: of two open entries of the joined room the older is CLOSING, and of two requests the newer is denied. -/
theorem test_commit_floor :
    let s := seat (seat sCommit uA 0) uB 1
    let two (r : Room) : Room := { r with settings := { r.settings with openLimit := 1, queueLimit := 1 } }
    let s := hold (hold (room s 0 two) 0 (ent 4 .opened 5)) 1 { ent 5 .opened 5 with grantStamp := 3, seg := 1 }
    let t := after .mixBlockStart (ask (ask s (req uA 1)) (req uB 2))
    (t.hall.entry (slot 0)).map (·.state) = some .closing ∧ (t.hall.entry (slot 1)).map (·.state) = some .opened ∧
      t.hall.requests = [req uA 1] ∧ (t.hall.addr uB).floorOrder = some .deny := by decide +kernel
/-- R134: of two LIVE booths of one language the one that served the continued room stays LIVE; where neither did, the
lowest id. -/
theorem test_commit_booths :
    let rivals (a b : SegId) : List (BoothState × Bool) :=
      let s := booth (team (room (listed sCommit 0) 1 fun r => { r with langs := [3] }) 0 .live 3 []) 0 fun x =>
        { x with home := some a }
      let t := after .mixBlockStart (booth (team s 1 .live 3 []) 1 fun x => { x with home := some b })
      ([0, 1] : List BoothId).map fun c => ((t.hall.booths[c]).state, (t.hall.booths[c]).displaced)
    rivals 1 0 = [(.standby, true), (.live, false)] ∧ rivals 1 1 = [(.live, false), (.standby, true)] := by decide +kernel

end Sys2Proof.Tests
end

section
/-! The layout of the rooms: what only a commit, REINIT, SET-ROOM, SET-WINDOW and a full reset write of the room records,
and the commands that keep it together with the wall scanner and the regroup times. -/

namespace Sys2Proof.Machine

/-! ## Outcomes and replies -/

/-- A next state that an outcome answers has the property. -/
def Yields (P : State → Prop) (o : Host.Outcome State Fault Refusal) : Prop := ∀ t, o = .next t → P t

/-- The state that an owning rule leaves has the property. -/
def Reply.Leaves (P : State → Prop) (r : Reply) : Prop := ∀ c l t, r = .done c l t → P t

section
variable {P : State → Prop}

@[simp] theorem yields_next (t : State) : Yields P (.next t) ↔ P t :=
  ⟨fun h => h t rfl, fun h u e => by cases e; exact h⟩

@[simp] theorem yields_answerNext (t : State) : Yields P (answerNext t) ↔ P t := yields_next t

@[simp] theorem Reply.leaves_refuse (st : Status) : (Reply.refuse st).Leaves P := fun _ _ _ e => nomatch e

@[simp] theorem Reply.leaves_done (c : Bool) (l : List Byte) (t : State) : (Reply.done c l t).Leaves P ↔ P t :=
  ⟨fun h => h c l t rfl, fun h c' l' u e => by cases e; exact h⟩

end

/-! ## The layout -/

/-- The fields of a room that its map and its settings fix: segments, lead, settings and window. -/
def Room.layout (r : Room) : SegSet × SegId × Settings × Nat × Nat := (r.segs, r.lead, r.settings, r.base, r.size)

/-- The layout of every room. -/
def Hall.layout (h : Hall) : SegId → Option (SegSet × SegId × Settings × Nat × Nat) :=
  fun i => (h.room i).map Room.layout

theorem Room.layout_eq : Room.layout = (fun c => (c.1, c.2.1, c.2.2.2.1, c.2.2.2.2.1, c.2.2.2.2.2.1)) ∘ Room.core := rfl

theorem layout_of_roomCores {g h : Hall} (e : ∀ i, (g.room i).map Room.core = (h.room i).map Room.core) :
    g.layout = h.layout := by
  funext i
  simp only [Hall.layout, Room.layout_eq, ← Option.map_map, e]

theorem layout_of_core {g h : Hall} (e : g.core = h.core) : g.layout = h.layout := layout_of_roomCores (core_room e)

theorem layout_of_bare {g h : Hall} (e : g.bare = h.bare) : g.layout = h.layout :=
  layout_of_roomCores fun i => congrFun (congrArg (·.1) e) i

theorem layout_of_rooms {g h : Hall} (e : g.rooms = h.rooms) : g.layout = h.layout :=
  layout_of_roomCores fun i => by simp only [Hall.room, e]

variable (h : Hall)

/-- Writing a room that has the layout of the one in its place keeps the layout. -/
theorem setRoom_layout {i : SegId} {r r' : Room} (hr : h.room i = some r) (e : r'.layout = r.layout) :
    (h.setRoom i (some r')).layout = h.layout := by
  funext j
  simp only [Hall.layout]
  by_cases hij : i = j
  · subst hij; simp [hr, e]
  · rw [Hall.setRoom_room_ne _ _ hij]

/-- Changing every room without its layout keeps the layout. -/
theorem mapRooms_layout (f : SegId → Room → Room) (hf : ∀ i r, (f i r).layout = r.layout) :
    ({ h with rooms := tab fun i => (h.rooms[i]).map (f i) } : Hall).layout = h.layout := by
  funext j
  simp only [Hall.layout, Hall.room, Fin.getElem_fin, tab_getElem, Fin.eta, Option.map_map]
  congr 1
  funext r
  exact hf j r

@[simp] theorem raise_layout (f : Flag) (x : SegSet) : (raise f x h).layout = h.layout := rfl

@[simp] theorem raiseRoom_layout (f : Flag) (i : SegId) : (raiseRoom f i h).layout = h.layout := rfl

@[simp] theorem idleSweep_layout : (idleSweep h).layout = h.layout := layout_of_core (idleSweep_core h)

@[simp] theorem wake_layout (i : SegId) : (wake h i).layout = h.layout := layout_of_core (wake_core h i)

@[simp] theorem reevaluate_layout (i : SegId) : (reevaluate h i).layout = h.layout :=
  layout_of_core (reevaluate_core h i)

@[simp] theorem setBooth_layout (b : BoothId) (x : Booth) : (h.setBooth b x).layout = h.layout := rfl

@[simp] theorem setPorts_layout (v : Vector Port 4) : ({ h with ports := v } : Hall).layout = h.layout := rfl

@[simp] theorem setAddr_layout (u : UnitId) (r : AddrRec) : (h.setAddr u r).layout = h.layout := rfl

@[simp] theorem setUnit_layout (u : UnitId) (r : UnitRec) : (h.setUnit u r).layout = h.layout := rfl

@[simp] theorem setEntry_layout (r : SlotRef) (e : Option Entry) : (h.setEntry r e).layout = h.layout := rfl

@[simp] theorem alignSeat_layout (u : UnitId) : (alignSeat h u).layout = h.layout := layout_of_core (alignSeat_core h u)

@[simp] theorem raiseSeat_layout (sg : Option SegId) : (raiseSeat sg h).layout = h.layout :=
  layout_of_core (raiseSeat_core h sg)

/-- A fold of operations that each keep the layout keeps it. -/
theorem fold_layout {γ : Type} {f : Hall → γ → Hall} (hf : ∀ g c, (f g c).layout = g.layout) (l : List γ) :
    (l.foldl f h).layout = h.layout :=
  foldl_keeps (P := fun g => g.layout = h.layout) (fun g c hg => (hf g c).trans hg) l h rfl

/-! ### Trunks -/

@[simp] theorem makeAbsent_layout (us : List UnitId) : (makeAbsent h us).layout = h.layout :=
  layout_of_bare (makeAbsent_bare h us)

@[simp] theorem raiseUnits_layout (us : List UnitId) : (raiseUnits h us).layout = h.layout :=
  fold_layout h (fun g u => by split <;> rfl) us

@[simp] theorem loseUnits_layout (us : List UnitId) : (loseUnits h us).layout = h.layout := by simp [loseUnits]

@[simp] theorem loseTrunk_layout (t : TrunkId) : (loseTrunk h t).layout = h.layout := by simp [loseTrunk]

@[simp] theorem lowerConfirms_layout (t : TrunkId) (l : List AddrIx) : (lowerConfirms h t l).layout = h.layout := by
  simp only [lowerConfirms, loseUnits_layout]
  exact fold_layout h (fun g u => setAddr_layout g u _) _

@[simp] theorem missUnit_layout (u : UnitId) : (missUnit h u).layout = h.layout := by
  simp only [missUnit]
  split
  · split <;> simp
  · rfl

@[simp] theorem strayStep_layout (u : UnitId) (r : Report) : (strayStep h u r).layout = h.layout := by
  simp only [strayStep]
  split <;> rfl

@[simp] theorem confirmed_layout (u : UnitId) (r : Report) : (confirmed h u r).layout = h.layout := by
  unfold confirmed
  split
  · split <;> rfl
  · rfl

@[simp] theorem foundUnit_layout (u : UnitId) (r : Report) : (foundUnit h u r).layout = h.layout := by
  simp [foundUnit]

@[simp] theorem deliver_layout (u : UnitId) (o : Option Order) : (deliver h u o).1.layout = h.layout := by
  simp only [deliver]
  repeat' split
  all_goals rfl

@[simp] theorem goodPoll_layout (u : UnitId) (o : Option Order) : (goodPoll h u o).1.layout = h.layout := by
  simp [goodPoll]

@[simp] theorem readReply_layout (u : UnitId) (x : HandOver) : (readReply h u x).layout = h.layout :=
  layout_of_bare (readReply_bare h u x)

/-! ### Floor, booths, radiators and gains -/

@[simp] theorem storeUnit_layout (u : UnitId) (r : UnitRec) : (storeUnit h u r).layout = h.layout := by
  simp only [storeUnit]
  split <;> simp

@[simp] theorem setElevated_layout (i : SegId) (m : Option UnitId) : (setElevated h i m).layout = h.layout := by
  unfold setElevated
  split
  · next r hr =>
    split
    · rfl
    · exact setRoom_layout h hr rfl
  · rfl

@[simp] theorem appendLang_layout (i : SegId) (code : Nat) : (appendLang h i code).layout = h.layout := by
  unfold appendLang
  split
  · rfl
  · next r hr =>
    split
    · rfl
    · exact (wake_layout _ i).trans (setRoom_layout h hr rfl)

@[simp] theorem settleOutput_layout (i : SegId) (code : Nat) : (settleOutput h i code).layout = h.layout := by
  simp [settleOutput]

@[simp] theorem goLive_layout (i : SegId) (b : BoothId) : (goLive h i b).layout = h.layout := by
  simp only [goLive]
  split <;> simp

@[simp] theorem leaveLive_layout (i : SegId) (b : BoothId) : (leaveLive h i b).layout = h.layout := by
  simp only [leaveLive, raiseRoom_layout, reevaluate_layout]
  rfl

@[simp] theorem storeMic_layout (b : BoothId) (on : Bool) : (storeMic h b on).layout = h.layout := by
  simp only [storeMic]
  split
  · rfl
  · split
    · exact wake_layout _ _
    · rfl

@[simp] theorem storeRadiators_layout (l : List (SegId × Bool)) : (storeRadiators h l).layout = h.layout :=
  (fold_layout _ (fun g _ => raise_layout g _ _) _).trans rfl

@[simp] theorem setConsoles_layout (x : SegSet) : (setConsoles h x).layout = h.layout := by
  refine (fold_layout _ (fun g i => raiseRoom_layout g _ _) _).trans ?_
  exact mapRooms_layout h (fun _ r => if inSet x r.lead then { r with console := consoleOf h r.lead } else r)
    fun _ r => by split <;> rfl

theorem clipRoom_layout (i : SegId) : (clipRoom h i).layout = h.layout := by
  unfold clipRoom Hall.mapRoom
  split
  · next r hr => exact setRoom_layout h hr rfl
  · rfl

theorem writeGains_rooms (l : List (UnitId × Nat)) : (writeGains h l).rooms = h.rooms := by
  refine foldl_keeps (P := fun g : Hall => g.rooms = h.rooms) ?_ l h rfl
  exact fun _ _ hg => hg

theorem applyRoomGains_layout (i : SegId) : (applyRoomGains h i).layout = h.layout := by
  unfold applyRoomGains
  split
  · next r hr =>
    split
    · have hw := writeGains_rooms h r.staging.pairs
      have hi : (writeGains h r.staging.pairs).room i = some r := by simpa only [Hall.room, hw] using hr
      refine (setRoom_layout _ hi ?_).trans (layout_of_rooms hw)
      rfl
    · rfl
  · rfl

end Sys2Proof.Machine
end

section
/-! The commands and events that keep the wall scanner, the regroup times and the layout of the rooms: all but those on
walls and settings, SET-ROOM, SET-WINDOW, a full reset and a block start. -/

namespace Sys2Proof.Machine

/-- From `s` to `t` the wall scanner's records, the regroup times and the layout of the rooms are kept. -/
structure Kept (s t : State) : Prop where
  scanner : t.scanner = s.scanner
  times   : t.regroup.consentSecs = s.regroup.consentSecs ∧ t.regroup.holdSecs = s.regroup.holdSecs
  layout  : t.hall.layout = s.hall.layout

namespace Kept

theorem refl (s : State) : Kept s s := ⟨rfl, ⟨rfl, rfl⟩, rfl⟩

theorem trans {s t u : State} (a : Kept s t) (b : Kept t u) : Kept s u :=
  ⟨b.scanner.trans a.scanner, ⟨b.times.1.trans a.times.1, b.times.2.trans a.times.2⟩, b.layout.trans a.layout⟩

theorem of_quiet {s t : State} (q : Quiet s t) : Kept s t := ⟨q.scanner, q.times, layout_of_core q.core⟩

theorem withHall {s : State} {h : Hall} (e : h.layout = s.hall.layout) : Kept s (s.withHall h) := ⟨rfl, ⟨rfl, rfl⟩, e⟩

theorem floorHall {s : State} {h : Hall} (e : h.layout = s.hall.layout) : Kept s (s.floorHall h) :=
  ⟨rfl, ⟨rfl, rfl⟩, (idleSweep_layout h).trans e⟩

theorem sweep (s : State) : Kept s s.sweep := of_quiet (sweep_quiet s)

theorem raised (s : State) (f : Flag) (x : SegSet) : Kept s (s.raised f x) := of_quiet (raised_quiet s f x)

theorem setTrunk (s : State) (t : TrunkId) (x : Trunk) : Kept s (s.setTrunk t x) := ⟨rfl, ⟨rfl, rfl⟩, rfl⟩

theorem setPort (s : State) (p : PortId) (x : Port) : Kept s (s.setPort p x) := ⟨rfl, ⟨rfl, rfl⟩, rfl⟩

theorem setAnswer (s : State) (p : PortId) (tag : Byte) (st : Status) (l : List Byte) :
    Kept s (setAnswer s p tag st l) := setPort s p _

/-- A fold of operations that each keep it keeps it. -/
theorem fold {γ : Type} {f : State → γ → State} (hf : ∀ g c, Kept g (f g c)) (l : List γ) (s : State) :
    Kept s (l.foldl f s) :=
  foldl_keeps (P := Kept s) (fun g c hg => hg.trans (hf g c)) l s (refl s)

end Kept

section
variable {α : Type} {s : State} {p : PortId} {tag : Byte}

/-- A property that `Kept` carries over, and that the owning rule keeps, is kept by a command. -/
theorem takeCommand_yields {P : State → Prop} (hP : ∀ {t u}, Kept t u → P t → P u) {roles : List Role}
    {args : Option α} {body : α → Reply} (hs : P s) (hb : ∀ a, args = some a → (body a).Leaves P) :
    Yields P (answerNext (takeCommand s p tag roles args body)) :=
  (yields_answerNext _).2 (takeCommand_keeps (fun _ _ _ _ _ h => hP (Kept.setAnswer _ _ _ _ _) h)
    (fun a c l s' ha e => hb a ha c l s' e) hs)

theorem takeCommand_kept {roles : List Role} {args : Option α} {body : α → Reply}
    (hb : ∀ a, (body a).Leaves (Kept s)) : Yields (Kept s) (answerNext (takeCommand s p tag roles args body)) :=
  takeCommand_yields (fun k h => h.trans k) (Kept.refl s) fun a _ => hb a

/-- A property that `Kept` carries over, and that the owning rule keeps, is kept by a room-selecting command. -/
theorem takeRoomCommand_yields {P : State → Prop} (hP : ∀ {t u}, Kept t u → P t → P u)
    {args : Option (Option (BitVec 16) × Selector × α)} {body : SegId → α → Reply} (hs : P s)
    (hb : ∀ i a, (body i a).Leaves P) : Yields P (answerNext (takeRoomCommand s p tag args body)) :=
  (yields_answerNext _).2 (takeRoomCommand_keeps (fun _ _ _ _ _ h => hP (Kept.setAnswer _ _ _ _ _) h)
    (fun i a c l s' e => hb i a c l s' e) hs)

theorem takeRoomCommand_kept {args : Option (Option (BitVec 16) × Selector × α)} {body : SegId → α → Reply}
    (hb : ∀ i a, (body i a).Leaves (Kept s)) : Yields (Kept s) (answerNext (takeRoomCommand s p tag args body)) :=
  takeRoomCommand_yields (fun k h => h.trans k) (Kept.refl s) hb

end

variable (s : State)

/-! ## Regrouping and scopes -/

/-- DRAIN entered with the consent set, the deadline and the silent list of `rg`. -/
theorem drainFrom_kept (rg : Regroup)
    (e : rg.consentSecs = s.regroup.consentSecs ∧ rg.holdSecs = s.regroup.holdSecs) :
    Kept s (enterDrain { s with regroup := rg }).sweep :=
  .trans (t := { s with regroup := rg }) ⟨rfl, e, rfl⟩ (.trans (.of_quiet (enterDrain_quiet _)) (.sweep _))

theorem deadlineExpiry_kept : Yields (Kept s) (execDeadlineExpiry s) := by
  unfold execDeadlineExpiry
  split
  · rw [yields_next]
    exact drainFrom_kept s _ ⟨rfl, rfl⟩
  · exact (yields_next _).2 (.refl s)

theorem forceRegroup_leaves (a : Unit) : (forceRegroupBody s a).Leaves (Kept s) := by
  unfold forceRegroupBody
  split
  · rw [Reply.leaves_done]
    exact drainFrom_kept s _ ⟨rfl, rfl⟩
  · simp

theorem agree_kept (p : PortId) : Kept s (agree s p) := by
  simp only [agree]
  split
  · exact drainFrom_kept s _ ⟨rfl, rfl⟩
  · exact ⟨rfl, ⟨rfl, rfl⟩, rfl⟩

theorem regroupAnswer_leaves (p : PortId) (a : Byte × Option (BitVec 16)) :
    (regroupAnswerBody s p a).Leaves (Kept s) := by
  unfold regroupAnswerBody
  repeat' split
  all_goals simp only [Reply.leaves_refuse, Reply.leaves_done]
  · exact agree_kept s p
  · exact ⟨rfl, ⟨rfl, rfl⟩, rfl⟩

theorem claim_leaves (p : PortId) (x : Byte) : (claimBody s p x).Leaves (Kept s) := by
  simp only [claimBody]
  split
  · simp
  · exact (Reply.leaves_done _ _ _).2 (.withHall (setConsoles_layout _ _))

theorem release_leaves (p : PortId) (x : Byte) : (releaseBody s p x).Leaves (Kept s) :=
  (Reply.leaves_done _ _ _).2 (.withHall (setConsoles_layout _ _))

theorem assignScope_leaves (a : Byte × Byte) : (assignScopeBody s a).Leaves (Kept s) := by
  unfold assignScopeBody
  repeat' split
  · simp
  · simp
  · exact (Reply.leaves_done _ _ _).2 (.withHall (setConsoles_layout _ _))

/-! ## Trunks -/

theorem applyPower_kept (t : TrunkId) : Kept s (applyPower s t) := .trans (.setTrunk s t _) (.raised _ _ _)

theorem removePower_kept (t : TrunkId) (st : TrunkState) : Kept s (removePower s t st) :=
  .trans (.setTrunk s t _) (.withHall (loseTrunk_layout _ _))

theorem senseLineChange_kept (t : TrunkId) (chain : Bool) : Yields (Kept s) (execSenseLineChange t chain s) := by
  simp only [execSenseLineChange]
  repeat' split
  all_goals rw [yields_next]
  · exact .refl s
  · exact .trans (.setTrunk s t _) (applyPower_kept _ t)
  · exact .trans (.setTrunk s t _) (.trans (removePower_kept _ t _) (.sweep _))
  · exact .setTrunk s t _
  · exact .setTrunk s t _

theorem overcurrent_kept (t : TrunkId) : Yields (Kept s) (execOvercurrent t s) := by
  unfold execOvercurrent
  split
  · exact (yields_next _).2 (.trans (removePower_kept s t _) (.sweep _))
  · exact (yields_next _).2 (.refl s)

theorem powerAct_kept (t : TrunkId) : Kept s (powerAct s t) := by
  have off : ∀ c : Bool, Kept s (if c then s else (removePower s t .unpowered).sweep) := fun c => by
    split
    · exact .refl s
    · exact .trans (removePower_kept s t _) (.sweep _)
  simp only [powerAct]
  split
  · split
    · exact applyPower_kept s t
    · exact .refl s
  · repeat' split
    · exact .refl s
    · exact applyPower_kept s t
    · exact .trans (.setTrunk s t _) (.raised _ _ _)
  all_goals exact off _

theorem trunkPower_leaves (a : Byte × Byte) : (trunkPowerBody s a).Leaves (Kept s) := by
  unfold trunkPowerBody
  split
  · rw [Reply.leaves_done]
    refine .trans ?_ (powerAct_kept _ _)
    split
    · exact .setTrunk s _ _
    · exact .trans (.setTrunk s _ _) (.raised _ _ _)
  · simp

theorem setRollcall_leaves (a : Byte × Byte) : (setRollcallBody s a).Leaves (Kept s) := by
  unfold setRollcallBody
  split
  · simp
  · exact (Reply.leaves_done _ _ _).2 (.setTrunk s _ _)

theorem endRound_kept (t : TrunkId) (rd : Round) : Kept s (endRound s t rd) := by
  simp only [endRound]
  refine .trans (.trans (.setTrunk s t _) (.withHall ?_)) (.sweep _)
  repeat' split
  all_goals simp

theorem roundEnd_kept (t : TrunkId) : Yields (Kept s) (execRoundEnd t s) := by
  unfold execRoundEnd
  split
  · exact (yields_next _).2 (endRound_kept s t _)
  · exact (yields_next _).2 (.refl s)

theorem confirmationCountExpiry_kept (u : UnitId) : Yields (Kept s) (execConfirmationCountExpiry u s) := by
  unfold execConfirmationCountExpiry
  split
  · exact (yields_next _).2 (.floorHall (loseUnits_layout _ _))
  · exact (yields_next _).2 (.refl s)

theorem pollRoundStart_kept (t : TrunkId) : Yields (Kept s) (execPollRoundStart t s) := by
  simp only [execPollRoundStart]
  split
  · split
    · exact (yields_next _).2 (.trans (.setTrunk s t _) (endRound_kept _ t _))
    · exact (yields_next _).2 (.setTrunk s t _)
  · exact (yields_next _).2 (.refl s)

theorem pollSend_kept (t : TrunkId) : Yields (Kept s) (execPollSend t s) := by
  simp only [execPollSend]
  repeat' split
  all_goals rw [yields_next]
  · exact .refl s
  · exact .refl s
  all_goals exact .setTrunk s t _

theorem badReply_kept (t : TrunkId) (x : Sent) (f : Failure) : Kept s (badReply s t x f) := by
  simp only [badReply]
  repeat' split
  · exact .refl s
  · exact .setTrunk s t _
  · exact .trans (.setTrunk s t _) (.floorHall (missUnit_layout _ _))

theorem takeReport_kept (t : TrunkId) (u : UnitId) (r : Report) : Kept s (takeReport s t u r) := by
  simp only [takeReport]
  split
  · exact .floorHall ((loseUnits_layout _ _).trans (strayStep_layout _ _ _))
  · exact .trans (.setTrunk s t _) (.floorHall ((confirmed_layout _ _ _).trans (strayStep_layout _ _ _)))

/-- The trunk record of a good reply, with its TRUNK event. -/
theorem heard_kept (t : TrunkId) (x : Trunk) (c : Prop) [Decidable c] :
    Kept s (if c then (s.setTrunk t x).raised .trunk allSegs else s.setTrunk t x) := by
  split
  · exact .trans (.setTrunk s t _) (.raised _ _ _)
  · exact .setTrunk s t _

theorem goodReply_kept (t : TrunkId) (x : Sent) (r : Report) : Kept s (goodReply s t x r) := by
  simp only [goodReply]
  generalize hs2 : (if (s.trunks[t]).state = .down then _ else _) = s2
  have k2 : Kept s s2 := hs2 ▸ heard_kept s t _ _
  repeat' split
  · exact k2.trans (.trans (.withHall (foundUnit_layout _ _ _)) (takeReport_kept _ t _ r))
  · exact k2.trans (.trans (.trans (.withHall (goodPoll_layout _ _ _)) (.setTrunk _ t _)) (takeReport_kept _ t _ r))
  · exact k2.trans (.trans (.withHall (goodPoll_layout _ _ _)) (takeReport_kept _ t _ r))
  · exact k2

theorem pollReply_kept (t : TrunkId) (rx : List Byte) : Yields (Kept s) (execPollReply t rx s) := by
  simp only [execPollReply]
  repeat' split
  all_goals rw [yields_next]
  · exact .refl s
  · exact .refl s
  · exact .trans (.setTrunk s t _) (badReply_kept _ t _ _)
  · exact .trans (.setTrunk s t _) (goodReply_kept _ t _ _)

theorem handOverTaken_kept (t : TrunkId) : Yields (Kept s) (execHandOverTaken t s) := by
  simp only [execHandOverTaken]
  split
  · exact (yields_next _).2 (.refl s)
  · exact (yields_next _).2 (.trans (.setTrunk s t _) (.floorHall (readReply_layout _ _ _)))

/-! ## The floor -/

theorem setUnit_leaves (a : (Byte × Byte) × List (Nat × FieldValue)) : (setUnitBody s a).Leaves (Kept s) := by
  simp only [setUnitBody]
  repeat' split
  all_goals simp only [Reply.leaves_refuse, Reply.leaves_done]
  exact .withHall (storeUnit_layout _ _ _)

theorem grant_leaves (i : SegId) (a : Byte × Byte × Byte) : (grantBody s i a).Leaves (Kept s) := by
  simp only [grantBody]
  repeat' split
  all_goals simp only [Reply.leaves_refuse, Reply.leaves_done]
  all_goals exact .floorHall (layout_of_core (by simp [bumpGrant]))

theorem grantNext_leaves (i : SegId) (a : Unit) : (grantNextBody s i a).Leaves (Kept s) := by
  simp only [grantNextBody]
  repeat' split
  all_goals simp only [Reply.leaves_refuse, Reply.leaves_done]
  refine .floorHall (layout_of_core ?_)
  cases e : selectOnce s.hall i with
  | none => rfl
  | some g => exact selectOnce_core e

theorem drop_leaves (i : SegId) (a : Byte × Byte) : (dropBody s i a).Leaves (Kept s) := by
  unfold dropBody
  repeat' split
  all_goals simp only [Reply.leaves_refuse, Reply.leaves_done]
  · exact .floorHall (layout_of_core (by simp))
  · exact .floorHall (layout_of_core (by simp))
  · exact .floorHall (layout_of_core (by simp))
  · exact .refl s

@[simp] theorem denyWaiting_core (h : Hall) (u : UnitId) : (denyWaiting h u).core = h.core := by simp [denyWaiting]

theorem cancelRequest_leaves (i : SegId) (a : Byte × Byte) : (cancelRequestBody s i a).Leaves (Kept s) := by
  unfold cancelRequestBody
  repeat' split
  all_goals simp only [Reply.leaves_refuse, Reply.leaves_done]
  exact .floorHall (layout_of_core (by simp))

theorem elevate_leaves (i : SegId) (a : Option (Byte × Byte)) : (elevateBody s i a).Leaves (Kept s) := by
  unfold elevateBody
  repeat' split
  all_goals simp only [Reply.leaves_refuse, Reply.leaves_done]
  all_goals exact .withHall (setElevated_layout _ _ _)

theorem allOff_leaves (i : SegId) (a : Unit) : (allOffBody s i a).Leaves (Kept s) :=
  (Reply.leaves_done _ _ _).2 (.floorHall (layout_of_core (allOff_core _ _)))

theorem stageGain_leaves (i : SegId) (a : Byte × Byte × Nat) : (stageGainBody s i a).Leaves (Kept s) := by
  simp only [stageGainBody]
  split
  · simp
  · simp
  · next u r hu hr =>
    repeat' split
    all_goals simp only [Reply.leaves_refuse, Reply.leaves_done]
    exact .withHall (setRoom_layout _ hr rfl)

theorem applyGains_leaves (i : SegId) (a : Unit) : (applyGainsBody s i a).Leaves (Kept s) := by
  unfold applyGainsBody
  split
  · simp
  · next r hr =>
    split
    · simp
    · exact (Reply.leaves_done _ _ _).2 (.withHall (setRoom_layout _ hr rfl))

theorem speakLimitWarning_kept (u : UnitId) : Yields (Kept s) (execSpeakLimitWarning u s) := by
  unfold execSpeakLimitWarning
  split
  · exact (yields_next _).2 (.withHall (layout_of_core (by simp)))
  · exact (yields_next _).2 (.refl s)

theorem speakLimitExpiry_kept (u : UnitId) : Yields (Kept s) (execSpeakLimitExpiry u s) := by
  unfold execSpeakLimitExpiry
  split
  · exact (yields_next _).2 (.floorHall (layout_of_core (by simp)))
  · exact (yields_next _).2 (.refl s)

theorem idleTimerExpiry_kept (i : SegId) : Yields (Kept s) (execIdleTimerExpiry i s) := by
  unfold execIdleTimerExpiry
  split
  · next r hr =>
    split
    · exact (yields_next _).2 (.withHall (setRoom_layout _ hr rfl))
    · exact (yields_next _).2 (.refl s)
  · exact (yields_next _).2 (.refl s)

/-! ## Booths and radiators -/

theorem defineBooth_leaves (a : Byte × BoothDefinition) : (defineBoothBody s a).Leaves (Kept s) := by
  simp only [defineBoothBody]
  repeat' split
  all_goals simp only [Reply.leaves_refuse, Reply.leaves_done]
  all_goals exact .withHall rfl

theorem boothState_leaves (a : Byte × Byte) : (boothStateBody s a).Leaves (Kept s) := by
  simp only [boothStateBody]
  repeat' split
  all_goals simp only [Reply.leaves_refuse, Reply.leaves_done]
  · exact .refl s
  · exact .floorHall (goLive_layout _ _ _)
  · exact .floorHall (leaveLive_layout _ _ _)
  · exact .refl s

theorem boothOutput_leaves (a : Byte × Byte) : (boothOutputBody s a).Leaves (Kept s) := by
  simp only [boothOutputBody]
  repeat' split
  all_goals simp only [Reply.leaves_refuse, Reply.leaves_done]
  · exact .refl s
  · exact .floorHall ((settleOutput_layout _ _ _).trans rfl)
  · exact .withHall rfl

theorem boothMic_leaves (a : Byte × Byte) : (boothMicBody s a).Leaves (Kept s) := by
  unfold boothMicBody
  split
  · exact (Reply.leaves_done _ _ _).2 (.floorHall (storeMic_layout _ _ _))
  · simp

theorem boothGain_leaves (a : Byte × Nat) : (boothGainBody s a).Leaves (Kept s) := by
  unfold boothGainBody
  split
  · simp
  · exact (Reply.leaves_done _ _ _).2 (.withHall rfl)

theorem repin_layout (h : Hall) (i : SegId) (b : BoothId) (x : Booth) : (repin h i b x).layout = h.layout :=
  reevaluate_layout _ _

theorem pinSource_leaves (a : Byte × Byte) : (pinSourceBody s a).Leaves (Kept s) := by
  simp only [pinSourceBody]
  repeat' split
  all_goals simp only [Reply.leaves_refuse, Reply.leaves_done]
  all_goals first | exact .refl s | exact .withHall (repin_layout _ _ _ _)

theorem unpinSource_leaves (a : Byte) : (unpinSourceBody s a).Leaves (Kept s) := by
  simp only [unpinSourceBody]
  repeat' split
  all_goals simp only [Reply.leaves_refuse, Reply.leaves_done]
  · exact .refl s
  · exact .withHall rfl
  · exact .withHall (repin_layout _ _ _ _)

theorem setRadiators_leaves (a : List (Byte × Byte)) : (setRadiatorsBody s a).Leaves (Kept s) := by
  unfold setRadiatorsBody
  split
  · simp
  · exact (Reply.leaves_done _ _ _).2 (.withHall (storeRadiators_layout _ _))

/-! ## The mix engine -/

theorem endRamp_kept (r : SlotRef) (e : Entry) (rp : Ramp) : Kept s (endRamp s r e rp) := by
  simp only [endRamp]
  repeat' split
  · exact .withHall rfl
  · exact .withHall rfl
  · exact .floorHall (layout_of_core (by simp))
  · refine .trans (t := { s with mix := s.mix.entryLeft r e.unit }) ⟨rfl, ⟨rfl, rfl⟩, rfl⟩ ?_
    exact .trans (.floorHall (layout_of_core (closingDone_core _ _ _))) (.of_quiet (drainTest_quiet _))
  · exact .withHall rfl

theorem rampEnd_kept (t : TrunkId) (k : SlotIx) : Yields (Kept s) (execRampEnd t k s) := by
  simp only [execRampEnd]
  repeat' split
  all_goals rw [yields_next]
  · exact endRamp_kept s _ _ _
  · exact .refl s
  · exact .refl s

theorem endBlock_kept : Kept s (endBlock s) := ⟨rfl, ⟨rfl, rfl⟩, fold_layout _ clipRoom_layout _⟩

theorem mixBlockEnd_kept : Yields (Kept s) (execMixBlockEnd s) := by
  unfold execMixBlockEnd
  split
  · exact (yields_next _).2 (endBlock_kept s)
  · exact (yields_next _).2 (.refl s)

/-! ## Reads and the ports' own commands -/

theorem readWalls_leaves (a : Option Byte) : (readWallsBody s a).Leaves (Kept s) := by
  unfold readWallsBody
  repeat' split
  all_goals simp only [Reply.leaves_refuse, Reply.leaves_done, Kept.refl]

theorem readRoom_leaves (a : Byte × Byte) : (readRoomBody s a).Leaves (Kept s) := by
  unfold readRoomBody
  repeat' split
  all_goals simp only [Reply.leaves_refuse, Reply.leaves_done, Kept.refl]

theorem readQueue_leaves (a : Byte) : (readQueueBody s a).Leaves (Kept s) := by
  unfold readQueueBody
  repeat' split
  all_goals simp only [Reply.leaves_refuse, Reply.leaves_done, Kept.refl]

theorem readUnit_leaves (a : Byte × Byte) : (readUnitBody s a).Leaves (Kept s) := by
  unfold readUnitBody
  split
  all_goals simp only [Reply.leaves_refuse, Reply.leaves_done, Kept.refl]

theorem readBooth_leaves (a : Option Byte) : (readBoothBody s a).Leaves (Kept s) := by
  unfold readBoothBody
  repeat' split
  all_goals simp only [Reply.leaves_refuse, Reply.leaves_done, Kept.refl]

theorem readTrunk_leaves (a : Byte × Byte) : (readTrunkBody s a).Leaves (Kept s) := by
  unfold readTrunkBody
  split
  · simp
  · rw [Reply.leaves_done]
    split
    · exact .setTrunk s _ _
    · exact .refl s

theorem readFlags_leaves (p : PortId) (a : Unit) : (readFlagsBody s p a).Leaves (Kept s) := by
  simp only [readFlagsBody, Reply.leaves_done]
  split
  · exact .setPort s _ _
  · exact .refl s

theorem ackFlags_leaves (p : PortId) (a : Byte) : (ackFlagsBody s p a).Leaves (Kept s) := by
  unfold ackFlagsBody
  split
  · simp
  · exact (Reply.leaves_done _ _ _).2 (.setPort s _ _)

theorem setAttention_leaves (p : PortId) (a : Byte × Byte × Byte) : (setAttentionBody s p a).Leaves (Kept s) := by
  unfold setAttentionBody
  repeat' split
  all_goals simp only [Reply.leaves_refuse, Reply.leaves_done]
  exact .setPort s _ _

/-! ## Every command but those that write what is kept -/

/-- The commands and events that may write the wall scanner's records, the regroup times or the layout of the rooms. -/
def mayRewrite : Instr → Bool
  | .fullReset _ => true
  | .contactEvent _ _ _ => true
  | .settleTimerExpiry _ => true
  | .stuckTimerExpiry _ => true
  | .mixBlockStart => true
  | .defineWall _ _ _ => true
  | .wallOverride _ _ _ => true
  | .lockWalls _ _ _ => true
  | .setSegmentDefaults _ _ _ => true
  | .setLeadRank _ _ _ => true
  | .setRegroupTimes _ _ _ => true
  | .setRoom _ _ _ => true
  | .setWindow _ _ _ => true
  | .wordClockPeriod _ => true
  | _ => false

/-- Every other command and event keeps them. -/
theorem exec_kept (c : Instr) (hc : mayRewrite c = false) : Yields (Kept s) (exec c s) := by
  cases c with
  | fullReset _ | contactEvent _ _ _ | settleTimerExpiry _ | stuckTimerExpiry _ | mixBlockStart | defineWall _ _ _
  | wallOverride _ _ _ | lockWalls _ _ _ | setSegmentDefaults _ _ _ | setLeadRank _ _ _ | setRegroupTimes _ _ _
  | setRoom _ _ _ | setWindow _ _ _ | wordClockPeriod _ => cases hc
  | deadlineExpiry => exact deadlineExpiry_kept s
  | rampEnd t k => exact rampEnd_kept s t k
  | mixBlockEnd => exact mixBlockEnd_kept s
  | senseLineChange t b => exact senseLineChange_kept s t b
  | overcurrent t => exact overcurrent_kept s t
  | pollRoundStart t => exact pollRoundStart_kept s t
  | pollReply t rx => exact pollReply_kept s t rx
  | roundEnd t => exact roundEnd_kept s t
  | confirmationCountExpiry u => exact confirmationCountExpiry_kept s u
  | handOverTaken t => exact handOverTaken_kept s t
  | speakLimitWarning u => exact speakLimitWarning_kept s u
  | speakLimitExpiry u => exact speakLimitExpiry_kept s u
  | idleTimerExpiry i => exact idleTimerExpiry_kept s i
  | attentionPulseEnd p => exact (yields_next _).2 (.withHall rfl)
  | failedFrame p tag => exact (yields_next _).2 (.setAnswer s _ _ _ _)
  | unknownCommand p code tag l => exact (yields_next _).2 (.setAnswer s _ _ _ _)
  | forceRegroup p tag l => exact takeCommand_kept (forceRegroup_leaves s)
  | assignScope p tag l => exact takeCommand_kept (assignScope_leaves s)
  | setUnit p tag l => exact takeCommand_kept (setUnit_leaves s)
  | trunkPower p tag l => exact takeCommand_kept (trunkPower_leaves s)
  | setRollcall p tag l => exact takeCommand_kept (setRollcall_leaves s)
  | setRadiators p tag l => exact takeCommand_kept (setRadiators_leaves s)
  | reinit p tag l => exact takeCommand_kept fun _ => (Reply.leaves_done _ _ _).2 (.setPort s _ _)
  | claimSegments p tag l => exact takeCommand_kept (claim_leaves s p)
  | releaseSegments p tag l => exact takeCommand_kept (release_leaves s p)
  | grant p tag l => exact takeRoomCommand_kept (grant_leaves s)
  | grantNext p tag l => exact takeRoomCommand_kept (grantNext_leaves s)
  | drop p tag l => exact takeRoomCommand_kept (drop_leaves s)
  | cancelRequest p tag l => exact takeRoomCommand_kept (cancelRequest_leaves s)
  | elevate p tag l => exact takeRoomCommand_kept (elevate_leaves s)
  | allOff p tag l => exact takeRoomCommand_kept (allOff_leaves s)
  | stageGain p tag l => exact takeRoomCommand_kept (stageGain_leaves s)
  | applyGains p tag l => exact takeRoomCommand_kept (applyGains_leaves s)
  | regroupAnswer p tag l => exact takeCommand_kept (regroupAnswer_leaves s p)
  | defineBooth p tag l => exact takeCommand_kept (defineBooth_leaves s)
  | boothState p tag l => exact takeCommand_kept (boothState_leaves s)
  | boothOutput p tag l => exact takeCommand_kept (boothOutput_leaves s)
  | boothMic p tag l => exact takeCommand_kept (boothMic_leaves s)
  | boothGain p tag l => exact takeCommand_kept (boothGain_leaves s)
  | pinSource p tag l => exact takeCommand_kept (pinSource_leaves s)
  | unpinSource p tag l => exact takeCommand_kept (unpinSource_leaves s)
  | readWalls p tag l => exact takeCommand_kept (readWalls_leaves s)
  | readRegroup p tag l => exact takeCommand_kept fun _ => (Reply.leaves_done _ _ _).2 (.refl s)
  | readRoom p tag l => exact takeCommand_kept (readRoom_leaves s)
  | readQueue p tag l => exact takeCommand_kept (readQueue_leaves s)
  | readUnit p tag l => exact takeCommand_kept (readUnit_leaves s)
  | readBooth p tag l => exact takeCommand_kept (readBooth_leaves s)
  | readTrunk p tag l => exact takeCommand_kept (readTrunk_leaves s)
  | readFlags p tag l => exact takeCommand_kept (readFlags_leaves s p)
  | ackFlags p tag l => exact takeCommand_kept (ackFlags_leaves s p)
  | setAttention p tag l => exact takeCommand_kept (setAttention_leaves s p)
  | linkReset p tag l => exact takeCommand_kept fun _ => (Reply.leaves_done _ _ _).2 (.setPort s _ _)
  | pollSend t => exact pollSend_kept s t

end Sys2Proof.Machine
end

section
/-! Named fields: what writing them one after another leaves, in the words of the statements (R15, R16, R92). -/

namespace Sys2Proof.Machine

/-! ## The last value named -/

/-- The value that a field and its content name for field `k`. -/
def wordFor (k : Nat) (f : Nat × FieldValue) : Option Nat :=
  match f.2 with
  | .word n => if f.1 = k then some n else none
  | .list _ => none

@[simp] theorem wordFor_word (k j n : Nat) : wordFor k (j, .word n) = if j = k then some n else none := rfl

@[simp] theorem wordFor_list (k j : Nat) (l : List Nat) : wordFor k (j, .list l) = none := rfl

theorem lastWord_eq (fs : List (Nat × FieldValue)) (k : Nat) : lastWord fs k = fs.reverse.findSome? (wordFor k) := rfl

@[simp] theorem lastWord_nil (k : Nat) : lastWord [] k = none := rfl

theorem lastWord_concat (fs : List (Nat × FieldValue)) (f : Nat × FieldValue) (k : Nat) :
    lastWord (fs ++ [f]) k = (wordFor k f).or (lastWord fs k) := by
  simp only [lastWord_eq, List.reverse_append, List.reverse_singleton, List.singleton_append, List.findSome?_cons]
  cases wordFor k f <;> rfl

/-- The last value named is among those named. -/
theorem mem_of_lastWord {fs : List (Nat × FieldValue)} {k n : Nat} (e : lastWord fs k = some n) :
    (k, .word n) ∈ fs := by
  obtain ⟨⟨j, v⟩, hm, hv⟩ := List.exists_of_findSome?_eq_some ((lastWord_eq fs k).symm.trans e)
  cases v with
  | word m =>
    simp only [wordFor_word, Option.ite_none_right_eq_some, Option.some.injEq] at hv
    obtain ⟨rfl, rfl⟩ := hv
    exact List.mem_reverse.1 hm
  | list l => simp at hv

@[simp] theorem fieldAfter_nil (k old : Nat) : fieldAfter [] k old = old := rfl

theorem fieldAfter_concat (fs : List (Nat × FieldValue)) (f : Nat × FieldValue) (k old : Nat) :
    fieldAfter (fs ++ [f]) k old = ((wordFor k f).map (nearest k)).getD (fieldAfter fs k old) := by
  simp only [fieldAfter, lastWord_concat]
  cases wordFor k f <;> rfl

/-- A field holds its old value or an allowed one. -/
theorem fieldAfter_cases (fs : List (Nat × FieldValue)) (k old : Nat) :
    fieldAfter fs k old = old ∨ ∃ n, (k, .word n) ∈ fs ∧ fieldAfter fs k old = nearest k n := by
  unfold fieldAfter
  cases e : lastWord fs k with
  | none => exact .inl rfl
  | some n => exact .inr ⟨n, mem_of_lastWord e, rfl⟩

/-- The list that a field and its content name for field `k`. -/
def listFor (k : Nat) (f : Nat × FieldValue) : Option (List Nat) :=
  match f.2 with
  | .word _ => none
  | .list l => if f.1 = k then some l else none

@[simp] theorem listFor_word (k j n : Nat) : listFor k (j, .word n) = none := rfl

@[simp] theorem listFor_list (k j : Nat) (l : List Nat) : listFor k (j, .list l) = if j = k then some l else none := rfl

theorem lastList_eq (fs : List (Nat × FieldValue)) (k : Nat) : lastList fs k = fs.reverse.findSome? (listFor k) := rfl

@[simp] theorem lastList_nil (k : Nat) : lastList [] k = none := rfl

theorem lastList_concat (fs : List (Nat × FieldValue)) (f : Nat × FieldValue) (k : Nat) :
    lastList (fs ++ [f]) k = (listFor k f).or (lastList fs k) := by
  simp only [lastList_eq, List.reverse_append, List.reverse_singleton, List.singleton_append, List.findSome?_cons]
  cases listFor k f <;> rfl

theorem mem_of_lastList {fs : List (Nat × FieldValue)} {k : Nat} {l : List Nat} (e : lastList fs k = some l) :
    (k, .list l) ∈ fs := by
  obtain ⟨⟨j, v⟩, hm, hv⟩ := List.exists_of_findSome?_eq_some ((lastList_eq fs k).symm.trans e)
  cases v with
  | word m => simp at hv
  | list m =>
    simp only [listFor_list, Option.ite_none_right_eq_some, Option.some.injEq] at hv
    obtain ⟨rfl, rfl⟩ := hv
    exact List.mem_reverse.1 hm

@[simp] theorem outOfRange_nil (lo hi : Nat) : outOfRange [] lo hi = false := rfl

theorem outOfRange_concat (fs : List (Nat × FieldValue)) (k n lo hi : Nat) :
    outOfRange (fs ++ [(k, .word n)]) lo hi =
      (outOfRange fs lo hi || (lo ≤ k && k ≤ hi && nearest k n ≠ n)) := by
  simp [outOfRange]

@[simp] theorem outOfRange_concat_list (fs : List (Nat × FieldValue)) (k : Nat) (l : List Nat) (lo hi : Nat) :
    outOfRange (fs ++ [(k, .list l)]) lo hi = outOfRange fs lo hi := by
  simp [outOfRange]

/-! ## Modes -/

theorem modeOf_eq_none (n : Nat) : modeOf n = none ↔ 2 < n := by
  unfold modeOf
  split <;> simp_all
  omega

theorem badMode_iff (fs : List (Nat × FieldValue)) : badMode fs = true ↔ ∃ n, (1, .word n) ∈ fs ∧ 2 < n := by
  constructor
  · intro h
    obtain ⟨⟨k, v⟩, hm, hv⟩ := List.any_eq_true.1 h
    cases v with
    | word n =>
      simp only [Bool.and_eq_true, decide_eq_true_eq, Option.isNone_iff_eq_none, modeOf_eq_none] at hv
      obtain ⟨rfl, hn⟩ := hv
      exact ⟨n, hm, hn⟩
    | list l => simp at hv
  · rintro ⟨n, hm, hn⟩
    exact List.any_eq_true.2 ⟨_, hm, by simpa [modeOf_eq_none] using hn⟩

theorem badMode_concat (fs : List (Nat × FieldValue)) (f : Nat × FieldValue) :
    badMode (fs ++ [f]) = (badMode fs || badMode [f]) := by
  simp [badMode]

/-- The mode that a named value stores; `old` where it is none. -/
def modeNamed (v : Option Nat) (old : Mode) : Mode :=
  match v with
  | some 0 => .auto
  | some 1 => .manual
  | some 2 => .override
  | _ => old

theorem modeNamed_some {n : Nat} (old : Mode) {m : Mode} (e : modeOf n = some m) : modeNamed (some n) old = m := by
  unfold modeOf at e
  split at e <;> simp_all [modeNamed]

/-! ## The settings written -/

/-- The settings after the named fields are written, before the jump rule. -/
def Settings.written (x : Settings) (fs : List (Nat × FieldValue)) : Settings :=
  { mode := modeNamed (lastWord fs 1) x.mode,
    openLimit := fieldAfter fs 2 x.openLimit, queueLimit := fieldAfter fs 3 x.queueLimit,
    speakLimit := fieldAfter fs 4 x.speakLimit, vip := fieldAfter fs 5 x.vip,
    langBonus := fieldAfter fs 6 x.langBonus, segBonus := fieldAfter fs 7 x.segBonus,
    jump := fieldAfter fs 8 x.jump, max := fieldAfter fs 9 x.max, guard := fieldAfter fs 10 x.guard,
    duck := fieldAfter fs 11 x.duck, gain := fieldAfter fs 12 x.gain, ramp := fieldAfter fs 13 x.ramp,
    idle := fieldAfter fs 14 x.idle }

theorem jumpRule_fst (x : Settings) :
    (jumpRule x).1 = { x with jump := if 0 < x.max ∧ x.max ≤ x.jump then x.max - 1 else x.jump } := by
  unfold jumpRule
  by_cases h : 0 < x.max ∧ x.max ≤ x.jump <;> simp [h]

theorem jumpRule_snd (x : Settings) : (jumpRule x).2 = (0 < x.max && x.max ≤ x.jump) := by
  unfold jumpRule
  split <;> simp_all

theorem jumpRule_written (x : Settings) (fs : List (Nat × FieldValue)) : (jumpRule (x.written fs)).1 = x.named fs :=
  jumpRule_fst _

/-- One field written to settings. -/
def writeStep (acc : Settings × Bool) (f : Nat × FieldValue) : Settings × Bool :=
  match f.2 with
  | .word n => ((writeSetting acc.1 f.1 n).1, acc.2 || (writeSetting acc.1 f.1 n).2)
  | .list _ => acc

theorem writeSettings_eq (x : Settings) (fs : List (Nat × FieldValue)) :
    writeSettings x fs =
      ((jumpRule (fs.foldl writeStep (x, false)).1).1,
        (fs.foldl writeStep (x, false)).2 || (jumpRule (fs.foldl writeStep (x, false)).1).2) := rfl

/-- A field of settings is clamped when its nearest allowed value differs. -/
theorem writeSetting_clamped (x : Settings) (k n : Nat) :
    (writeSetting x k n).2 = (2 ≤ k && k ≤ 14 && nearest k n ≠ n) := by
  unfold writeSetting
  split
  case h_15 h1 h2 h3 h4 h5 h6 h7 h8 h9 h10 h11 h12 h13 h14 =>
    simp only [imp_false] at h1 h2 h3 h4 h5 h6 h7 h8 h9 h10 h11 h12 h13 h14
    have : ¬(2 ≤ k ∧ k ≤ 14) := by omega
    simp only [← Bool.decide_and, this, decide_false, Bool.false_and]
  all_goals
    rw [Bool.eq_iff_iff]; simp only [Bool.and_eq_true, decide_eq_true_eq]
    simp [nearest, clampTo, clampSpeak, clampRamp]

/-- A field written after others takes its place in what they leave. -/
theorem writeSetting_written (x : Settings) (fs : List (Nat × FieldValue)) (k n : Nat)
    (hm : k = 1 → (modeOf n).isSome) :
    (writeSetting (x.written fs) k n).1 = x.written (fs ++ [(k, .word n)]) := by
  unfold writeSetting
  split
  case h_1 =>
    obtain ⟨m, e⟩ := Option.isSome_iff_exists.1 (hm rfl)
    simp [Settings.written, lastWord_concat, fieldAfter_concat, e, modeNamed_some _ e]
  case h_15 h1 h2 h3 h4 h5 h6 h7 h8 h9 h10 h11 h12 h13 h14 =>
    simp only [imp_false] at h1 h2 h3 h4 h5 h6 h7 h8 h9 h10 h11 h12 h13 h14
    simp [Settings.written, lastWord_concat, fieldAfter_concat, h1, h2, h3, h4, h5, h6, h7, h8, h9, h10, h11, h12, h13,
      h14]
  all_goals
    simp [Settings.written, lastWord_concat, fieldAfter_concat, nearest, clampTo, clampSpeak, clampRamp]

theorem foldl_writeStep (x : Settings) (fs : List (Nat × FieldValue)) (hb : badMode fs = false) :
    fs.foldl writeStep (x, false) = (x.written fs, outOfRange fs 2 14) := by
  induction fs using List.reverseRecOn with
  | nil => rfl
  | append_singleton fs f ih =>
    rw [badMode_concat, Bool.or_eq_false_iff] at hb
    rw [List.foldl_append, ih hb.1]
    obtain ⟨k, v⟩ := f
    cases v with
    | list l => simp [writeStep, Settings.written, lastWord_concat, fieldAfter_concat]
    | word n =>
      have hm : k = 1 → (modeOf n).isSome := fun hk => by simpa [badMode, hk] using hb.2
      simp only [List.foldl_cons, List.foldl_nil, writeStep, writeSetting_written x fs k n hm, outOfRange_concat,
        writeSetting_clamped]

/-- Named settings are written as the statements say (R16, R92). -/
theorem writeSettings_named (x : Settings) (fs : List (Nat × FieldValue)) (hb : badMode fs = false) :
    writeSettings x fs = (x.named fs, x.clampedBy fs) := by
  rw [writeSettings_eq, foldl_writeStep x fs hb, jumpRule_written, jumpRule_snd]
  rfl

/-! ## The settings named are in range -/

theorem Settings.ok_iff (x : Settings) : x.ok = true ↔
    (1 ≤ x.openLimit ∧ x.openLimit ≤ 8) ∧ (1 ≤ x.queueLimit ∧ x.queueLimit ≤ 48) ∧
    (x.speakLimit = 0 ∨ (10 ≤ x.speakLimit ∧ x.speakLimit ≤ 3600)) ∧ x.vip ≤ 15 ∧ x.langBonus ≤ 7 ∧ x.segBonus ≤ 7 ∧
    x.jump ≤ 15 ∧ (x.max = 0 ∨ x.jump < x.max) ∧ x.max ≤ 15 ∧ (1 ≤ x.guard ∧ x.guard ≤ 32) ∧ x.duck ≤ 16384 ∧
    x.gain ≤ 32767 ∧ x.ramp ∈ [96, 192, 384, 768] ∧ x.idle ≤ 240 := by
  simp only [Settings.ok, Bool.and_eq_true, Bool.or_eq_true, decide_eq_true_eq, List.contains_iff_mem]
  simp only [and_assoc]

/-- What holds of a field's old value and of every allowed value holds after the named fields are written. -/
theorem fieldAfter_holds {P : Nat → Prop} (fs : List (Nat × FieldValue)) (k : Nat) {old : Nat} (ho : P old)
    (hn : ∀ n, P (nearest k n)) : P (fieldAfter fs k old) := by
  rcases fieldAfter_cases fs k old with e | ⟨n, -, e⟩
  · rwa [e]
  · rw [e]; exact hn n

/-- Settings in range stay so whatever fields are named (R15, R16). -/
theorem Settings.named_ok {x : Settings} (fs : List (Nat × FieldValue)) (h : x.ok = true) : (x.named fs).ok = true := by
  rw [Settings.ok_iff] at h ⊢
  obtain ⟨h2, h3, h4, h5, h6, h7, h8, -, h9, h10, h11, h12, h13, h14⟩ := h
  have jump : fieldAfter fs 8 x.jump ≤ 15 := fieldAfter_holds (P := (· ≤ 15)) fs 8 h8 fun n => by simp [nearest]
  have max : fieldAfter fs 9 x.max ≤ 15 := fieldAfter_holds (P := (· ≤ 15)) fs 9 h9 fun n => by simp [nearest]
  simp only [Settings.named]
  refine ⟨?_, ?_, ?_, ?_, ?_, ?_, ?_, ?_, max, ?_, ?_, ?_, ?_, ?_⟩
  · exact fieldAfter_holds (P := fun n => 1 ≤ n ∧ n ≤ 8) fs 2 h2 fun n => by simp only [nearest]; omega
  · exact fieldAfter_holds (P := fun n => 1 ≤ n ∧ n ≤ 48) fs 3 h3 fun n => by simp only [nearest]; omega
  · exact fieldAfter_holds (P := fun n => n = 0 ∨ (10 ≤ n ∧ n ≤ 3600)) fs 4 h4 fun n => by
      simp only [nearest]; split <;> omega
  · exact fieldAfter_holds (P := (· ≤ 15)) fs 5 h5 fun n => by simp [nearest]
  · exact fieldAfter_holds (P := (· ≤ 7)) fs 6 h6 fun n => by simp [nearest]
  · exact fieldAfter_holds (P := (· ≤ 7)) fs 7 h7 fun n => by simp [nearest]
  · split <;> omega
  · split <;> omega
  · exact fieldAfter_holds (P := fun n => 1 ≤ n ∧ n ≤ 32) fs 10 h10 fun n => by simp only [nearest]; omega
  · exact fieldAfter_holds (P := (· ≤ 16384)) fs 11 h11 fun n => by simp [nearest]
  · exact fieldAfter_holds (P := (· ≤ 32767)) fs 12 h12 fun n => by simp [nearest]
  · exact fieldAfter_holds (P := (· ∈ [96, 192, 384, 768])) fs 13 h13 fun n => by
      simp only [nearest]; repeat' split
      all_goals simp
  · exact fieldAfter_holds (P := (· ≤ 240)) fs 14 h14 fun n => by simp [nearest]

/-! ## Defaults records -/

/-- One of the fields of a defaults record beyond the settings written. -/
def writeDefaultStep (acc : Defaults × Bool) (f : Nat × FieldValue) : Defaults × Bool :=
  ((writeDefault acc.1 f).1, acc.2 || (writeDefault acc.1 f).2)

theorem writeDefaults_eq (d : Defaults) (fs : List (Nat × FieldValue)) :
    writeDefaults d fs = fs.foldl writeDefaultStep
      ({ d with settings := (writeSettings d.settings fs).1 }, (writeSettings d.settings fs).2) := rfl

/-- A defaults record after the fields 15 to 18 among `fs` are written. -/
def Defaults.written (d : Defaults) (fs : List (Nat × FieldValue)) : Defaults :=
  { settings := d.settings, base := fieldAfter fs 15 d.base, size := fieldAfter fs 16 d.size,
    wanted := (lastList fs 17).getD d.wanted, floorLang := fieldAfter fs 18 d.floorLang }

theorem writeDefault_written (d : Defaults) (fs : List (Nat × FieldValue)) (f : Nat × FieldValue) :
    (writeDefault (d.written fs) f).1 = d.written (fs ++ [f]) := by
  unfold writeDefault
  split
  case h_5 h1 h2 h3 h4 =>
    obtain ⟨k, v⟩ := f
    cases v with
    | word n =>
      have k15 : k ≠ 15 := fun e => h1 n (by rw [e])
      have k16 : k ≠ 16 := fun e => h2 n (by rw [e])
      have k18 : k ≠ 18 := fun e => h4 n (by rw [e])
      simp [Defaults.written, lastList_concat, fieldAfter_concat, k15, k16, k18]
    | list l =>
      have k17 : k ≠ 17 := fun e => h3 l (by rw [e])
      simp [Defaults.written, lastList_concat, fieldAfter_concat, k17]
  all_goals simp [Defaults.written, lastList_concat, fieldAfter_concat, nearest, clampTo]

theorem writeDefault_clamped (d : Defaults) (fs : List (Nat × FieldValue)) (f : Nat × FieldValue) :
    (outOfRange fs 16 16 || (writeDefault d f).2) = outOfRange (fs ++ [f]) 16 16 := by
  obtain ⟨k, v⟩ := f
  cases v with
  | list l =>
    rw [outOfRange_concat_list]
    unfold writeDefault
    split <;> simp_all
  | word n =>
    rw [outOfRange_concat]
    congr 1
    unfold writeDefault
    split
    case h_2 _ m e => cases e; rw [Bool.eq_iff_iff]; simp only [Bool.and_eq_true, decide_eq_true_eq]; simp [nearest, clampTo]
    case h_5 h1 h2 h3 h4 =>
      have k16 : k ≠ 16 := fun e => h2 n (by rw [e])
      have : ¬(16 ≤ k ∧ k ≤ 16) := by omega
      simp only [← Bool.decide_and, this, decide_false, Bool.false_and]
    all_goals next e => cases e <;> simp

theorem foldl_writeDefaultStep (d : Defaults) (c : Bool) (fs : List (Nat × FieldValue)) :
    fs.foldl writeDefaultStep (d, c) = (d.written fs, c || outOfRange fs 16 16) := by
  induction fs using List.reverseRecOn with
  | nil => simp [Defaults.written]
  | append_singleton fs f ih =>
    rw [List.foldl_append, ih]
    simp only [List.foldl_cons, List.foldl_nil, writeDefaultStep, writeDefault_written, Bool.or_assoc,
      writeDefault_clamped]

/-- Named fields of a defaults record are written as the statements say (R16). -/
theorem writeDefaults_named (d : Defaults) (fs : List (Nat × FieldValue)) (hb : badMode fs = false) :
    writeDefaults d fs = (d.named fs, d.settings.clampedBy fs || outOfRange fs 16 16) := by
  rw [writeDefaults_eq, foldl_writeDefaultStep, writeSettings_named _ _ hb]
  rfl

end Sys2Proof.Machine
end

section
/-! Placing windows (R143): every placed window lies in the channels, clear of those taken and of the others placed. -/

namespace Sys2Proof.Machine

/-- Two windows, each given as base and size, share no channel; a window of size 0 is none (R139). -/
def clear (a b : Nat × Nat) : Prop := a.2 = 0 ∨ b.2 = 0 ∨ a.1 + a.2 ≤ b.1 ∨ b.1 + b.2 ≤ a.1

theorem clear_symm {a b : Nat × Nat} (h : clear a b) : clear b a := by unfold clear at *; omega

/-- A window lies within the 32 channels (R139). -/
def inChannels (a : Nat × Nat) : Prop := a.2 = 0 ∨ a.1 + a.2 ≤ 32

/-- The window of a plan. -/
def Plan.window (p : Plan) : Nat × Nat := (p.base, p.size)

/-- A window lies in the channels and is clear of those taken. -/
def placedIn (taken : List (Nat × Nat)) (a : Nat × Nat) : Prop := inChannels a ∧ ∀ w ∈ taken, clear a w

theorem placedIn_empty (taken : List (Nat × Nat)) (base : Nat) : placedIn taken (base, 0) :=
  ⟨.inl rfl, fun _ _ => .inl rfl⟩

/-- A window all of whose channels are free is clear of those taken. -/
theorem placedIn_of_free {taken : List (Nat × Nat)} {base size : Nat} (h : base + size ≤ 32)
    (hf : ∀ k < size, chanFree taken (base + k) = true) : placedIn taken (base, size) := by
  refine ⟨.inr h, fun w hw => ?_⟩
  have free : ∀ k < size, base + k < w.1 ∨ w.1 + w.2 ≤ base + k := fun k hk => by
    simpa using List.all_eq_true.1 (hf k hk) w hw
  by_contra hc
  simp only [clear, not_or] at hc
  rcases Nat.le_total base w.1 with hb | hb
  · have := free (w.1 - base) (by omega)
    omega
  · have := free 0 (by omega)
    omega

theorem fitsAt_placed {taken : List (Nat × Nat)} {base size : Nat} (h : fitsAt taken base size = true) :
    placedIn taken (base, size) := by
  simp only [fitsAt, Bool.and_eq_true, decide_eq_true_eq, List.all_eq_true, List.mem_range] at h
  exact placedIn_of_free h.1 h.2

/-- The channels counted by `runFrom` are free and lie below 32. -/
theorem runFrom_placed (taken : List (Nat × Nat)) (b : Nat) (hb : b < 32) :
    placedIn taken (b, runFrom taken b) := by
  have hpre := List.prefix_iff_eq_take.1
    (List.takeWhile_prefix (l := List.range (Config.channels - b)) fun i => chanFree taken (b + i))
  have hlen : runFrom taken b ≤ 32 - b := by
    have := (List.takeWhile_sublist (l := List.range (Config.channels - b)) fun i => chanFree taken (b + i)).length_le
    simpa [runFrom, Config.channels] using this
  refine placedIn_of_free (by omega) fun k hk => ?_
  refine List.mem_takeWhile_imp (p := fun i => chanFree taken (b + i)) (l := List.range (Config.channels - b)) ?_
  rw [hpre, List.take_range, List.mem_range]
  simp only [runFrom] at hk hlen
  simp only [Config.channels] at *
  omega

theorem longestRun_placed (taken : List (Nat × Nat)) : placedIn taken (longestRun taken) := by
  have inv : ∀ l : List Nat, (∀ b ∈ l, b < 32) → ∀ best, placedIn taken best →
      placedIn taken (l.foldl (fun best b => if best.2 < runFrom taken b then (b, runFrom taken b) else best) best) := by
    intro l
    induction l with
    | nil => exact fun _ best h => h
    | cons b l ih =>
      intro hl best h
      refine ih (fun c hc => hl c (List.mem_cons_of_mem _ hc)) _ ?_
      beta_reduce
      split
      · exact runFrom_placed taken b (hl b List.mem_cons_self)
      · exact h
  exact inv _ (fun b hb => List.mem_range.1 hb) _ (placedIn_empty taken 0)

/-- The placement of one window (R143). -/
theorem placePlan_placed (taken : List (Nat × Nat)) (p : Plan) : placedIn taken (placePlan taken p).window := by
  simp only [placePlan]
  split
  · next h => exact fitsAt_placed h
  · split
    · next b hb => exact fitsAt_placed (List.find?_some hb :)
    · split
      · exact placedIn_empty taken _
      · exact longestRun_placed taken

theorem placeAll_placed (ps : List Plan) : ∀ taken : List (Nat × Nat),
    (∀ q ∈ placeAll taken ps, placedIn taken q.window) ∧
    (placeAll taken ps).Pairwise fun a b => clear a.window b.window := by
  induction ps with
  | nil => exact fun taken => ⟨fun q hq => absurd hq List.not_mem_nil, List.Pairwise.nil⟩
  | cons p ps ih =>
    intro taken
    obtain ⟨placed, pairwise⟩ := ih ((placePlan taken p).window :: taken)
    simp only [placeAll]
    refine ⟨fun q hq => ?_, List.Pairwise.cons (fun q hq => ?_) pairwise⟩
    · rcases List.mem_cons.1 hq with rfl | hq
      · exact placePlan_placed taken p
      · exact ⟨(placed q hq).1, fun w hw => (placed q hq).2 w (List.mem_cons_of_mem _ hw)⟩
    · exact clear_symm ((placed q hq).2 _ List.mem_cons_self)

/-- The plan of a map room has no window, or it is one of the plans, with the room's id. -/
theorem planOf_cases (ps : List Plan) (m : MapRoom) :
    (planOf ps m).size = 0 ∨ (planOf ps m ∈ ps ∧ (planOf ps m).id = m.id) := by
  unfold planOf
  split
  · next p hp => exact .inr ⟨List.mem_of_find?_eq_some hp, by simpa using List.find?_some hp⟩
  · exact .inl rfl

/-! ## The windows of the rooms -/

theorem windowsApart_iff (h : Hall) : h.windowsApart ↔
    (∀ i r, h.room i = some r → inChannels (r.base, r.size)) ∧
    ∀ i j r r', i ≠ j → h.room i = some r → h.room j = some r' → clear (r.base, r.size) (r'.base, r'.size) := by
  unfold Hall.windowsApart inChannels clear
  refine and_congr_right fun _ => ⟨fun hw i j r r' hij hi hj => ?_, fun hw i j r r' hij hi hj hr hr' => ?_⟩
  · by_cases hr : r.size = 0
    · exact .inl hr
    · by_cases hr' : r'.size = 0
      · exact .inr (.inl hr')
      · exact .inr (.inr (hw i j r r' hij hi hj hr hr'))
  · rcases hw i j r r' hij hi hj with h0 | h0 | h0
    · exact absurd h0 hr
    · exact absurd h0 hr'
    · exact h0

/-- A room of one hall has a room with its layout in another hall of the same layout. -/
theorem room_of_layout {g h : Hall} (e : g.layout = h.layout) {i : SegId} {r : Room} (hr : g.room i = some r) :
    ∃ r', h.room i = some r' ∧ r'.layout = r.layout := by
  have := congrFun e i
  simp only [Hall.layout, hr, Option.map_some] at this
  exact Option.map_eq_some_iff.1 this.symm

theorem windowsApart_of_layout {g h : Hall} (e : g.layout = h.layout) (w : h.windowsApart) : g.windowsApart := by
  rw [windowsApart_iff] at w ⊢
  refine ⟨fun i r hr => ?_, fun i j r r' hij hr hr' => ?_⟩
  · obtain ⟨x, hx, ex⟩ := room_of_layout e hr
    simp only [Room.layout, Prod.mk.injEq] at ex
    simpa only [ex] using w.1 i x hx
  · obtain ⟨x, hx, ex⟩ := room_of_layout e hr
    obtain ⟨y, hy, ey⟩ := room_of_layout e hr'
    simp only [Room.layout, Prod.mk.injEq] at ex ey
    simpa only [ex, ey] using w.2 i j x y hij hx hy

theorem settingsOk_iff (h : Hall) : h.settingsOk = true ↔ ∀ i r, h.room i = some r → r.settings.ok = true := by
  simp only [Hall.settingsOk, List.all_eq_true, List.mem_filterMap]
  exact ⟨fun w i r hr => w r ⟨i, List.mem_finRange i, hr⟩, fun w r ⟨i, _, hr⟩ => w i r hr⟩

theorem settingsOk_of_layout {g h : Hall} (e : g.layout = h.layout) (w : h.settingsOk = true) :
    g.settingsOk = true := by
  rw [settingsOk_iff] at w ⊢
  intro i r hr
  obtain ⟨x, hx, ex⟩ := room_of_layout e hr
  simp only [Room.layout, Prod.mk.injEq] at ex
  simpa only [ex] using w i x hx

/-! ## The rooms replaced at a commit and at REINIT -/

/-- A room of the new active map is one of those built, or one that shares no segment with `x` (R38). -/
theorem replaceRooms_cases {h : Hall} {x : SegSet} {ms : List MapRoom} {build : MapRoom → Room} {i : SegId} {r : Room}
    (e : (replaceRooms h x ms build).room i = some r) :
    (∃ m ∈ ms, m.id = i ∧ r = build m) ∨ (h.room i = some r ∧ r.segs &&& x = 0) := by
  simp only [replaceRooms, Hall.room, Fin.getElem_fin, tab_getElem, Fin.eta] at e
  split at e
  · next m hm =>
    exact .inl ⟨m, List.mem_of_find?_eq_some hm, by simpa using List.find?_some hm, (Option.some.inj e).symm⟩
  · split at e
    · next r' hr' =>
      split at e
      · cases e
      · next hx =>
        cases e
        exact .inr ⟨hr', by simpa using hx⟩
    · cases e

theorem replaceRooms_settingsOk {h : Hall} (x : SegSet) (ms : List MapRoom) {build : MapRoom → Room}
    (w : h.settingsOk = true) (hb : ∀ m, (build m).settings.ok = true) :
    (replaceRooms h x ms build).settingsOk = true := by
  rw [settingsOk_iff] at w ⊢
  intro i r hr
  rcases replaceRooms_cases hr with ⟨m, -, -, rfl⟩ | ⟨hi, -⟩
  · exact hb m
  · exact w i r hi

theorem heldWindows_mem {h : Hall} {x : SegSet} {i : SegId} {r : Room} (hr : h.room i = some r)
    (hx : r.segs &&& x = 0) : (r.base, r.size) ∈ heldWindows h x := by
  simp only [heldWindows, List.mem_filterMap]
  exact ⟨r, ⟨i, List.mem_finRange i, hr⟩, if_pos hx⟩

/-- Rooms built with the windows of placed plans stand clear of each other and of the rooms kept, whose windows were
taken (R143). -/
theorem replaceRooms_windowsApart {h : Hall} {x : SegSet} {taken : List (Nat × Nat)} (ms : List MapRoom)
    (ps : List Plan) {build : MapRoom → Room} (w : h.windowsApart)
    (ht : ∀ i r, h.room i = some r → r.segs &&& x = 0 → (r.base, r.size) ∈ taken)
    (hb : ∀ m, ((build m).base, (build m).size) = (planOf (placeWindows taken ps) m).window) :
    (replaceRooms h x ms build).windowsApart := by
  obtain ⟨placed, pairwise⟩ := placeAll_placed (sortBy placedBefore ps) taken
  rw [windowsApart_iff] at w ⊢
  have built : ∀ m, placedIn taken ((build m).base, (build m).size) := fun m => by
    rw [hb]
    rcases planOf_cases (placeWindows taken ps) m with h0 | ⟨hm, -⟩
    · simpa only [Plan.window, h0] using placedIn_empty taken _
    · exact placed _ hm
  refine ⟨fun i r hr => ?_, fun i j r r' hij hr hr' => ?_⟩
  · rcases replaceRooms_cases hr with ⟨m, -, -, rfl⟩ | ⟨hi, -⟩
    · exact (built m).1
    · exact w.1 i r hi
  · rcases replaceRooms_cases hr with ⟨m, -, rfl, rfl⟩ | ⟨hi, hx⟩
    · rcases replaceRooms_cases hr' with ⟨m', -, rfl, rfl⟩ | ⟨hj, hx'⟩
      · rw [hb, hb]
        rcases planOf_cases (placeWindows taken ps) m with h0 | ⟨hm, em⟩
        · exact .inl h0
        · rcases planOf_cases (placeWindows taken ps) m' with h0 | ⟨hm', em'⟩
          · exact .inr (.inl h0)
          · have : Std.Symm fun a b : Plan => clear a.window b.window := ⟨fun _ _ => clear_symm⟩
            refine pairwise.forall hm hm' fun e => hij ?_
            rw [← em, ← em', e]
      · exact (built m).2 _ (ht j r' hj hx')
    · rcases replaceRooms_cases hr' with ⟨m', -, rfl, rfl⟩ | ⟨hj, -⟩
      · exact clear_symm ((built m').2 _ (ht i r hi hx))
      · exact w.2 i j r r' hij hi hj

end Sys2Proof.Machine
end

section
/-! The settings of walls, segments, rooms and the regroup controller stay in range, and the windows apart: the commands
and events that write them (R1, R6, R14, R15, R17, R23, R139, R143, R145). -/

namespace Sys2Proof.Machine

/-! ## What ranges a state has -/

theorem State.settingsOk_iff (s : State) : s.settingsOk = true ↔
    s.scanner.ok = true ∧ s.hall.settingsOk = true ∧ s.regroup.timesOk = true := by
  simp only [State.settingsOk, Bool.and_eq_true, and_assoc]

theorem Scanner.ok_iff (sc : Scanner) : sc.ok = true ↔
    (∀ w : WallId, (sc.walls[w]).ok = true) ∧ (100 ≤ sc.settleTime ∧ sc.settleTime ≤ 5000) ∧
    (∀ i : SegId, sc.ranks[i] ≤ 15) ∧ ∀ i : SegId, (sc.defaults[i]).ok = true := by
  simp only [Scanner.ok, allSegIds, Bool.and_eq_true, List.all_eq_true, List.mem_finRange, decide_eq_true_eq,
    forall_const, and_assoc]

theorem Regroup.timesOk_of_eq {a b : Regroup} (e : b.consentSecs = a.consentSecs ∧ b.holdSecs = a.holdSecs)
    (w : a.timesOk = true) : b.timesOk = true := by
  simpa only [Regroup.timesOk, e] using w

/-- From `s` to `t` the layout of the rooms is kept, and with it their settings and windows; and settings in range stay
in range. -/
structure Ranged (s t : State) : Prop where
  layout   : t.hall.layout = s.hall.layout
  settings : s.settingsOk = true → t.settingsOk = true

theorem Kept.settingsOk {s t : State} (k : Kept s t) (w : s.settingsOk = true) : t.settingsOk = true := by
  rw [State.settingsOk_iff] at w ⊢
  obtain ⟨scanner, rooms, times⟩ := w
  exact ⟨k.scanner ▸ scanner, settingsOk_of_layout k.layout rooms, Regroup.timesOk_of_eq k.times times⟩

theorem Kept.windowsApart {s t : State} (k : Kept s t) (w : s.hall.windowsApart) : t.hall.windowsApart :=
  windowsApart_of_layout k.layout w

namespace Ranged

theorem of_kept {s t : State} (k : Kept s t) : Ranged s t := ⟨k.layout, k.settingsOk⟩

theorem refl (s : State) : Ranged s s := of_kept (.refl s)

theorem kept {s t u : State} (a : Ranged s t) (b : Kept t u) : Ranged s u :=
  ⟨b.layout.trans a.layout, fun w => b.settingsOk (a.settings w)⟩

/-- Only the scanner's records are written, and they stay in range. -/
theorem ofScanner {s : State} {sc : Scanner} (h : s.scanner.ok = true → sc.ok = true) :
    Ranged s { s with scanner := sc } := by
  refine ⟨rfl, fun w => ?_⟩
  rw [State.settingsOk_iff] at w ⊢
  exact ⟨h w.1, w.2⟩

end Ranged

/-! ## Walls -/

/-- A wall keeps its definition and its override, and stays in range. -/
structure SameWall (x y : Wall) : Prop where
  pair : y.pair = x.pair
  ovr  : y.ovr = x.ovr
  ok   : x.ok = true → y.ok = true

/-- A defined wall stays in range while it keeps its pair (R1). -/
theorem Wall.ok_of_pair {x y : Wall} (hp : x.pair.isSome = true) (e : y.pair = x.pair) (w : x.ok = true) :
    y.ok = true := by
  obtain ⟨⟨a, b⟩, hab⟩ := Option.isSome_iff_exists.1 hp
  simpa only [Wall.ok, e, hab] using w

/-- From `s` to `t` one wall's record has been written, its definition and override kept, and beside it nothing of what
`Kept` keeps. -/
def WallTimed (s t : State) : Prop := ∃ w y, SameWall s.scanner.walls[w] y ∧ Kept (s.setWall w y) t

theorem WallTimed.intro {s t : State} {w : WallId} {y : Wall} (k : Kept (s.setWall w y) t)
    (same : SameWall s.scanner.walls[w] y) : WallTimed s t := ⟨w, y, same, k⟩

theorem WallTimed.refl (s : State) : WallTimed s s :=
  ⟨0, s.scanner.walls[(0 : WallId)], ⟨rfl, rfl, id⟩, by
    have : s.setWall 0 s.scanner.walls[(0 : WallId)] = s := by simp only [State.setWall, put_read]
    rw [this]
    exact .refl s⟩

theorem setWall_ranged {s : State} {w : WallId} {y : Wall} (h : (s.scanner.walls[w]).ok = true → y.ok = true) :
    Ranged s (s.setWall w y) := by
  refine .ofScanner fun ok => ?_
  rw [Scanner.ok_iff] at ok ⊢
  refine ⟨fun v => ?_, ok.2⟩
  show ((put s.scanner.walls w y)[v]).ok = true
  rw [put_get]
  split
  · exact h (ok.1 w)
  · exact ok.1 v

theorem WallTimed.ranged {s t : State} : WallTimed s t → Ranged s t := fun ⟨_, _, same, k⟩ =>
  (setWall_ranged same.ok).kept k

theorem settledChanged_kept (s : State) (x y : Wall) : Kept s (settledChanged s x y) := by
  simp only [settledChanged]
  refine .trans ?_ (.of_quiet (restIfAtRest_quiet _))
  repeat' split
  · exact .refl s
  · exact .raised s _ _
  · exact .of_quiet (wallChange_quiet s)
  · exact .trans (.raised s _ _) (.of_quiet (wallChange_quiet _))

theorem rewriteWall_kept (s : State) (w : WallId) (y : Wall) : Kept (s.setWall w y) (rewriteWall s w y) :=
  .trans (.of_quiet (wallChange_quiet _)) (.trans (.raised _ _ _) (.of_quiet (restIfAtRest_quiet _)))

theorem storeOverride_cases (s : State) (w : WallId) (o : Override) :
    storeOverride s w o = s ∨ Kept (s.setWall w { s.scanner.walls[w] with ovr := o }) (storeOverride s w o) := by
  simp only [storeOverride]
  split
  · exact .inl rfl
  · refine .inr (.trans ?_ (.sweep _))
    split
    · exact .raised _ _ _
    · exact .trans (.raised _ _ _) (.trans (.of_quiet (wallChange_quiet _)) (.of_quiet (restIfAtRest_quiet _)))

variable (s : State)

theorem contactEvent_timed (w : WallId) (closed stowed : Bool) :
    Yields (WallTimed s) (execContactEvent w closed stowed s) := by
  simp only [execContactEvent]
  repeat' split
  all_goals rw [yields_next]
  · exact .refl s
  · exact .intro (.refl (s.setWall w _)) ⟨rfl, rfl, id⟩
  · next hp =>
    have hp : (s.scanner.walls[w]).pair.isSome = true := by simpa [Option.isSome_iff_ne_none] using hp
    exact .intro (.trans (.of_quiet (wallChange_quiet _)) (.raised _ _ _)) ⟨rfl, rfl, Wall.ok_of_pair hp rfl⟩

theorem settleTimerExpiry_timed (w : WallId) : Yields (WallTimed s) (execSettleTimerExpiry w s) := by
  simp only [execSettleTimerExpiry]
  split
  · next h =>
    rw [Bool.and_eq_true] at h
    exact (yields_next _).2 (.intro (.trans (settledChanged_kept _ _ _) (.sweep _))
      ⟨rfl, rfl, Wall.ok_of_pair h.1 rfl⟩)
  · exact (yields_next _).2 (.refl s)

theorem stuckTimerExpiry_timed (w : WallId) : Yields (WallTimed s) (execStuckTimerExpiry w s) := by
  simp only [execStuckTimerExpiry]
  split
  · next hp _ =>
    exact (yields_next _).2 (.intro (.trans (settledChanged_kept _ _ _) (.sweep _))
      ⟨rfl, rfl, Wall.ok_of_pair (Option.isSome_iff_exists.2 ⟨_, hp⟩) rfl⟩)
  · exact (yields_next _).2 (.refl s)

theorem defineWall_leaves (d : WallDefinition) : (defineWallBody s d).Leaves (Ranged s) := by
  simp only [defineWallBody]
  repeat' split
  all_goals simp only [Reply.leaves_refuse, Reply.leaves_done]
  · exact .refl s
  · exact (setWall_ranged fun _ => rfl).kept (.trans (rewriteWall_kept s _ _) (.sweep _))
  · exact .refl s
  · next hab _ =>
    exact (setWall_ranged fun _ => by simpa [Wall.ok, Wall.definedAs] using hab).kept
      (.trans (rewriteWall_kept s _ _) (.sweep _))

theorem wallOverride_leaves (a : Byte × Byte) : (wallOverrideBody s a).Leaves (Ranged s) := by
  unfold wallOverrideBody
  repeat' split
  all_goals simp only [Reply.leaves_refuse, Reply.leaves_done]
  next w o _ _ =>
    rcases storeOverride_cases s w o with e | k
    · rw [e]; exact .refl s
    · exact (setWall_ranged (y := { s.scanner.walls[w] with ovr := o }) fun ok => ok).kept k

theorem lockWalls_leaves (a : Unit) : (lockWallsBody s a).Leaves (Ranged s) := by
  unfold lockWallsBody
  split
  · exact (Reply.leaves_done _ _ _).2 (.refl s)
  · exact (Reply.leaves_done _ _ _).2 
      ((Ranged.ofScanner (s := s) (sc := { s.scanner with lock := true }) fun ok => ok).kept (.raised _ _ _))

/-! ## Segment defaults, lead ranks and times -/

theorem repeats_eq_false (l : List Nat) : repeats l = false ↔ l.Nodup := by
  induction l with
  | nil => simp [repeats]
  | cons c l ih => simp [repeats, ih]

theorem Defaults.ok_iff (d : Defaults) : d.ok = true ↔
    d.settings.ok = true ∧ d.base ≤ 31 ∧ (1 ≤ d.size ∧ d.size ≤ 16) ∧ codesOk 15 d.wanted = true ∧ d.floorLang ≤ 63 := by
  simp only [Defaults.ok, Bool.and_eq_true, decide_eq_true_eq, and_assoc]

/-- A defaults record in range stays so when fields that are not refused are named (R15, R16). -/
theorem Defaults.named_ok {d : Defaults} {fs : List (Nat × FieldValue)} (h : d.ok = true)
    (hbad : fs.any badDefault = false) (htwice : badWanted repeats fs = false)
    (hlong : badWanted (fun l => 15 < l.length) fs = false) : (d.named fs).ok = true := by
  have good : ∀ f ∈ fs, badDefault f = false := fun f hf => by simpa using List.any_eq_false.1 hbad f hf
  rw [Defaults.ok_iff] at h ⊢
  obtain ⟨settings, base, size, wanted, lang⟩ := h
  refine ⟨Settings.named_ok fs settings, ?_, ?_, ?_, ?_⟩
  · rcases fieldAfter_cases fs 15 d.base with e | ⟨n, hn, e⟩
    · simpa only [Defaults.named, e] using base
    · simpa [Defaults.named, e, nearest, badDefault] using good _ hn
  · exact fieldAfter_holds (P := fun n => 1 ≤ n ∧ n ≤ 16) fs 16 size fun n => by simp only [nearest]; omega
  · cases e : lastList fs 17 with
    | none => simpa only [Defaults.named, e, Option.getD_none] using wanted
    | some l =>
      have hl := mem_of_lastList e
      have codes := good _ hl
      have once : repeats l = false := by simpa using List.any_eq_false.1 htwice _ hl
      have short : ¬15 < l.length := by simpa using List.any_eq_false.1 hlong _ hl
      simp only [badDefault, List.any_eq_false, Bool.or_eq_true, decide_eq_true_eq, not_or] at codes
      simp only [Defaults.named, e, Option.getD_some, codesOk, once, Bool.and_eq_true, decide_eq_true_eq,
        List.all_eq_true, Bool.not_false]
      exact ⟨⟨by omega, trivial⟩, fun c hc => by have := codes c hc; omega⟩
  · rcases fieldAfter_cases fs 18 d.floorLang with e | ⟨n, hn, e⟩
    · simpa only [Defaults.named, e] using lang
    · simpa [Defaults.named, e, nearest, badDefault] using good _ hn

theorem Reply.leaves_ifs {P : State → Prop} {c : Prop} [Decidable c] {a b : Reply} (ha : a.Leaves P)
    (hb : ¬c → b.Leaves P) : (if c then a else b).Leaves P := by
  split
  · exact ha
  · next h => exact hb h

theorem setDefaults_leaves (a : Byte × List (Nat × FieldValue)) : (setDefaultsBody s a).Leaves (Ranged s) := by
  simp only [setDefaultsBody]
  split
  · simp
  · next sg _ =>
    refine Reply.leaves_ifs (by simp) fun h1 => Reply.leaves_ifs (by simp) fun h2 => Reply.leaves_ifs (by simp) fun h3 => ?_
    · simp only [Bool.or_eq_true, not_or, Bool.not_eq_true] at h1 h2 h3
      rw [Reply.leaves_done]
      have hput : Ranged s { s with scanner :=
          { s.scanner with defaults := put s.scanner.defaults sg (writeDefaults s.scanner.defaults[sg] a.2).1 } } := by
        refine .ofScanner fun ok => ?_
        rw [Scanner.ok_iff] at ok ⊢
        refine ⟨ok.1, ok.2.1, ok.2.2.1, fun i => ?_⟩
        show ((put s.scanner.defaults sg _)[i]).ok = true
        rw [put_get]
        split
        · rw [writeDefaults_named _ _ h1.1]
          exact Defaults.named_ok (ok.2.2.2 sg) h1.2 h2 h3
        · exact ok.2.2.2 i
      split
      · exact hput
      · exact hput.kept (.raised _ _ _)

theorem setLeadRank_leaves (a : Byte × Byte) : (setLeadRankBody s a).Leaves (Ranged s) := by
  simp only [setLeadRankBody]
  split
  · simp
  · next sg _ =>
    rw [Reply.leaves_done]
    have hput : Ranged s { s with scanner :=
        { s.scanner with ranks := put s.scanner.ranks sg (min a.2.toNat 15) } } := by
      refine .ofScanner fun ok => ?_
      rw [Scanner.ok_iff] at ok ⊢
      refine ⟨ok.1, ok.2.1, fun i => ?_, ok.2.2.2⟩
      show (put s.scanner.ranks sg _)[i] ≤ 15
      rw [put_get]
      split
      · exact Nat.min_le_right _ _
      · exact ok.2.2.1 i
    split
    · exact hput
    · exact hput.kept (.raised _ _ _)

theorem clampTo_range {lo hi : Nat} (h : lo ≤ hi) (n : Nat) : lo ≤ clampTo lo hi n ∧ clampTo lo hi n ≤ hi := by
  unfold clampTo
  omega

theorem setTimes_leaves (a : Nat × Nat × Nat) : (setTimesBody s a).Leaves (Ranged s) := by
  refine (Reply.leaves_done _ _ _).2 ⟨rfl, fun w => ?_⟩
  rw [State.settingsOk_iff, Scanner.ok_iff] at w ⊢
  obtain ⟨⟨walls, -, ranks, defaults⟩, rooms, -⟩ := w
  refine ⟨⟨walls, ?_, ranks, defaults⟩, rooms, ?_⟩
  · exact clampTo_range (by decide) _
  · obtain ⟨consent1, consent2⟩ := clampTo_range (lo := 1) (hi := 30) (by decide) a.2.1
    obtain ⟨hold1, hold2⟩ := clampTo_range (lo := 1) (hi := 60) (by decide) a.2.2
    simp only [Regroup.timesOk, Bool.and_eq_true, decide_eq_true_eq]
    exact ⟨⟨⟨consent1, consent2⟩, hold1⟩, hold2⟩

end Sys2Proof.Machine
end

section
/-! SET-ROOM, SET-WINDOW, the block start and the full reset; and with them every step keeps the settings in range and the
windows apart (O12), and the wall lock stays (O16). -/

namespace Sys2Proof.Machine

/-! ## SET-ROOM -/

section
variable (h : Hall)

@[simp] theorem shedEntry_core (r : SlotRef) : (shedEntry h r).core = h.core := by
  unfold shedEntry
  repeat' split
  all_goals simp

@[simp] theorem shedCount_core (i : SegId) (n : Nat) : (shedCount h i n).core = h.core := fold_core h shedEntry_core _

@[simp] theorem cutQueue_core (i : SegId) : (cutQueue h i).core = h.core := by
  unfold cutQueue
  split
  · exact fold_core h denyWaiting_core _
  · rfl

@[simp] theorem trimRoom_core (i : SegId) (st : Settings) : (trimRoom h i st).core = h.core := by
  simp only [trimRoom]
  split <;> simp

@[simp] theorem remeasure_core (i : SegId) (x y : Settings) : (remeasure h i x y).core = h.core := by
  unfold remeasure
  split
  · rfl
  · exact fold_core h (fun g r => measureTimer_core g _ r) _

@[simp] theorem regrant_core (i : SegId) (x y : Settings) : (regrant h i x y).core = h.core := by
  unfold regrant
  split <;> simp

/-- After the settings of a room are stored, its limits and timers change nothing of the core of the hall. -/
theorem setRoomHall_core (i : SegId) (r : Room) (st : Settings) :
    (setRoomHall h i r st).core = (storeSettings h i r st).core := by simp [setRoomHall]

/-- A room's record with the settings stored, and its generation where any changed (R18, R92). -/
def Room.settled (r : Room) (st : Settings) : Room :=
  { r with settings := st, gen := if st = r.settings then r.gen else r.gen + 1 }

theorem storeSettings_core {i : SegId} {r : Room} (hr : h.room i = some r) (st : Settings) :
    (storeSettings h i r st).core = (h.setRoom i (some (r.settled st))).core := by
  unfold storeSettings Room.settled
  split
  · next e =>
    subst e
    exact (wake_core h i).trans (setRoom_core h i _ (by rw [hr])).symm
  · next e => simp [Room.genUp]

end

variable (s : State)

theorem setRoom_room_cases {h : Hall} {i j : SegId} {r' : Option Room} {r : Room}
    (e : (h.setRoom i r').room j = some r) : (i = j ∧ r' = some r) ∨ (i ≠ j ∧ h.room j = some r) := by
  by_cases hij : i = j
  · subst hij; exact .inl ⟨rfl, by simpa using e⟩
  · exact .inr ⟨hij, by rwa [Hall.setRoom_room_ne _ _ hij] at e⟩

theorem setRoom_leaves_ok (i : SegId) (fs : List (Nat × FieldValue)) (w : s.settingsOk = true) :
    (setRoomBody s i fs).Leaves fun t => t.settingsOk = true := by
  unfold setRoomBody
  refine Reply.leaves_ifs (by simp) fun hb => ?_
  split
  · simp
  · next r hr =>
    simp only [Reply.leaves_done]
    rw [State.settingsOk_iff] at w ⊢
    obtain ⟨scanner, rooms, times⟩ := w
    refine ⟨scanner, ?_, times⟩
    refine settingsOk_of_layout ((idleSweep_layout _).trans
      (layout_of_core ((setRoomHall_core _ _ _ _).trans (storeSettings_core _ hr _)))) ?_
    rw [settingsOk_iff] at rooms ⊢
    intro j x hx
    rcases setRoom_room_cases hx with ⟨-, e⟩ | ⟨-, e⟩
    · cases e
      rw [writeSettings_named _ _ (by simpa using hb)]
      exact Settings.named_ok fs (rooms i r hr)
    · exact rooms j x e

theorem setRoom_leaves_apart (i : SegId) (fs : List (Nat × FieldValue)) (w : s.hall.windowsApart) :
    (setRoomBody s i fs).Leaves fun t => t.hall.windowsApart := by
  unfold setRoomBody
  refine Reply.leaves_ifs (by simp) fun _ => ?_
  split
  · simp
  · next r hr =>
    simp only [Reply.leaves_done]
    refine windowsApart_of_layout ((idleSweep_layout _).trans
      (layout_of_core ((setRoomHall_core _ _ _ _).trans (storeSettings_core _ hr _)))) ?_
    rw [windowsApart_iff] at w ⊢
    refine ⟨fun j x hx => ?_, fun j k x y hjk hx hy => ?_⟩
    · rcases setRoom_room_cases hx with ⟨rfl, e⟩ | ⟨-, e⟩
      · cases e; exact w.1 i r hr
      · exact w.1 j x e
    · rcases setRoom_room_cases hx with ⟨rfl, e⟩ | ⟨-, e⟩
      · rcases setRoom_room_cases hy with ⟨rfl, -⟩ | ⟨-, e'⟩
        · exact absurd rfl hjk
        · cases e; exact w.2 i k r y hjk hr e'
      · rcases setRoom_room_cases hy with ⟨rfl, e'⟩ | ⟨-, e'⟩
        · cases e'; exact w.2 j i x r hjk e hr
        · exact w.2 j k x y hjk e e'

/-! ## SET-WINDOW -/

theorem moveWindow_layout {h : Hall} {i : SegId} (r : Room) (base size : Nat) :
    (moveWindow h i r base size).layout = (h.setRoom i (some { r with base := base, size := size })).layout := by
  refine (wake_layout _ i).trans ((raiseRoom_layout _ _ _).trans ?_)
  funext j
  simp only [Hall.layout]
  by_cases hij : i = j
  · subst hij; simp only [Hall.setRoom_room]; rfl
  · rw [Hall.setRoom_room_ne _ _ hij, Hall.setRoom_room_ne _ _ hij]

theorem setWindow_leaves_ok (i : SegId) (a : Nat × Nat) (w : s.settingsOk = true) :
    (setWindowBody s i a).Leaves fun t => t.settingsOk = true := by
  unfold setWindowBody
  split
  · simp
  · next r hr =>
    repeat' split
    all_goals simp only [Reply.leaves_refuse, Reply.leaves_done]
    · exact (Kept.floorHall (wake_layout s.hall i)).settingsOk w
    · rw [State.settingsOk_iff] at w ⊢
      obtain ⟨scanner, rooms, times⟩ := w
      refine ⟨scanner, settingsOk_of_layout ((idleSweep_layout _).trans (moveWindow_layout r a.1 a.2)) ?_, times⟩
      rw [settingsOk_iff] at rooms ⊢
      intro j x hx
      rcases setRoom_room_cases hx with ⟨-, e⟩ | ⟨-, e⟩
      · cases e; exact rooms i r hr
      · exact rooms j x e

/-- A window that overlaps no other room's is clear of them (R145, check 5). -/
theorem clear_of_overlaps {h : Hall} {i j : SegId} {base size : Nat} {r : Room} (ho : overlaps h i base size = false)
    (hij : i ≠ j) (hr : h.room j = some r) : clear (base, size) (r.base, r.size) := by
  have hj : j ∈ h.roomIds := by simp [Hall.roomIds, allSegIds, hr]
  have hno := List.any_eq_false.1 ho j hj
  simp only [ne_eq, hij.symm, not_false_eq_true, decide_true, Bool.true_and, hr, List.any_eq_true, List.mem_range,
    inWindow, Bool.and_eq_true, decide_eq_true_eq, not_exists, not_and] at hno
  by_contra hc
  simp only [clear, not_or] at hc
  rcases Nat.le_total base r.base with hb | hb
  · have := hno (r.base - base) (by omega)
    omega
  · have := hno 0 (by omega)
    omega

theorem setWindow_leaves_apart (i : SegId) (a : Nat × Nat) (w : s.hall.windowsApart) :
    (setWindowBody s i a).Leaves fun t => t.hall.windowsApart := by
  unfold setWindowBody
  split
  · simp
  · next r hr =>
    repeat' split
    all_goals simp only [Reply.leaves_refuse, Reply.leaves_done]
    · exact (Kept.floorHall (wake_layout s.hall i)).windowsApart w
    · next hsize _ hover _ =>
      have clearOf : ∀ j x, i ≠ j → s.hall.room j = some x → clear (a.1, a.2) (x.base, x.size) := fun j x hij hx =>
        clear_of_overlaps (by simpa using hover) hij hx
      refine windowsApart_of_layout ((idleSweep_layout _).trans (moveWindow_layout r a.1 a.2)) ?_
      rw [windowsApart_iff] at w ⊢
      refine ⟨fun j x hx => ?_, fun j k x y hjk hx hy => ?_⟩
      · rcases setRoom_room_cases hx with ⟨rfl, e⟩ | ⟨-, e⟩
        · cases e; exact .inr (Nat.le_of_not_lt hsize)
        · exact w.1 j x e
      · rcases setRoom_room_cases hx with ⟨rfl, e⟩ | ⟨hij, e⟩
        · rcases setRoom_room_cases hy with ⟨rfl, -⟩ | ⟨hik, e'⟩
          · exact absurd rfl hjk
          · cases e; exact clearOf k y hik e'
        · rcases setRoom_room_cases hy with ⟨rfl, e'⟩ | ⟨-, e'⟩
          · cases e'; exact clear_symm (clearOf j x hij e)
          · exact w.2 j k x y hjk e e'

/-! ## The commit and REINIT -/

@[simp] theorem settleBooths_layout (before h : Hall) (i : SegId) : (settleBooths before h i).layout = h.layout := by
  unfold settleBooths
  split
  · rfl
  · simp only []
    split <;> rfl

@[simp] theorem clearLostPins_layout (h : Hall) (i : SegId) : (clearLostPins h i).layout = h.layout := by
  simp only [clearLostPins]
  split <;> rfl

@[simp] theorem commitBooths_layout (before h : Hall) (is : List SegId) :
    (commitBooths before h is).layout = h.layout :=
  (fold_layout _ reevaluate_layout _).trans ((fold_layout _ clearLostPins_layout _).trans
    (fold_layout _ (settleBooths_layout before) _))

@[simp] theorem refileRoom_layout (h : Hall) (i : SegId) : (refileRoom h i).layout = h.layout := by
  unfold refileRoom
  split
  · rfl
  · next r hr =>
    simp only [raiseRoom_layout, Hall.mapRoom]
    split
    · refine (setRoom_layout _ (by assumption) ?_).trans (layout_of_core (by simp))
      repeat' split
      all_goals rfl
    · exact layout_of_core (by simp)

/-- The windows and settings of a commit are those of the rooms that it replaces. -/
theorem commit_layout :
    let x := s.regroup.affected
    let ms := s.regroup.pendingMap.filter fun m => (m.segs &&& x) ≠ 0
    let plans := placeWindows (heldWindows s.hall x) (ms.map (startPlan s.scanner s.hall))
    (commit s).hall.layout =
      (replaceRooms s.hall x ms fun m => rebuiltRoom s.scanner s.hall m (planOf plans m)).layout := by
  simp only [commit]
  refine (layout_of_core (unfreeze_core _ _)).trans ?_
  refine (raise_layout _ _ _).trans ((fold_layout _ (fun g i => raiseRoom_layout g _ i) _).trans ?_)
  refine (layout_of_core (setFrozen_core _ _)).trans ((commitBooths_layout _ _ _).trans ?_)
  exact fold_layout _ refileRoom_layout _

theorem rebuiltRoom_window (sc : Scanner) (h : Hall) (m : MapRoom) (p : Plan) :
    ((rebuiltRoom sc h m p).base, (rebuiltRoom sc h m p).size) = p.window := by
  unfold rebuiltRoom
  split <;> rfl

theorem ledBy_room {h : Hall} {lead i : SegId} {r : Room} (e : h.ledBy lead = some (i, r)) : h.room i = some r := by
  obtain ⟨j, -, hj⟩ := List.exists_of_findSome?_eq_some e
  split at hj
  · next x hx =>
    split at hj
    · cases hj; exact hx
    · cases hj
  · cases hj

theorem rebuiltRoom_settingsOk {sc : Scanner} {h : Hall} (hs : sc.ok = true) (hh : h.settingsOk = true) (m : MapRoom)
    (p : Plan) : (rebuiltRoom sc h m p).settings.ok = true := by
  unfold rebuiltRoom
  split
  · exact ((Defaults.ok_iff _).1 (((Scanner.ok_iff sc).1 hs).2.2.2 m.lead)).1
  · next i r e => exact (settingsOk_iff h).1 hh i r (ledBy_room e)

theorem commit_settingsOk {s : State} (w : s.settingsOk = true) : (commit s).settingsOk = true := by
  rw [State.settingsOk_iff] at w ⊢
  obtain ⟨scanner, rooms, times⟩ := w
  refine ⟨scanner, settingsOk_of_layout (commit_layout s) ?_, times⟩
  exact replaceRooms_settingsOk _ _ rooms fun m => rebuiltRoom_settingsOk scanner rooms m _

theorem commit_windowsApart {s : State} (w : s.hall.windowsApart) : (commit s).hall.windowsApart :=
  windowsApart_of_layout (commit_layout s)
    (replaceRooms_windowsApart _ _ w (fun _ _ hr hx => heldWindows_mem hr hx) fun _ => rebuiltRoom_window _ _ _ _)

@[simp] theorem reinitUnit_core (before h : Hall) (u : UnitId) : (reinitUnit before h u).core = h.core := by
  simp only [reinitUnit, alignSeat_core]
  refine (setUnit_core _ _ _ ?_).trans ?_
  · rfl
  repeat' split
  all_goals simp

@[simp] theorem reinitFloor_layout (h : Hall) : (reinitFloor h).layout = h.layout := by
  simp only [reinitFloor, raise_layout]
  refine (layout_of_core (fold_core _ (reinitUnit_core h) _)).trans ?_
  exact mapRooms_layout { h with requests := [], pools := _ } (fun _ r => { r with elevated := none }) fun _ _ => rfl

theorem reinitApply_layout :
    let h0 := reinitFloor s.hall
    let m := computeMap s.scanner
    let plans := placeWindows [] (m.map (freshPlan s.scanner))
    (reinitApply s).hall.layout =
      (replaceRooms h0 allSegs m fun r => freshRoom s.scanner h0 r (planOf plans r)).layout := by
  simp only [reinitApply, raise_layout]
  exact layout_of_rooms (by rfl)

theorem reinitApply_settingsOk {s : State} (w : s.settingsOk = true) : (reinitApply s).settingsOk = true := by
  rw [State.settingsOk_iff] at w ⊢
  obtain ⟨scanner, rooms, times⟩ := w
  refine ⟨scanner, settingsOk_of_layout (reinitApply_layout s) ?_, times⟩
  refine replaceRooms_settingsOk _ _ (settingsOk_of_layout (reinitFloor_layout s.hall) rooms) fun m => ?_
  exact ((Defaults.ok_iff _).1 (((Scanner.ok_iff _).1 scanner).2.2.2 m.lead)).1

/-- Every room has a segment (R22). -/
def Hall.seated (h : Hall) : Prop := ∀ i r, h.room i = some r → r.segs ≠ 0

theorem seated_of_layout {g h : Hall} (e : g.layout = h.layout) (w : h.seated) : g.seated := by
  intro i r hr
  obtain ⟨x, hx, ex⟩ := room_of_layout e hr
  simp only [Room.layout, Prod.mk.injEq] at ex
  simpa only [ex] using w i x hx

theorem seated_of_divides {h : Hall} (w : dividesSegs h.activeMap) : h.seated := by
  intro i r hr h0
  have hm : ({ id := i, segs := r.segs, lead := r.lead } : MapRoom) ∈ h.activeMap := by
    simp only [Hall.activeMap, List.mem_filterMap]
    exact ⟨i, List.mem_finRange i, by rw [hr]; rfl⟩
  have := (w.2.1 _ hm).1
  simp [inSet, h0] at this

theorem reinitApply_windowsApart {s : State} (w : s.hall.windowsApart) (hs : s.hall.seated) :
    (reinitApply s).hall.windowsApart := by
  have e := reinitFloor_layout s.hall
  refine windowsApart_of_layout (reinitApply_layout s) (replaceRooms_windowsApart _ _
    (windowsApart_of_layout e w) (fun i r hr hx => ?_) fun _ => rfl)
  have : r.segs &&& allSegs = r.segs := BitVec.and_allOnes
  exact absurd (this.symm.trans hx) (seated_of_layout e hs i r hr)

/-! ## The block start -/

theorem endIfMixed_kept (r : SlotRef) : Kept s (endIfMixed s r) := by
  unfold endIfMixed
  repeat' split
  · exact endRamp_kept s _ _ _
  · exact .refl s
  · exact .refl s
  · exact .refl s

theorem settleBlock_kept : Kept s (settleBlock s) := by
  simp only [settleBlock]
  refine .trans (.fold endIfMixed_kept allSlots s) ?_
  split
  · exact endBlock_kept _
  · exact .refl _

theorem endSilent_kept (r : SlotRef) : Kept s (endSilent s r) := by
  unfold endSilent
  repeat' split
  · exact .trans (.withHall (layout_of_core (closingDone_core _ _ _))) (.of_quiet (drainTest_quiet _))
  · exact .refl s
  · exact .refl s

theorem startRamps_layout (h : Hall) (r : LatchedRoom) : (startRamps h r).layout = h.layout :=
  fold_layout h (fun g _ => setEntry_layout g _ _) r.entries

theorem latch_kept : Kept s (latch s) := ⟨rfl, ⟨rfl, rfl⟩, fold_layout _ startRamps_layout _⟩

/-- What follows the commit or REINIT of a block start keeps settings and windows. -/
theorem startBlock_kept : Kept (applyPending (settleBlock s)) (startBlock s) := by
  simp only [startBlock]
  refine .trans (.withHall (fold_layout _ applyRoomGains_layout allSegIds)) ?_
  exact .trans (.fold endSilent_kept allSlots _) (.trans (.sweep _) (latch_kept _))

theorem startBlock_settingsOk {s : State} (w : s.settingsOk = true) : (startBlock s).settingsOk = true := by
  refine (startBlock_kept s).settingsOk ?_
  have w1 := (settleBlock_kept s).settingsOk w
  unfold applyPending
  repeat' split
  · exact reinitApply_settingsOk w1
  · exact commit_settingsOk w1
  · exact w1

theorem startBlock_windowsApart {s : State} (w : s.hall.windowsApart) (hs : s.hall.seated) :
    (startBlock s).hall.windowsApart := by
  refine (startBlock_kept s).windowsApart ?_
  have w1 := (settleBlock_kept s).windowsApart w
  unfold applyPending
  repeat' split
  · exact reinitApply_windowsApart w1 (seated_of_layout (settleBlock_kept s).layout hs)
  · exact commit_windowsApart w1
  · exact w1

theorem mixSample_kept (x : AudioIn) (n : Nat) : Kept s (mixSample s x n) := ⟨rfl, ⟨rfl, rfl⟩, rfl⟩

/-- A word-clock period goes on in the block, or starts one (R153). -/
theorem wordClockPeriod_cases (x : AudioIn) : ∃ n,
    execWordClockPeriod x s = .next (mixSample s x n) ∨ execWordClockPeriod x s = .next (mixSample (startBlock s) x n) := by
  unfold execWordClockPeriod
  split
  · next n _ =>
    split
    · exact ⟨n, .inl rfl⟩
    · exact ⟨0, .inr rfl⟩
  · exact ⟨0, .inr rfl⟩

/-- A property that `Kept` carries over and a block start keeps is kept by a word-clock period. -/
theorem wordClockPeriod_yields {P : State → Prop} (hP : ∀ {t u}, Kept t u → P t → P u) (hs : P s)
    (hb : P (startBlock s)) (x : AudioIn) : Yields P (execWordClockPeriod x s) := by
  obtain ⟨n, e | e⟩ := wordClockPeriod_cases s x
  · rw [e]; exact (yields_next _).2 (hP (mixSample_kept s x n) hs)
  · rw [e]; exact (yields_next _).2 (hP (mixSample_kept _ x n) hb)

/-! ## The full reset -/

theorem powerOn_room (pins : Pins) (i : SegId) : (State.powerOn pins).hall.room i = some (Room.reset i) := tab_get _ i

theorem powerOn_settingsOk (pins : Pins) : (State.powerOn pins).settingsOk = true := by
  rw [State.settingsOk_iff, Scanner.ok_iff, settingsOk_iff]
  refine ⟨⟨fun w => ?_, (by decide : 100 ≤ 750 ∧ 750 ≤ 5000), fun i => ?_, fun i => ?_⟩,
    fun i r hr => ?_, rfl⟩
  · exact (congrArg Wall.ok (tab_get _ w)).trans rfl
  · simp [State.powerOn]
  · refine (congrArg Defaults.ok (tab_get _ i)).trans ?_
    revert i
    decide
  · rw [powerOn_room] at hr
    cases hr
    rfl

theorem powerOn_windowsApart (pins : Pins) : (State.powerOn pins).hall.windowsApart := by
  rw [windowsApart_iff]
  refine ⟨fun i r hr => ?_, fun i j r r' hij hr hr' => ?_⟩
  · rw [powerOn_room] at hr
    cases hr
    exact .inr (by simp only [Room.reset]; omega)
  · rw [powerOn_room] at hr hr'
    cases hr
    cases hr'
    have : i.val ≠ j.val := fun e => hij (Fin.ext e)
    simp only [clear, Room.reset]
    omega

/-! ## Every command -/

/-- The commands and events on walls, defaults, ranks and times (R2 to R16). -/
theorem exec_ranged (c : Instr) (hc : mayRewrite c = true) : Yields (Ranged s) (exec c s) ∨
    (∃ pins, c = .fullReset pins) ∨ (∃ p tag l, c = .setRoom p tag l) ∨ (∃ p tag l, c = .setWindow p tag l) ∨
    c = .mixBlockStart ∨ ∃ x, c = .wordClockPeriod x := by
  have cmd : ∀ {α : Type} {p : PortId} {tag : Byte} {roles : List Role} {args : Option α} {body : α → Reply},
      (∀ a, (body a).Leaves (Ranged s)) → Yields (Ranged s) (answerNext (takeCommand s p tag roles args body)) :=
    fun hb => takeCommand_yields (fun k h => h.kept k) (.refl s) fun a _ => hb a
  have timed : ∀ {o}, Yields (WallTimed s) o → Yields (Ranged s) o := fun h t e => (h t e).ranged
  cases c with
  | contactEvent w closed stowed => exact .inl (timed (contactEvent_timed s w closed stowed))
  | settleTimerExpiry w => exact .inl (timed (settleTimerExpiry_timed s w))
  | stuckTimerExpiry w => exact .inl (timed (stuckTimerExpiry_timed s w))
  | defineWall p tag l => exact .inl (cmd (defineWall_leaves s))
  | wallOverride p tag l => exact .inl (cmd (wallOverride_leaves s))
  | lockWalls p tag l => exact .inl (cmd (lockWalls_leaves s))
  | setSegmentDefaults p tag l => exact .inl (cmd (setDefaults_leaves s))
  | setLeadRank p tag l => exact .inl (cmd (setLeadRank_leaves s))
  | setRegroupTimes p tag l => exact .inl (cmd (setTimes_leaves s))
  | fullReset pins => exact .inr (.inl ⟨pins, rfl⟩)
  | setRoom p tag l => exact .inr (.inr (.inl ⟨p, tag, l, rfl⟩))
  | setWindow p tag l => exact .inr (.inr (.inr (.inl ⟨p, tag, l, rfl⟩)))
  | mixBlockStart => exact .inr (.inr (.inr (.inr (.inl rfl))))
  | wordClockPeriod x => exact .inr (.inr (.inr (.inr (.inr ⟨x, rfl⟩))))
  | _ => cases hc

theorem exec_settingsOk {s : State} (c : Instr) (w : s.settingsOk = true) :
    Yields (fun t => t.settingsOk = true) (exec c s) := by
  cases hc : mayRewrite c
  · exact fun t e => (exec_kept s c hc t e).settingsOk w
  · rcases exec_ranged s c hc with h | ⟨pins, rfl⟩ | ⟨p, tag, l, rfl⟩ | ⟨p, tag, l, rfl⟩ | rfl | ⟨x, rfl⟩
    · exact fun t e => (h t e).settings w
    · exact (yields_next _).2 (powerOn_settingsOk pins)
    · exact takeRoomCommand_yields Kept.settingsOk w fun i fs => setRoom_leaves_ok s i fs w
    · exact takeRoomCommand_yields Kept.settingsOk w fun i a => setWindow_leaves_ok s i a w
    · exact (yields_next _).2 (startBlock_settingsOk w)
    · exact wordClockPeriod_yields s Kept.settingsOk w (startBlock_settingsOk w) x

theorem exec_windowsApart {s : State} (c : Instr) (w : s.hall.windowsApart) (hs : s.hall.seated) :
    Yields (fun t => t.hall.windowsApart) (exec c s) := by
  cases hc : mayRewrite c
  · exact fun t e => (exec_kept s c hc t e).windowsApart w
  · rcases exec_ranged s c hc with h | ⟨pins, rfl⟩ | ⟨p, tag, l, rfl⟩ | ⟨p, tag, l, rfl⟩ | rfl | ⟨x, rfl⟩
    · exact fun t e => windowsApart_of_layout (h t e).layout w
    · exact (yields_next _).2 (powerOn_windowsApart pins)
    · exact takeRoomCommand_yields Kept.windowsApart w fun i fs => setRoom_leaves_apart s i fs w
    · exact takeRoomCommand_yields Kept.windowsApart w fun i a => setWindow_leaves_apart s i a w
    · exact (yields_next _).2 (startBlock_windowsApart w hs)
    · exact wordClockPeriod_yields s Kept.windowsApart w (startBlock_windowsApart w hs) x

/-! ## Every step -/

theorem Wall.tick_ok {x : Wall} (h : x.ok = true) : x.tick.ok = true := by
  cases hp : x.pair with
  | some ab => exact Wall.ok_of_pair (x := x) (by rw [hp]; rfl) rfl h
  | none =>
    simp only [Wall.ok, hp, Bool.and_eq_true, decide_eq_true_eq] at h
    obtain ⟨⟨settled, settle⟩, stuck⟩ := h
    simp [Wall.ok, Wall.tick, hp, settled, settle, stuck, Stuck.tick]

theorem tick_layout : (tick s).hall.layout = s.hall.layout :=
  mapRooms_layout { s.hall with pools := (tick s).hall.pools } (fun _ r => { r with idle := r.idle.map (· - 1) })
    fun _ _ => rfl

theorem tick_settingsOk {s : State} (w : s.settingsOk = true) : (tick s).settingsOk = true := by
  rw [State.settingsOk_iff, Scanner.ok_iff] at w ⊢
  obtain ⟨⟨walls, rest⟩, rooms, times⟩ := w
  refine ⟨⟨fun v => ?_, rest⟩, settingsOk_of_layout (tick_layout s) rooms, times⟩
  exact (congrArg Wall.ok (tab_get _ v)).trans (Wall.tick_ok (walls v))

/-- A step executes a command on the state, whatever waits, or lets a millisecond pass. -/
theorem step_cases {s t : State} (e : step s = .next t) :
    (∃ c q, exec c { s with pending := q } = .next t) ∨ t = tick s := by
  unfold step at e
  split at e
  · next c rest _ => exact .inl ⟨c, rest, e⟩
  · split at e
    · next c _ => exact .inl ⟨c, s.pending, e⟩
    · cases e; exact .inr rfl

/-- Settles O12. -/
theorem settingsStayInRange : Obligations.SettingsStayInRange := by
  refine ⟨fun s t w e => ?_, fun s t maps w e => ?_⟩
  · rcases step_cases e with ⟨c, q, hc⟩ | rfl
    · exact exec_settingsOk (s := { s with pending := q }) c w t hc
    · exact tick_settingsOk w
  · rcases step_cases e with ⟨c, q, hc⟩ | rfl
    · exact exec_windowsApart (s := { s with pending := q }) c w (seated_of_divides maps.1) t hc
    · exact windowsApart_of_layout (tick_layout s) w

end Sys2Proof.Machine
end

section
/-! The wall scanner's statements: the lock (O16), contacts (O20), the timers (O21), DEFINE-WALL (O22), WALL-OVERRIDE and
LOCK-WALLS (O23). -/

namespace Sys2Proof.Machine

/-! ## The wall lock (R11) -/

/-- From `s` to `t` the wall lock and every wall's definition and override are kept. -/
structure LockFixed (s t : State) : Prop where
  lock  : t.scanner.lock = s.scanner.lock
  walls : ∀ w : WallId, (t.scanner.walls[w]).pair = (s.scanner.walls[w]).pair ∧
    (t.scanner.walls[w]).ovr = (s.scanner.walls[w]).ovr

namespace LockFixed

theorem of_scanner {s t : State} (e : t.scanner = s.scanner) : LockFixed s t := by
  constructor <;> simp [e]

theorem of_kept {s t : State} (k : Kept s t) : LockFixed s t := of_scanner k.scanner

theorem kept {s t u : State} (a : LockFixed s t) (b : Kept t u) : LockFixed s u :=
  ⟨(of_kept b).lock.trans a.lock, fun w =>
    ⟨((of_kept b).walls w).1.trans (a.walls w).1, ((of_kept b).walls w).2.trans (a.walls w).2⟩⟩

theorem of_timed {s t : State} : WallTimed s t → LockFixed s t := fun ⟨w, y, same, k⟩ => by
  refine kept (t := s.setWall w y) ⟨rfl, fun v => ?_⟩ k
  rw [State.setWall_scanner]
  simp only [put_get]
  split
  · next e => subst e; exact ⟨same.pair, same.ovr⟩
  · exact ⟨rfl, rfl⟩

end LockFixed

section
variable {s : State}

theorem defineWallBody_locked (hl : s.scanner.lock = true) (d : WallDefinition) :
    defineWallBody s d = .refuse .locked := if_pos hl

theorem wallOverrideBody_locked (hl : s.scanner.lock = true) (a : Byte × Byte) :
    wallOverrideBody s a = .refuse .locked := if_pos hl

theorem lockWallsBody_locked (hl : s.scanner.lock = true) (a : Unit) : lockWallsBody s a = .done false [] s :=
  if_pos hl

theorem setDefaults_fixed (a : Byte × List (Nat × FieldValue)) : (setDefaultsBody s a).Leaves (LockFixed s) := by
  simp only [setDefaultsBody]
  split
  · simp
  · refine Reply.leaves_ifs (by simp) fun _ => Reply.leaves_ifs (by simp) fun _ => Reply.leaves_ifs (by simp) fun _ => ?_
    rw [Reply.leaves_done]
    split <;> exact ⟨rfl, fun _ => ⟨rfl, rfl⟩⟩

theorem setLeadRank_fixed (a : Byte × Byte) : (setLeadRankBody s a).Leaves (LockFixed s) := by
  simp only [setLeadRankBody]
  split
  · simp
  · rw [Reply.leaves_done]
    split <;> exact ⟨rfl, fun _ => ⟨rfl, rfl⟩⟩

theorem setTimes_fixed (a : Nat × Nat × Nat) : (setTimesBody s a).Leaves (LockFixed s) :=
  (Reply.leaves_done _ _ _).2 ⟨rfl, fun _ => ⟨rfl, rfl⟩⟩

theorem setRoom_fixed (i : SegId) (fs : List (Nat × FieldValue)) : (setRoomBody s i fs).Leaves (LockFixed s) := by
  unfold setRoomBody
  repeat' split
  all_goals simp only [Reply.leaves_refuse, Reply.leaves_done]
  exact ⟨rfl, fun _ => ⟨rfl, rfl⟩⟩

theorem setWindow_fixed (i : SegId) (a : Nat × Nat) : (setWindowBody s i a).Leaves (LockFixed s) := by
  unfold setWindowBody
  repeat' split
  all_goals simp only [Reply.leaves_refuse, Reply.leaves_done]
  all_goals exact ⟨rfl, fun _ => ⟨rfl, rfl⟩⟩

theorem commit_scanner (s : State) : (commit s).scanner = s.scanner := by simp only [commit]

theorem reinitApply_scanner (s : State) : (reinitApply s).scanner = s.scanner := by simp only [reinitApply]

theorem applyPending_scanner (s : State) : (applyPending s).scanner = s.scanner := by
  unfold applyPending
  repeat' split
  · exact reinitApply_scanner s
  · exact commit_scanner s
  · rfl

theorem startBlock_scanner (s : State) : (startBlock s).scanner = s.scanner :=
  (startBlock_kept s).scanner.trans ((applyPending_scanner _).trans (settleBlock_kept s).scanner)

/-- With the lock set, every command but a full reset keeps lock, definitions and overrides (R11). -/
theorem exec_lockFixed (c : Instr) (hl : s.scanner.lock = true) (hc : ∀ pins, c ≠ .fullReset pins) :
    Yields (LockFixed s) (exec c s) := by
  have cmd : ∀ {α : Type} {p : PortId} {tag : Byte} {roles : List Role} {args : Option α} {body : α → Reply},
      (∀ a, (body a).Leaves (LockFixed s)) → Yields (LockFixed s) (answerNext (takeCommand s p tag roles args body)) :=
    fun hb => takeCommand_yields (fun k h => h.kept k) (.of_kept (.refl s)) fun a _ => hb a
  have timed : ∀ {o}, Yields (WallTimed s) o → Yields (LockFixed s) o := fun h t e => .of_timed (h t e)
  cases hm : mayRewrite c
  · exact fun t e => .of_kept (exec_kept s c hm t e)
  cases c with
  | fullReset pins => exact absurd rfl (hc pins)
  | contactEvent w closed stowed => exact timed (contactEvent_timed s w closed stowed)
  | settleTimerExpiry w => exact timed (settleTimerExpiry_timed s w)
  | stuckTimerExpiry w => exact timed (stuckTimerExpiry_timed s w)
  | defineWall p tag l => exact cmd fun d => by rw [defineWallBody_locked hl]; simp
  | wallOverride p tag l => exact cmd fun a => by rw [wallOverrideBody_locked hl]; simp
  | lockWalls p tag l =>
    exact cmd fun a => by rw [lockWallsBody_locked hl, Reply.leaves_done]; exact .of_kept (.refl s)
  | setSegmentDefaults p tag l => exact cmd setDefaults_fixed
  | setLeadRank p tag l => exact cmd setLeadRank_fixed
  | setRegroupTimes p tag l => exact cmd setTimes_fixed
  | setRoom p tag l => exact takeRoomCommand_yields (fun k h => h.kept k) (.of_kept (.refl s)) setRoom_fixed
  | setWindow p tag l => exact takeRoomCommand_yields (fun k h => h.kept k) (.of_kept (.refl s)) setWindow_fixed
  | mixBlockStart => exact (yields_next _).2 (LockFixed.of_scanner (startBlock_scanner s))
  | wordClockPeriod x =>
    exact wordClockPeriod_yields s (fun k h => h.kept k) (.of_kept (.refl s)) (LockFixed.of_scanner (startBlock_scanner s)) x
  | _ => cases hm

end

/-- Settles O16. -/
theorem wallLockStays : Obligations.WallLockStays := by
  intro c s t hl hc e
  have fixed := exec_lockFixed c hl hc t e
  exact ⟨fixed.lock.trans hl, fixed.walls⟩

/-! ## Contacts (R2, R3) -/

theorem pairSegs_some {w : Wall} {a b : SegId} (e : w.pair = some (a, b)) : pairSegs w = setOf a ||| setOf b := by
  simp only [pairSegs, e]

theorem pairSegs_of_pair {x y : Wall} (e : y.pair = x.pair) : pairSegs y = pairSegs x := by
  simp only [pairSegs, e]

section
variable {w : WallId} {closed stowed : Bool} {s : State}

/-- Contacts that read as before are no event. -/
theorem contactEvent_same (h : readingOf closed stowed = (s.scanner.walls[w]).raw) :
    exec (.contactEvent w closed stowed) s = .next s := if_pos h

/-- A new reading of an undefined wall is stored (R2). -/
theorem contactEvent_undefined (hn : readingOf closed stowed ≠ (s.scanner.walls[w]).raw)
    (hp : (s.scanner.walls[w]).pair = none) : exec (.contactEvent w closed stowed) s =
      .next (s.setWall w { s.scanner.walls[w] with raw := readingOf closed stowed }) :=
  (if_neg hn).trans (if_pos (by rw [hp]; rfl))

/-- A new reading of a defined wall (R3). -/
theorem contactEvent_defined (hn : readingOf closed stowed ≠ (s.scanner.walls[w]).raw)
    (hp : (s.scanner.walls[w]).pair ≠ none) : exec (.contactEvent w closed stowed) s =
      .next ((wallChange (s.setWall w ((s.scanner.walls[w]).contacted s.scanner.settleTime
        (readingOf closed stowed)))).raised .wall (pairSegs s.scanner.walls[w])) :=
  (if_neg hn).trans (if_neg (by simpa using hp))

end

/-- Settles O20. -/
theorem contactEvent : Obligations.ContactEvent := by
  refine ⟨rfl, rfl, rfl, rfl, fun w closed stowed s => ⟨contactEvent_same, fun hp => ?_, fun a b hp hn => ?_⟩⟩
  · by_cases hn : readingOf closed stowed = (s.scanner.walls[w]).raw
    · refine ⟨s, contactEvent_same hn, ?_⟩
      simp only [hn]
      exact congrArg (fun v => ({ s with scanner := { s.scanner with walls := v } } : State))
        (put_read s.scanner.walls w).symm
    · exact ⟨_, contactEvent_undefined hn hp, rfl⟩
  · refine ⟨_, contactEvent_defined hn (by rw [hp]; simp), ?_⟩
    rw [pairSegs_some hp]
    rfl

/-! ## The timers of a wall (R4, R5, R7, R8) -/

theorem effective_undefined {w : Wall} (h : w.pair = none) : effective w = none := by
  simp [effective, h]

/-- The effective state of a defined wall: its override, where one is set, else its settled state (R7). -/
theorem effective_defined {w : Wall} (h : w.pair ≠ none) :
    effective w = some (match w.ovr with | .follow => w.settled | .forceOpen => .opened | .forceClosed => .closed) := by
  unfold effective
  rw [if_neg (by simpa using h)]
  cases w.ovr <;> rfl

theorem unsettled_eq_false (w : Wall) :
    unsettled w = false ↔ (w.pair ≠ none → w.settle = none ∧ ∀ ms, w.stuck ≠ .running ms) := by
  unfold unsettled
  cases w.pair <;> cases w.settle <;> cases w.stuck <;> simp

theorem atRest_iff (sc : Scanner) : atRest sc = true ↔ ∀ w : WallId, (sc.walls[w]).pair ≠ none →
    (sc.walls[w]).settle = none ∧ ∀ ms, (sc.walls[w]).stuck ≠ .running ms := by
  simp only [atRest, List.all_eq_true, List.mem_finRange, forall_const, Bool.not_eq_true', unsettled_eq_false]

/-- A wall with a running timer is out of rest (R8). -/
theorem not_atRest {sc : Scanner} {w : WallId} (hp : (sc.walls[w]).pair ≠ none) (hs : (sc.walls[w]).settle ≠ none) :
    atRest sc = false := by
  rw [Bool.eq_false_iff]
  exact fun h => hs (((atRest_iff sc).1 h w hp).1)

/-- A settled state written to wall `w`, whose record was `x`: WALL where it changed, a wall change where the effective
state did (R8, R12, R24). -/
def State.wallSettled (s : State) (w : WallId) (x y : Wall) : State :=
  { s with
    scanner := { s.scanner with walls := put s.scanner.walls w y },
    regroup := if effective y = effective x then s.regroup else s.regroup.unrested,
    hall := if y.settled = x.settled then s.hall else raise .wall (pairSegs x) s.hall }

theorem settledChanged_eq (s : State) (w : WallId) {x y : Wall} (hp : y.pair = x.pair) :
    settledChanged (s.setWall w y) x y = restIfAtRest (s.wallSettled w x y) := by
  simp only [settledChanged, State.wallSettled, pairSegs_of_pair hp]
  by_cases hs : y.settled = x.settled <;> by_cases he : effective y = effective x <;> simp only [hs, he, if_true, if_false]
  all_goals rfl

section
variable {w : WallId} {s : State}

theorem settleTimerExpiry_idle (h : (s.scanner.walls[w]).pair = none ∨ (s.scanner.walls[w]).settle = none) :
    exec (.settleTimerExpiry w) s = .next s :=
  if_neg (by rcases h with h | h <;> rw [h] <;> simp)

theorem settleTimerExpiry_due (hp : (s.scanner.walls[w]).pair ≠ none) (hs : (s.scanner.walls[w]).settle ≠ none) :
    exec (.settleTimerExpiry w) s = .next (restIfAtRest (s.wallSettled w s.scanner.walls[w]
      { s.scanner.walls[w] with
        settle := none, settled := settledBy (s.scanner.walls[w]).raw (s.scanner.walls[w]).settled })).sweep := by
  refine (if_pos ?_).trans ?_
  · simp only [Bool.and_eq_true, Option.isSome_iff_ne_none]
    exact ⟨hp, hs⟩
  · rw [settledChanged_eq]
    rfl

theorem stuckTimerExpiry_idle
    (h : (s.scanner.walls[w]).pair = none ∨ ∀ ms, (s.scanner.walls[w]).stuck ≠ .running ms) :
    exec (.stuckTimerExpiry w) s = .next s := by
  show execStuckTimerExpiry w s = .next s
  simp only [execStuckTimerExpiry]
  split
  · next hp ms =>
    rcases h with h | h
    · rw [h] at hp; cases hp
    · exact absurd ms (h _)
  · rfl

theorem stuckTimerExpiry_due {ms : Nat} (hp : (s.scanner.walls[w]).pair ≠ none)
    (hs : (s.scanner.walls[w]).stuck = .running ms) :
    exec (.stuckTimerExpiry w) s = .next (restIfAtRest (s.wallSettled w s.scanner.walls[w]
      { s.scanner.walls[w] with stuck := .expired, settled := .fault })).sweep := by
  obtain ⟨ab, hab⟩ := Option.ne_none_iff_exists'.1 hp
  show execStuckTimerExpiry w s = _
  simp only [execStuckTimerExpiry]
  split
  · rw [settledChanged_eq]
    rfl
  · next h => exact absurd hs (h ab ms hab)

end

/-- Settles O21. -/
theorem wallTimerExpiry : Obligations.WallTimerExpiry := by
  refine ⟨fun w => ⟨effective_undefined, fun hp => ?_, fun a b => pairSegs_some⟩, atRest_iff, fun w s => ?_⟩
  · rw [effective_defined hp]
    refine ⟨fun h => ?_, fun h => ?_, fun h => ?_⟩ <;> rw [h]
  · refine ⟨settleTimerExpiry_idle, fun ⟨hp, hs⟩ => ⟨_, settleTimerExpiry_due hp hs, rfl⟩, stuckTimerExpiry_idle,
      fun ms hp hs => ⟨_, stuckTimerExpiry_due hp hs, rfl⟩⟩
end Sys2Proof.Machine
end

section
/-! The venue's commands on walls and settings of one value: DEFINE-WALL (O22), WALL-OVERRIDE and LOCK-WALLS (O23),
SET-LEAD-RANK, SET-REGROUP-TIMES and SET-ROLLCALL (O25). -/

namespace Sys2Proof.Machine

/-! ## A command that a port admits -/

section
variable {α : Type} {s : State} {p : PortId} {tag : Byte} {roles : List Role} {a : α} {body : α → Reply}

theorem takeCommand_refused (ha : s.admits p roles) {st : Status} (e : body a = .refuse st) :
    takeCommand s p tag roles (some a) body = setAnswer s p tag st [] := by
  rw [takeCommand_body ha.1 (List.contains_iff_mem.2 ha.2), e]

theorem takeCommand_done (ha : s.admits p roles) {c : Bool} {l : List Byte} {t : State} (e : body a = .done c l t) :
    takeCommand s p tag roles (some a) body = setAnswer t p tag (doneStatus c) l := by
  rw [takeCommand_body ha.1 (List.contains_iff_mem.2 ha.2), e]

theorem takeCommand_unread (ha : s.admits p roles) :
    takeCommand s p tag roles none body = setAnswer s p tag .range [] := by
  unfold takeCommand
  rw [if_neg (by rw [ha.1]; simp), if_neg (by simpa using ha.2)]

end

theorem doneStatus_ne (m n : Nat) : doneStatus (decide (m ≠ n)) = if m = n then .done else .doneClamped := by
  by_cases h : m = n <;> simp [doneStatus, h]

theorem doneStatus_of_iff {c : Bool} {P : Prop} [Decidable P] (h : c = false ↔ P) :
    doneStatus c = if P then .done else .doneClamped := by
  cases c
  · rw [if_pos (h.1 rfl)]; rfl
  · rw [if_neg fun hp => absurd (h.2 hp) (by decide)]; rfl

theorem idOf_eq_none {n : Nat} {b : Byte} : idOf n b = none ↔ n ≤ b.toNat := by
  unfold idOf
  split <;> simp <;> omega

/-! ## DEFINE-WALL (R9) -/

theorem parseDefineWall_pair {o wb ab bb : Byte} (h : o.getLsbD 0 = false) :
    parseDefineWall [o, wb, ab, bb] = some (.pair wb ab bb) := by simp only [parseDefineWall, h]; rfl

theorem parseDefineWall_undefine {o wb : Byte} (h : o.getLsbD 0 = true) :
    parseDefineWall [o, wb] = some (.undefine wb) := if_pos h

section
variable {s : State}

theorem defineWallBody_range {wb ab bb : Byte} (hl : s.scanner.lock = false)
    (h : idOf 12 wb = none ∨ idOf 8 ab = none ∨ idOf 8 bb = none ∨ ab = bb) :
    defineWallBody s (.pair wb ab bb) = .refuse .range := by
  simp only [defineWallBody, hl]
  rw [if_neg (by simp)]
  split
  · next w a b hw ha hb =>
    rcases h with h | h | h | h
    · simp [hw] at h
    · simp [ha] at h
    · simp [hb] at h
    · subst h
      rw [if_pos (Option.some.inj (ha.symm.trans hb))]
  · rfl

theorem defineWallBody_pair {wb ab bb : Byte} {w : WallId} {a b : SegId} (hl : s.scanner.lock = false)
    (hw : idOf 12 wb = some w) (ha : idOf 8 ab = some a) (hb : idOf 8 bb = some b) (hab : a ≠ b) :
    defineWallBody s (.pair wb ab bb) =
      if (s.scanner.walls[w]).pair = some (a, b) || (s.scanner.walls[w]).pair = some (b, a) then .done false [] s
      else .done false [] (rewriteWall s w ((s.scanner.walls[w]).definedAs s.scanner.settleTime a b)).sweep := by
  simp only [defineWallBody, hl, hw, ha, hb]
  rw [if_neg (by simp), if_neg hab]

theorem defineWallBody_undefine {wb : Byte} {w : WallId} (hl : s.scanner.lock = false) (hw : idOf 12 wb = some w) :
    defineWallBody s (.undefine wb) =
      if (s.scanner.walls[w]).pair.isNone then .done false [] s
      else .done false [] (rewriteWall s w (s.scanner.walls[w]).undefined).sweep := by
  simp only [defineWallBody, hl, hw]
  rw [if_neg (by simp)]

theorem defineWallBody_undefine_range {wb : Byte} (hl : s.scanner.lock = false) (hw : idOf 12 wb = none) :
    defineWallBody s (.undefine wb) = .refuse .range := by
  simp only [defineWallBody, hl, hw]
  rw [if_neg (by simp)]

/-- A wall just defined is out of rest, so no rest report follows (R8, R9). -/
theorem rewriteWall_defined (w : WallId) (a b : SegId) :
    rewriteWall s w ((s.scanner.walls[w]).definedAs s.scanner.settleTime a b) =
      (wallChange (s.setWall w ((s.scanner.walls[w]).definedAs s.scanner.settleTime a b))).raised .wall
        (pairSegs s.scanner.walls[w] ||| (setOf a ||| setOf b)) := by
  simp only [rewriteWall, restIfAtRest]
  refine if_neg (Bool.eq_false_iff.1 (not_atRest (w := w) ?_ ?_))
  · show ((put s.scanner.walls w _)[w]).pair ≠ none
    rw [put_get_self]
    exact Option.some_ne_none _
  · show ((put s.scanner.walls w _)[w]).settle ≠ none
    rw [put_get_self]
    exact Option.some_ne_none _

/-- An undefined wall adds no segment to the event. -/
theorem rewriteWall_undefined (w : WallId) :
    rewriteWall s w (s.scanner.walls[w]).undefined =
      restIfAtRest ((wallChange (s.setWall w (s.scanner.walls[w]).undefined)).raised .wall
        (pairSegs s.scanner.walls[w])) :=
  congrArg (fun m => restIfAtRest ((wallChange (s.setWall w _)).raised .wall m)) BitVec.or_zero

end

/-- Settles O22. -/
theorem defineWall : Obligations.DefineWall := by
  intro s p tag o wb ab bb ha
  refine ⟨fun hl => ⟨fun ho => ?_, fun ho => ?_⟩, fun hl ho => ⟨fun h => ?_, fun w a b hw hsa hsb hab => ?_⟩,
    fun hl ho => ⟨fun h => ?_, fun w hw => ?_⟩⟩
  · show Host.Outcome.next (takeCommand _ _ _ _ (parseDefineWall _) _) = _
    rw [parseDefineWall_pair ho, takeCommand_refused ha (defineWallBody_locked hl _)]
  · show Host.Outcome.next (takeCommand _ _ _ _ (parseDefineWall _) _) = _
    rw [parseDefineWall_undefine ho, takeCommand_refused ha (defineWallBody_locked hl _)]
  · show Host.Outcome.next (takeCommand _ _ _ _ (parseDefineWall _) _) = _
    rw [parseDefineWall_pair ho, takeCommand_refused ha (defineWallBody_range hl h)]
  · have body := defineWallBody_pair hl hw hsa hsb hab
    refine ⟨fun h => ?_, fun h1 h2 => ?_⟩
    · show Host.Outcome.next (takeCommand _ _ _ _ (parseDefineWall _) _) = _
      rw [if_pos (by simpa using h)] at body
      rw [parseDefineWall_pair ho, takeCommand_done ha body]
      rfl
    · show Host.Outcome.next (takeCommand _ _ _ _ (parseDefineWall _) _) = _
      rw [if_neg (by simpa using ⟨h1, h2⟩), rewriteWall_defined] at body
      rw [parseDefineWall_pair ho, takeCommand_done ha body]
      rfl
  · show Host.Outcome.next (takeCommand _ _ _ _ (parseDefineWall _) _) = _
    rw [parseDefineWall_undefine ho, takeCommand_refused ha (defineWallBody_undefine_range hl h)]
  · have body := defineWallBody_undefine hl hw
    refine ⟨fun h => ?_, fun h => ⟨_, ?_, rfl⟩⟩
    · show Host.Outcome.next (takeCommand _ _ _ _ (parseDefineWall _) _) = _
      rw [if_pos (by rw [h]; rfl)] at body
      rw [parseDefineWall_undefine ho, takeCommand_done ha body]
      rfl
    · show Host.Outcome.next (takeCommand _ _ _ _ (parseDefineWall _) _) = _
      rw [if_neg (by simpa using h), rewriteWall_undefined] at body
      rw [parseDefineWall_undefine ho, takeCommand_done ha body]
      rfl

/-! ## WALL-OVERRIDE and LOCK-WALLS (R10, R11) -/

theorem overrideOf_eq_none {n : Nat} (h : 2 < n) : overrideOf n = none := by
  unfold overrideOf
  split <;> first | omega | rfl

theorem overrideOf_named {ob : Byte} {o : Override}
    (h : (ob = 0 ∧ o = Override.follow) ∨ (ob = 1 ∧ o = .forceOpen) ∨ (ob = 2 ∧ o = .forceClosed)) :
    overrideOf ob.toNat = some o := by
  rcases h with ⟨rfl, rfl⟩ | ⟨rfl, rfl⟩ | ⟨rfl, rfl⟩ <;> rfl

section
variable {s : State}

theorem wallOverrideBody_range {wb ob : Byte} (hl : s.scanner.lock = false) (h : idOf 12 wb = none ∨ 2 < ob.toNat) :
    wallOverrideBody s (wb, ob) = .refuse .range := by
  simp only [wallOverrideBody, hl]
  rw [if_neg (by simp)]
  split
  · next hw ho =>
    rcases h with h | h
    · rw [h] at hw; cases hw
    · rw [overrideOf_eq_none h] at ho; cases ho
  · rfl

theorem wallOverrideBody_store {wb ob : Byte} {w : WallId} {o : Override} (hl : s.scanner.lock = false)
    (hw : idOf 12 wb = some w) (ho : overrideOf ob.toNat = some o) :
    wallOverrideBody s (wb, ob) = .done false [] (storeOverride s w o) := by
  simp only [wallOverrideBody, hl, hw, ho]
  rw [if_neg (by simp)]

theorem storeOverride_same {w : WallId} {o : Override} (h : (s.scanner.walls[w]).ovr = o) :
    storeOverride s w o = s := if_pos h

/-- A new override raises WALL; a change of the effective state is a wall change, with its rest report (R10). -/
theorem storeOverride_new {w : WallId} {o : Override} (h : (s.scanner.walls[w]).ovr ≠ o) :
    let x := s.scanner.walls[w]
    let y : Wall := { x with ovr := o }
    let s1 : State := { s with
      scanner := { s.scanner with walls := put s.scanner.walls w y },
      regroup := if effective y = effective x then s.regroup else s.regroup.unrested,
      hall := raise .wall (pairSegs x) s.hall }
    storeOverride s w o = (if effective y ≠ effective x ∧ atRest s1.scanner = true then restReport s1 else s1).sweep := by
  intro x y s1
  refine (if_neg h).trans (congrArg State.sweep ?_)
  by_cases he : effective y = effective x
  · have : s1 = (s.setWall w y).raised .wall (pairSegs x) := by simp only [s1, if_pos he]; rfl
    rw [if_neg (not_and_of_not_left _ (not_not_intro he)), this]
    refine (if_pos ?_)
    exact he
  · have : s1 = wallChange ((s.setWall w y).raised .wall (pairSegs x)) := by simp only [s1, if_neg he]; rfl
    refine (if_neg he).trans ?_
    simp only [he, ne_eq, not_false_eq_true, true_and]
    rw [this]
    rfl

end

/-- Settles O23. -/
theorem overrideAndLock : Obligations.OverrideAndLock := by
  intro s p tag wb ob ha
  refine ⟨fun hl => ⟨?_, ?_⟩, fun hl => ⟨?_, fun h => ?_, fun w o hw ho => ⟨fun h => ?_, fun h => ⟨_, rfl, ?_⟩⟩⟩⟩
  · exact congrArg Host.Outcome.next (takeCommand_refused ha (wallOverrideBody_locked hl _))
  · exact congrArg Host.Outcome.next (takeCommand_done ha (lockWallsBody_locked hl _))
  · refine congrArg Host.Outcome.next (takeCommand_done (c := false) (l := []) ha ?_)
    exact if_neg (by rw [hl]; simp)
  · exact congrArg Host.Outcome.next (takeCommand_refused ha (wallOverrideBody_range hl h))
  · have body := wallOverrideBody_store hl hw (overrideOf_named ho)
    rw [storeOverride_same h] at body
    exact congrArg Host.Outcome.next (takeCommand_done ha body)
  · have body := wallOverrideBody_store hl hw (overrideOf_named ho)
    rw [storeOverride_new h] at body
    exact congrArg Host.Outcome.next (takeCommand_done ha body)

/-! ## Settings of one value (R6, R14, R29, R54) -/

theorem setLeadRankBody_store {s : State} {sb nb : Byte} {sg : SegId} (h : idOf 8 sb = some sg) :
    setLeadRankBody s (sb, nb) = .done (decide (min nb.toNat 15 ≠ nb.toNat)) []
      { s with
        scanner := { s.scanner with ranks := put s.scanner.ranks sg (min nb.toNat 15) },
        hall := if min nb.toNat 15 = s.scanner.ranks[sg] then s.hall else raise .wall (setOf sg) s.hall } := by
  simp only [setLeadRankBody, h]
  congr 1
  split <;> rfl

theorem setLeadRankBody_range {s : State} {sb nb : Byte} (h : 7 < sb.toNat) :
    setLeadRankBody s (sb, nb) = .refuse .range := by
  have : idOf 8 sb = none := idOf_eq_none.2 h
  simp only [setLeadRankBody, this]

/-- The greatest allowed probe count at or below a value is the one stored (R54). -/
theorem clampProbes_eq {m n : Nat} (hm : m ∈ [0, 1, 2, 4, 8]) (hn : m ≤ n)
    (hmax : ∀ k ∈ [0, 1, 2, 4, 8], k ≤ n → k ≤ m) : clampProbes n = m := by
  have h1 := hmax 1 (by decide)
  have h2 := hmax 2 (by decide)
  have h4 := hmax 4 (by decide)
  have h8 := hmax 8 (by decide)
  simp only [List.mem_cons, List.not_mem_nil, or_false] at hm
  unfold clampProbes
  repeat' split
  all_goals omega

/-- Settles O25. -/
theorem venueSettings : Obligations.VenueSettings := by
  intro s p tag ha
  refine ⟨fun sb nb => ⟨fun h => ?_, fun sg hsg => ?_⟩, fun a b c d e f => ?_,
    fun tb nb => ⟨fun h => ?_, fun k m hk hm hn hmax => ?_⟩⟩
  · exact congrArg Host.Outcome.next (takeCommand_refused ha (setLeadRankBody_range h))
  · refine (congrArg Host.Outcome.next (takeCommand_done ha (setLeadRankBody_store hsg))).trans ?_
    rw [doneStatus_ne]
    simp only [min_eq_left_iff]
  · refine (congrArg Host.Outcome.next (takeCommand_done (a := (wordOf a b, wordOf c d, wordOf e f)) ha rfl)).trans ?_
    congr 2
    refine doneStatus_of_iff ?_
    show (_ || _ || _) = false ↔ _
    simp only [Bool.or_eq_false_iff, decide_eq_false_iff_not, not_not]
    simp only [clampTo]
    omega
  · have : idOf 4 tb = none := idOf_eq_none.2 h
    exact congrArg Host.Outcome.next (takeCommand_refused ha (by simp only [setRollcallBody, this]))
  · have body : setRollcallBody s (tb, nb) =
        .done (decide (m ≠ nb.toNat)) [] (s.setTrunk k { s.trunks[k] with probes := m }) := by
      simp only [setRollcallBody, hk, clampProbes_eq hm hn hmax]
    refine (congrArg Host.Outcome.next (takeCommand_done ha body)).trans ?_
    rw [doneStatus_ne]
    rfl

end Sys2Proof.Machine
end

section
/-! SET-SEGMENT-DEFAULTS (R16): the refusals in their order, and what is stored (O24). -/

namespace Sys2Proof.Machine

/-! ## What makes the fields refused -/

/-- A mode, a window base, a language code or a floor language out of range. -/
def WrongDefaults (fs : List (Nat × FieldValue)) : Prop :=
  (∃ n, ((1, .word n) ∈ fs ∧ 2 < n) ∨ ((15, .word n) ∈ fs ∧ 31 < n) ∨ ((18, .word n) ∈ fs ∧ 63 < n)) ∨
    ∃ (cs : List Nat) (c : Nat), (17, .list cs) ∈ fs ∧ c ∈ cs ∧ (c = 0 ∨ 63 < c)

theorem badDefault_iff (f : Nat × FieldValue) : badDefault f = true ↔
    (∃ n, (f = (15, .word n) ∧ 31 < n) ∨ (f = (18, .word n) ∧ 63 < n)) ∨
      ∃ (cs : List Nat) (c : Nat), f = (17, .list cs) ∧ c ∈ cs ∧ (c = 0 ∨ 63 < c) := by
  unfold badDefault
  split
  · simp
  · simp
  · simp
  · next h15 h17 h18 => simp_all

theorem wrongDefaults_iff (fs : List (Nat × FieldValue)) :
    (badMode fs || fs.any badDefault) = true ↔ WrongDefaults fs := by
  simp only [Bool.or_eq_true, badMode_iff, List.any_eq_true, badDefault_iff]
  constructor
  · rintro (⟨n, hm, hn⟩ | ⟨f, hf, ⟨n, ⟨rfl, hn⟩ | ⟨rfl, hn⟩⟩ | ⟨cs, c, rfl, hc⟩⟩)
    · exact .inl ⟨n, .inl ⟨hm, hn⟩⟩
    · exact .inl ⟨n, .inr (.inl ⟨hf, hn⟩)⟩
    · exact .inl ⟨n, .inr (.inr ⟨hf, hn⟩)⟩
    · exact .inr ⟨cs, c, hf, hc⟩
  · rintro (⟨n, ⟨hm, hn⟩ | ⟨hm, hn⟩ | ⟨hm, hn⟩⟩ | ⟨cs, c, hm, hc⟩)
    · exact .inl ⟨n, hm, hn⟩
    · exact .inr ⟨_, hm, .inl ⟨n, .inl ⟨rfl, hn⟩⟩⟩
    · exact .inr ⟨_, hm, .inl ⟨n, .inr ⟨rfl, hn⟩⟩⟩
    · exact .inr ⟨_, hm, .inr ⟨cs, c, rfl, hc⟩⟩

theorem badWanted_iff (bad : List Nat → Bool) (fs : List (Nat × FieldValue)) :
    badWanted bad fs = true ↔ ∃ cs, (17, .list cs) ∈ fs ∧ bad cs = true := by
  simp only [badWanted, List.any_eq_true]
  constructor
  · rintro ⟨f, hf, h⟩
    split at h
    · exact ⟨_, hf, h⟩
    · cases h
  · rintro ⟨cs, hm, h⟩
    exact ⟨_, hm, h⟩

theorem repeats_iff (l : List Nat) : repeats l = true ↔ ¬l.Nodup := by
  rw [← repeats_eq_false, Bool.not_eq_false]

/-! ## The command -/

section
variable {s : State} {sb : Byte} {sg : SegId} {fs : List (Nat × FieldValue)}

theorem setDefaultsBody_noSegment (h : idOf 8 sb = none) : setDefaultsBody s (sb, fs) = .refuse .range := by
  simp only [setDefaultsBody, h]

theorem setDefaultsBody_wrong (h : idOf 8 sb = some sg) (wrong : WrongDefaults fs) :
    setDefaultsBody s (sb, fs) = .refuse .range := by
  simp only [setDefaultsBody, h, wrongDefaults_iff, wrong, if_true]

theorem setDefaultsBody_twice (h : idOf 8 sb = some sg) (wrong : ¬WrongDefaults fs)
    (twice : ∃ cs : List Nat, (17, .list cs) ∈ fs ∧ ¬cs.Nodup) :
    setDefaultsBody s (sb, fs) = .refuse .duplicate := by
  simp only [setDefaultsBody, h, wrongDefaults_iff, badWanted_iff, repeats_iff, wrong, twice, if_true, if_false]

theorem setDefaultsBody_long (h : idOf 8 sb = some sg) (wrong : ¬WrongDefaults fs)
    (twice : ¬∃ cs : List Nat, (17, .list cs) ∈ fs ∧ ¬cs.Nodup)
    (long : ∃ cs : List Nat, (17, .list cs) ∈ fs ∧ 15 < cs.length) :
    setDefaultsBody s (sb, fs) = .refuse .full := by
  simp only [setDefaultsBody, h, wrongDefaults_iff, badWanted_iff, repeats_iff, wrong, twice, decide_eq_true_eq, long,
    if_true, if_false]

/-- The state in which a segment's defaults record is `d`, with WALL for the segment where it changed (R16). -/
def State.withDefaults (s : State) (sg : SegId) (d : Defaults) : State :=
  { s with
    scanner := { s.scanner with defaults := put s.scanner.defaults sg d },
    hall := if d = s.scanner.defaults[sg] then s.hall else raise .wall (setOf sg) s.hall }

theorem setDefaultsBody_stored (h : idOf 8 sb = some sg) (wrong : ¬WrongDefaults fs)
    (twice : ¬∃ cs : List Nat, (17, .list cs) ∈ fs ∧ ¬cs.Nodup)
    (long : ¬∃ cs : List Nat, (17, .list cs) ∈ fs ∧ 15 < cs.length) :
    setDefaultsBody s (sb, fs) =
      .done ((s.scanner.defaults[sg]).settings.clampedBy fs || outOfRange fs 16 16) []
        (s.withDefaults sg ((s.scanner.defaults[sg]).named fs)) := by
  have modes : badMode fs = false := by
    have := mt (wrongDefaults_iff fs).1 wrong
    simp only [Bool.or_eq_true, not_or, Bool.not_eq_true] at this
    exact this.1
  simp only [setDefaultsBody, h, wrongDefaults_iff, badWanted_iff, repeats_iff, wrong, twice, decide_eq_true_eq, long,
    if_false, writeDefaults_named _ _ modes, State.withDefaults]
  congr 1
  split <;> rfl

end

/-! ## One field -/

theorem parseDefaults_word {sb f hi lo : Byte} (h1 : 1 ≤ f.toNat) (h18 : f.toNat ≤ 18) (h17 : f.toNat ≠ 17) :
    parseDefaults [sb, 1, f, hi, lo] = some (sb, [(f.toNat, .word (wordOf hi lo))]) := by
  have : defaultsFieldKind f.toNat = some false := by
    rw [defaultsFieldKind, if_neg h17, if_pos ⟨h1, h18⟩]
  show ((fieldItems defaultsFieldKind 1 [f, hi, lo]).map _) = _
  simp only [fieldItems, this]
  rfl

theorem parseDefaults_noField {sb f hi lo : Byte} (h : f = 0 ∨ 18 < f.toNat) :
    parseDefaults [sb, 1, f, hi, lo] = none := by
  have : defaultsFieldKind f.toNat = none := by
    rcases h with rfl | h
    · rfl
    · rw [defaultsFieldKind, if_neg (by omega), if_neg (by omega)]
  show ((fieldItems defaultsFieldKind 1 [f, hi, lo]).map _) = _
  simp only [fieldItems, this]
  rfl

theorem parseDefaults_list {sb lo : Byte} : parseDefaults [sb, 1, 17, 1, lo] = some (sb, [(17, .list [lo.toNat])]) := rfl

/-- A wanted list of no code or of more codes than follow is no payload. -/
theorem parseDefaults_noList {sb hi lo : Byte} (h : hi ≠ 1) : parseDefaults [sb, 1, 17, hi, lo] = none := by
  show Option.map _ (if 1 < hi.toNat then none
    else (fieldItems defaultsFieldKind 0 ([lo].drop hi.toNat)).map fun l =>
      (17, FieldValue.list (([lo].take hi.toNat).map (·.toNat))) :: l) = none
  split
  · rfl
  · have : hi.toNat ≠ 1 := fun e => h (BitVec.eq_of_toNat_eq e)
    rw [show hi.toNat = 0 by omega]
    rfl

theorem wrongDefaults_word (k n : Nat) :
    WrongDefaults [(k, .word n)] ↔ (k = 1 ∧ 2 < n) ∨ (k = 15 ∧ 31 < n) ∨ (k = 18 ∧ 63 < n) := by
  simp only [WrongDefaults, List.mem_singleton, Prod.mk.injEq, FieldValue.word.injEq, reduceCtorEq, and_false, false_and,
    exists_const, or_false]
  constructor
  · rintro ⟨m, ⟨⟨rfl, rfl⟩, h⟩ | ⟨⟨rfl, rfl⟩, h⟩ | ⟨⟨rfl, rfl⟩, h⟩⟩ <;> simp [h]
  · rintro (⟨rfl, h⟩ | ⟨rfl, h⟩ | ⟨rfl, h⟩)
    · exact ⟨n, .inl ⟨⟨rfl, rfl⟩, h⟩⟩
    · exact ⟨n, .inr (.inl ⟨⟨rfl, rfl⟩, h⟩)⟩
    · exact ⟨n, .inr (.inr ⟨⟨rfl, rfl⟩, h⟩)⟩

theorem wrongDefaults_list (c : Nat) : WrongDefaults [(17, .list [c])] ↔ c = 0 ∨ 63 < c := by
  simp [WrongDefaults]

/-! What one named value leaves of a defaults record, and whether it is answered as clamped. -/

section
variable {d : Defaults} {k n : Nat}

/-- The jump is below the max where there is one, so the jump rule has nothing to do (R15, R16). -/
def Defaults.Calm (d : Defaults) : Prop := ¬(0 < d.settings.max ∧ d.settings.max ≤ d.settings.jump)

theorem Defaults.calm_of_ok (h : d.ok = true) : d.Calm := by
  obtain ⟨-, -, -, -, -, -, -, jump, -⟩ := (Settings.ok_iff _).1 ((Defaults.ok_iff _).1 h).1
  unfold Defaults.Calm
  omega

/-- A named value is brought into its range or the jump rule acts, so that the answer is DONE-CLAMPED. -/
def Defaults.clampedBy (d : Defaults) (fs : List (Nat × FieldValue)) : Bool :=
  d.settings.clampedBy fs || outOfRange fs 16 16

theorem Defaults.clampedBy_word_iff : d.clampedBy [(k, .word n)] = true ↔
    (2 ≤ k ∧ k ≤ 16 ∧ k ≠ 15 ∧ nearest k n ≠ n) ∨
      (0 < fieldAfter [(k, .word n)] 9 d.settings.max ∧
        fieldAfter [(k, .word n)] 9 d.settings.max ≤ fieldAfter [(k, .word n)] 8 d.settings.jump) := by
  simp only [Defaults.clampedBy, Settings.clampedBy, outOfRange, List.any_cons, List.any_nil, Bool.or_false, Bool.or_eq_true,
    Bool.and_eq_true, decide_eq_true_eq]
  omega

theorem fieldAfter_word_ne {j old : Nat} (h : k ≠ j) : fieldAfter [(k, .word n)] j old = old := by
  simp [fieldAfter, lastWord, h]

theorem fieldAfter_word {old : Nat} : fieldAfter [(k, .word n)] k old = nearest k n := by
  simp [fieldAfter, lastWord]

theorem nearest_ramp_ne (n : Nat) : nearest 13 n ≠ n ↔ n ≠ 96 ∧ n ≠ 192 ∧ n ≠ 384 ∧ n ≠ 768 := by
  simp only [nearest]
  split
  · omega
  · split
    · omega
    · split <;> omega

/-- A value of a field other than jump and max is clamped exactly when it is none of the allowed ones. -/
theorem Defaults.clampedBy_plain (calm : d.Calm) (h8 : k ≠ 8) (h9 : k ≠ 9) :
    d.clampedBy [(k, .word n)] = true ↔ 2 ≤ k ∧ k ≤ 16 ∧ k ≠ 15 ∧ nearest k n ≠ n := by
  rw [Defaults.clampedBy_word_iff, fieldAfter_word_ne h8, fieldAfter_word_ne h9]
  exact or_iff_left calm

/-- A jump is clamped above 15 and at or above the max. -/
theorem Defaults.clampedBy_jump :
    d.clampedBy [(8, .word n)] = (15 < n || (0 < d.settings.max && d.settings.max ≤ n)) := by
  rw [Bool.eq_iff_iff, Defaults.clampedBy_word_iff, fieldAfter_word, fieldAfter_word_ne (by decide)]
  simp only [nearest, Bool.or_eq_true, Bool.and_eq_true, decide_eq_true_eq]
  omega

/-- A max is clamped above 15, and above 0 it is answered as clamped where it lowers the jump. -/
theorem Defaults.clampedBy_max :
    d.clampedBy [(9, .word n)] = (15 < n || (0 < n && n ≤ d.settings.jump)) := by
  rw [Bool.eq_iff_iff, Defaults.clampedBy_word_iff, fieldAfter_word, fieldAfter_word_ne (by decide)]
  simp only [nearest, Bool.or_eq_true, Bool.and_eq_true, decide_eq_true_eq]
  omega

/-- A value of a field other than jump and max is stored, and the jump rule leaves the record as it is. -/
theorem Defaults.named_word (calm : d.Calm) (h8 : k ≠ 8) (h9 : k ≠ 9) :
    d.named [(k, .word n)] = { d.written [(k, .word n)] with settings := d.settings.written [(k, .word n)] } := by
  have e : d.settings.named [(k, .word n)] = d.settings.written [(k, .word n)] := by
    rw [← jumpRule_written, jumpRule_fst]
    simp only [Settings.written, fieldAfter_word_ne h8, fieldAfter_word_ne h9]
    rw [if_neg calm]
  simp only [Defaults.named, e, Defaults.written]

end

section
variable {s : State} {p : PortId} {tag sb hi lo : Byte} {sg : SegId}

theorem setSegmentDefaults_unread {l : List Byte} (ha : s.admits p [.venue]) (h : parseDefaults l = none) :
    exec (.setSegmentDefaults p tag l) s = .next (setAnswer s p tag .range []) := by
  show Host.Outcome.next (takeCommand _ _ _ _ (parseDefaults l) _) = _
  rw [h, takeCommand_unread ha]

theorem setSegmentDefaults_refused {l : List Byte} {fs : List (Nat × FieldValue)} {st : Status} (ha : s.admits p [.venue])
    (h : parseDefaults l = some (sb, fs)) (e : setDefaultsBody s (sb, fs) = .refuse st) :
    exec (.setSegmentDefaults p tag l) s = .next (setAnswer s p tag st []) := by
  show Host.Outcome.next (takeCommand _ _ _ _ (parseDefaults l) _) = _
  rw [h, takeCommand_refused ha e]

theorem setSegmentDefaults_stored {l : List Byte} {fs : List (Nat × FieldValue)} (ha : s.admits p [.venue])
    (h : parseDefaults l = some (sb, fs)) (hsg : idOf 8 sb = some sg) (wrong : ¬WrongDefaults fs)
    (twice : ¬∃ cs : List Nat, (17, .list cs) ∈ fs ∧ ¬cs.Nodup)
    (long : ¬∃ cs : List Nat, (17, .list cs) ∈ fs ∧ 15 < cs.length) {d : Defaults} {c : Bool}
    (hd : (s.scanner.defaults[sg]).named fs = d) (hc : (s.scanner.defaults[sg]).clampedBy fs = c) :
    exec (.setSegmentDefaults p tag l) s = .next (setAnswer (s.withDefaults sg d) p tag (doneStatus c) []) := by
  subst hd hc
  show Host.Outcome.next (takeCommand _ _ _ _ (parseDefaults l) _) = _
  rw [h, takeCommand_done ha (setDefaultsBody_stored hsg wrong twice long)]
  rfl

/-- One field with a value that is not refused is stored. -/
theorem setSegmentDefaults_word (f : Byte) (ha : s.admits p [.venue]) (hsg : idOf 8 sb = some sg)
    {d : Defaults} {c : Bool} (hd : (s.scanner.defaults[sg]).named [(f.toNat, .word (wordOf hi lo))] = d)
    (hc : (s.scanner.defaults[sg]).clampedBy [(f.toNat, .word (wordOf hi lo))] = c)
    (right : ¬WrongDefaults [(f.toNat, .word (wordOf hi lo))])
    (h1 : 1 ≤ f.toNat := by decide) (h18 : f.toNat ≤ 18 := by decide) (h17 : f.toNat ≠ 17 := by decide) :
    exec (.setSegmentDefaults p tag [sb, 1, f, hi, lo]) s =
      .next (setAnswer (s.withDefaults sg d) p tag (doneStatus c) []) :=
  setSegmentDefaults_stored ha (parseDefaults_word h1 h18 h17) hsg right (by simp) (by simp) hd hc

/-- A field other than jump and max takes its value, and nothing else changes. -/
theorem setSegmentDefaults_plain (f : Byte) (ha : s.admits p [.venue]) (hsg : idOf 8 sb = some sg)
    (calm : (s.scanner.defaults[sg]).Calm) {d : Defaults} {c : Bool}
    (hd : { (s.scanner.defaults[sg]).written [(f.toNat, .word (wordOf hi lo))] with
      settings := (s.scanner.defaults[sg]).settings.written [(f.toNat, .word (wordOf hi lo))] } = d)
    (hc : (2 ≤ f.toNat ∧ f.toNat ≤ 16 ∧ f.toNat ≠ 15 ∧ nearest f.toNat (wordOf hi lo) ≠ wordOf hi lo) ↔ c = true)
    (right : ¬WrongDefaults [(f.toNat, .word (wordOf hi lo))])
    (h1 : 1 ≤ f.toNat := by decide) (h18 : f.toNat ≤ 18 := by decide) (h17 : f.toNat ≠ 17 := by decide)
    (h8 : f.toNat ≠ 8 := by decide) (h9 : f.toNat ≠ 9 := by decide) :
    exec (.setSegmentDefaults p tag [sb, 1, f, hi, lo]) s =
      .next (setAnswer (s.withDefaults sg d) p tag (doneStatus c) []) := by
  refine setSegmentDefaults_word f ha hsg ((Defaults.named_word calm h8 h9).trans hd) ?_ right h1 h18 h17
  rw [Bool.eq_iff_iff, ← hc]
  exact Defaults.clampedBy_plain calm h8 h9

/-- A field of the settings other than mode, jump and max takes the nearest allowed value. -/
theorem setSegmentDefaults_setting (f : Byte) (ha : s.admits p [.venue]) (hsg : idOf 8 sb = some sg)
    (calm : (s.scanner.defaults[sg]).Calm) {d : Defaults} {c : Bool}
    (hd : { (s.scanner.defaults[sg]).written [(f.toNat, .word (wordOf hi lo))] with
      settings := (s.scanner.defaults[sg]).settings.written [(f.toNat, .word (wordOf hi lo))] } = d)
    (hc : nearest f.toNat (wordOf hi lo) ≠ wordOf hi lo ↔ c = true)
    (h2 : 2 ≤ f.toNat := by decide) (h16 : f.toNat ≤ 16 := by decide) (h15 : f.toNat ≠ 15 := by decide)
    (h8 : f.toNat ≠ 8 := by decide) (h9 : f.toNat ≠ 9 := by decide) :
    exec (.setSegmentDefaults p tag [sb, 1, f, hi, lo]) s =
      .next (setAnswer (s.withDefaults sg d) p tag (doneStatus c) []) := by
  refine setSegmentDefaults_plain f ha hsg calm hd ?_ ?_ (by omega) (by omega) (by omega) h8 h9
  · simpa only [h2, h16, h15, ne_eq, not_false_eq_true, true_and] using hc
  · rw [wrongDefaults_word]
    omega

theorem setSegmentDefaults_wrong (f : Byte) (ha : s.admits p [.venue]) (hsg : idOf 8 sb = some sg)
    (wrong : WrongDefaults [(f.toNat, .word (wordOf hi lo))])
    (h1 : 1 ≤ f.toNat := by decide) (h18 : f.toNat ≤ 18 := by decide) (h17 : f.toNat ≠ 17 := by decide) :
    exec (.setSegmentDefaults p tag [sb, 1, f, hi, lo]) s = .next (setAnswer s p tag .range []) :=
  setSegmentDefaults_refused ha (parseDefaults_word h1 h18 h17) (setDefaultsBody_wrong hsg wrong)

end

/-- Settles O24. -/
theorem segmentDefaults : Obligations.SegmentDefaults := by
  refine ⟨fun s p tag sb f hi lo sg ha hsg ok => ?_, fun s p tag sb l fs ha hl => ⟨fun h => ?_, fun sg hsg =>
    ⟨fun wrong => ?_, fun wrong twice => ?_, fun wrong twice long => ?_, fun wrong twice long => ?_⟩⟩⟩
  · intro d n cmd stores refused
    have calm : d.Calm := Defaults.calm_of_ok ok
    have wrongWord : (f.toNat = 1 ∧ 2 < n) ∨ (f.toNat = 15 ∧ 31 < n) ∨ (f.toNat = 18 ∧ 63 < n) → refused := by
      intro h
      exact setSegmentDefaults_wrong f ha hsg ((wrongDefaults_word _ _).2 h) (by omega) (by omega) (by omega)
    refine ⟨fun h => ?_, ?_, ?_, ?_, ?_, ?_, ?_, ?_, ?_, ?_, ?_, ?_, ?_, ?_, ?_, ?_, ?_, ?_, ?_⟩
    · exact setSegmentDefaults_unread ha (parseDefaults_noField h)
    · rintro rfl
      refine ⟨fun h => wrongWord (.inl ⟨rfl, h⟩), fun h => ?_⟩
      refine setSegmentDefaults_plain _ ha hsg calm ?_ (by simp) (by rw [wrongDefaults_word]; simp; omega)
      obtain e | e | e : n = 0 ∨ n = 1 ∨ n = 2 := by omega
      all_goals
        have e' : wordOf hi lo = _ := e
        rw [e', e]
        rfl
    · rintro rfl
      exact setSegmentDefaults_setting _ ha hsg calm rfl (by simp [nearest, n]; omega)
    · rintro rfl
      exact setSegmentDefaults_setting _ ha hsg calm rfl (by simp [nearest, n]; omega)
    · rintro rfl
      exact setSegmentDefaults_setting _ ha hsg calm rfl (by simp [nearest, n]; split <;> omega)
    · rintro rfl
      exact setSegmentDefaults_setting _ ha hsg calm rfl (by simp [nearest, n])
    · rintro rfl
      exact setSegmentDefaults_setting _ ha hsg calm rfl (by simp [nearest, n])
    · rintro rfl
      exact setSegmentDefaults_setting _ ha hsg calm rfl (by simp [nearest, n])
    · rintro rfl
      exact setSegmentDefaults_word _ ha hsg rfl Defaults.clampedBy_jump (by rw [wrongDefaults_word]; simp)
    · rintro rfl
      exact setSegmentDefaults_word _ ha hsg rfl Defaults.clampedBy_max (by rw [wrongDefaults_word]; simp)
    · rintro rfl
      exact setSegmentDefaults_setting _ ha hsg calm rfl (by simp [nearest, n]; omega)
    · rintro rfl
      exact setSegmentDefaults_setting _ ha hsg calm rfl (by simp [nearest, n])
    · rintro rfl
      exact setSegmentDefaults_setting _ ha hsg calm rfl (by simp [nearest, n])
    · rintro rfl
      exact setSegmentDefaults_setting _ ha hsg calm rfl ((nearest_ramp_ne n).trans (by simp [and_assoc]))
    · rintro rfl
      exact setSegmentDefaults_setting _ ha hsg calm rfl (by simp [nearest, n])
    · rintro rfl
      refine ⟨fun h => wrongWord (.inr (.inl ⟨rfl, h⟩)), fun h => ?_⟩
      exact setSegmentDefaults_plain _ ha hsg calm rfl (by simp) (by rw [wrongDefaults_word]; simp; omega)
    · rintro rfl
      exact setSegmentDefaults_setting _ ha hsg calm rfl (by simp [nearest, n]; omega)
    · rintro rfl
      refine ⟨fun h => ?_, ?_⟩
      · by_cases h1 : hi = 1
        · subst h1
          refine setSegmentDefaults_refused ha parseDefaults_list (setDefaultsBody_wrong hsg ((wrongDefaults_list _).2 ?_))
          rcases h with h | rfl | h
          · exact absurd rfl h
          · exact .inl rfl
          · exact .inr h
        · exact setSegmentDefaults_unread ha (parseDefaults_noList h1)
      · rintro rfl h0 h63
        have code : lo.toNat ≠ 0 := fun e => h0 (BitVec.eq_of_toNat_eq e)
        have left : (d.named [(17, .list [lo.toNat])]) = { d with wanted := [lo.toNat] } := by
          have : d.settings.named [(17, .list [lo.toNat])] = d.settings := by
            rw [← jumpRule_written, jumpRule_fst]
            exact congrArg (fun j => { d.settings with jump := j }) (if_neg calm)
          simp only [Defaults.named, this]
          rfl
        have unclamped : d.clampedBy [(17, .list [lo.toNat])] = false := by
          rw [Defaults.clampedBy, Settings.clampedBy]
          simpa [outOfRange, fieldAfter, lastWord, Defaults.Calm] using calm
        exact setSegmentDefaults_stored ha parseDefaults_list hsg (by rw [wrongDefaults_list]; omega) (by simp) (by simp)
          left unclamped
    · rintro rfl
      refine ⟨fun h => wrongWord (.inr (.inr ⟨rfl, h⟩)), fun h => ?_⟩
      exact setSegmentDefaults_plain _ ha hsg calm rfl (by simp) (by rw [wrongDefaults_word]; simp; omega)
  · exact setSegmentDefaults_refused ha hl (setDefaultsBody_noSegment h)
  · exact setSegmentDefaults_refused ha hl (setDefaultsBody_wrong hsg wrong)
  · exact setSegmentDefaults_refused ha hl (setDefaultsBody_twice hsg wrong twice)
  · exact setSegmentDefaults_refused ha hl (setDefaultsBody_long hsg wrong twice long)
  · exact setSegmentDefaults_stored ha hl hsg wrong twice long rfl rfl

end Sys2Proof.Machine
end

section
/-! The full reset (O10) and the invariants at reset (O11). -/

namespace Sys2Proof.Machine

/-! ## The sets of single segments -/

theorem inSet_setOf (i j : SegId) : inSet (setOf i) j = decide (j = i) := by
  revert i j
  decide

theorem setOf_and_setOf {i j : SegId} (h : i ≠ j) : setOf i &&& setOf j = 0 := by
  revert i j
  decide

/-- The map of eight single-segment rooms. -/
def singleMap : List MapRoom := allSegIds.map fun i => { id := i, segs := setOf i, lead := i }

theorem singleMap_divides : dividesSegs singleMap := by
  refine ⟨fun sg => ⟨_, List.mem_map_of_mem (List.mem_finRange sg), ?_⟩, fun y hy => ?_, ?_⟩
  · simp [inSet_setOf]
  · obtain ⟨i, -, rfl⟩ := List.mem_map.1 hy
    simp [inSet_setOf]
  · refine List.pairwise_map.2 ((List.pairwise_lt_finRange 8).imp fun h => ⟨h, setOf_and_setOf (Fin.ne_of_lt h)⟩)

/-! ## The straps -/

theorem find?_finRange_eq_some {n : Nat} {f : Fin n → Bool} {p : Fin n} (h : f p = true) :
    (List.finRange n).find? f = some p ↔ ∀ q, q < p → f q = false := by
  simp only [List.find?_eq_some_iff_getElem, h, true_and, List.getElem_finRange, Fin.cast_mk, Bool.not_eq_true']
  constructor
  · rintro ⟨i, hi, rfl, before⟩ q hq
    exact before q.val hq
  · intro before
    exact ⟨p.val, by simp, rfl, fun j hj => before ⟨j, by omega⟩ hj⟩

theorem roleOf_eq (straps : Vector (BitVec 2) 4) (p : PortId) :
    roleOf straps p =
      if straps[p] = 0 then .unused else if straps[p] = 1 then .console
      else if straps[p] = 2 then .desk else if ∀ q : PortId, q < p → straps[q] ≠ 3 then .venue
      else .unused := by
  unfold roleOf
  split
  · rfl
  split
  · rfl
  split
  · rfl
  next h0 h1 h2 =>
    have h3 : straps[p] = 3 := by
      generalize straps[p] = x at h0 h1 h2
      revert x
      decide
    have : (List.finRange 4).find? (fun q => decide (straps[q] = 3)) = some p ↔ ∀ q : PortId, q < p → straps[q] ≠ 3 :=
      (find?_finRange_eq_some (decide_eq_true h3)).trans (by simp)
    simp only [this]

theorem replicate_get {α : Type} {n : Nat} (a : α) (i : Fin n) : (Vector.replicate n a)[i] = a := by simp

/-! ## The records right after the reset -/

section
variable (pins : Pins)

theorem powerOn_unit (u : UnitId) : (State.powerOn pins).hall.unit u = UnitRec.reset := by
  simp [State.powerOn, Hall.unit]

theorem powerOn_addr (u : UnitId) : (State.powerOn pins).hall.addr u = AddrRec.reset := by
  simp [State.powerOn, Hall.addr]

theorem powerOn_entry (r : SlotRef) : (State.powerOn pins).hall.entry r = none := by
  simp [State.powerOn, Hall.entry]

theorem powerOn_booth (b : BoothId) : (State.powerOn pins).hall.booths[b] = Booth.reset := replicate_get _ b

theorem powerOn_port (p : PortId) : (State.powerOn pins).hall.ports[p] = Port.reset (roleOf pins.straps p) := tab_get _ p

end

/-- Settles O10. -/
theorem fullReset : Obligations.FullReset := by
  intro pins s
  refine ⟨_, rfl, rfl, fun w => tab_get _ w, rfl, rfl, fun i => replicate_get _ i, fun i => tab_get _ i, rfl, ?_, ?_, rfl, rfl,
    ?_, fun k => replicate_get _ k, fun b => replicate_get _ b, fun i => replicate_get _ i, ?_, fun k => tab_get _ k, rfl,
    rfl, fun i => ⟨replicate_get _ i, replicate_get _ i⟩, fun b => ⟨replicate_get _ b, replicate_get _ b, replicate_get _ b⟩,
    fun c => ⟨replicate_get _ c, replicate_get _ c⟩, fun i => replicate_get _ i⟩
  · intro i
    refine (powerOn_room pins i).trans (congrArg some ?_)
    have settings : ((State.powerOn pins).scanner.defaults[i]).settings = Settings.reset :=
      congrArg Defaults.settings (tab_get _ i)
    show Room.reset i = { Room.reset i with settings := ((State.powerOn pins).scanner.defaults[i]).settings }
    rw [settings]
    rfl
  · exact fun u => ⟨powerOn_unit pins u, powerOn_addr pins u⟩
  · exact powerOn_entry pins
  · intro p
    refine (powerOn_port pins p).trans ?_
    rw [roleOf_eq]
    rfl

/-! ## The invariants at reset -/

theorem powerOn_gainsOk (pins : Pins) : (State.powerOn pins).hall.gainsOk = true := by
  simp only [Hall.gainsOk, Bool.and_eq_true, List.all_eq_true, List.mem_filterMap, decide_eq_true_eq]
  refine ⟨⟨fun u _ => ?_, fun b _ => ?_⟩, ?_⟩
  · rw [powerOn_unit]; decide
  · rw [powerOn_booth]; decide
  · rintro r ⟨i, -, e⟩
    rw [powerOn_room] at e
    cases e
    rfl

theorem powerOn_activeMap (pins : Pins) : (State.powerOn pins).hall.activeMap = singleMap := by
  simp only [Hall.activeMap, powerOn_room, Option.map_some, List.filterMap_eq_map']
  rfl

theorem powerOn_mapsOk (pins : Pins) : (State.powerOn pins).mapsOk := by
  refine ⟨?_, singleMap_divides, fun h => ?_, fun _ => ?_⟩
  · rw [powerOn_activeMap]; exact singleMap_divides
  · simp [State.powerOn, Regroup.reset] at h
  · rw [powerOn_activeMap]; rfl

theorem powerOn_scopesApart (pins : Pins) : (State.powerOn pins).hall.scopesApart := by
  intro p q _ _ _
  rw [powerOn_port, powerOn_port]
  exact BitVec.zero_and

theorem powerOn_floorOk (pins : Pins) : (State.powerOn pins).hall.floorOk := by
  refine ⟨List.nodup_nil, fun q q' e e' a he => ?_, fun q e a he => ?_⟩
  · rw [powerOn_entry] at he; cases he
  · rw [powerOn_entry] at he; cases he

theorem powerOn_boothsOk (pins : Pins) : (State.powerOn pins).hall.boothsOk := by
  have noneLive (b : BoothId) : ((State.powerOn pins).hall.booths[b]).state ≠ .live := by
    rw [powerOn_booth]
    decide
  refine ⟨fun b hb => absurd hb (noneLive b), fun i b c hb => ?_⟩
  have := (List.mem_filter.1 hb).2
  simp only [Bool.and_eq_true, decide_eq_true_eq] at this
  exact absurd this.1 (noneLive b)

/-- Settles O11. -/
theorem rangesHoldAtReset : Obligations.RangesHoldAtReset :=
  ⟨powerOn_settingsOk _, powerOn_gainsOk _, Nat.zero_le _, powerOn_scopesApart _, powerOn_windowsApart _,
    powerOn_floorOk _, powerOn_mapsOk _, powerOn_boothsOk _⟩

end Sys2Proof.Machine
end

section
/-! Which event is due, and the step on an empty queue (O2). -/

namespace Sys2Proof.Machine

/-! ## One source of due events -/

/-- A source answers an event of rank `n` that is due, or none where no event of that rank is. -/
structure DueSource (s : State) (n : Nat) (o : Option Instr) : Prop where
  due  : ∀ c, o = some c → s.isDue c ∧ dueRank c = n
  no : o = none → ∀ c, dueRank c = n → ¬s.isDue c

/-- The sources of the ranks from `n` on, in order. -/
def DueSources (s : State) : Nat → List (Option Instr) → Prop
  | _, [] => True
  | n, o :: os => DueSource s n o ∧ DueSources s (n + 1) os

theorem DueSources.first {s : State} {n : Nat} {os : List (Option Instr)} (h : DueSources s n os) :
    (∀ c, os.findSome? id = some c → s.isDue c ∧ ∀ c', s.isDue c' → n ≤ dueRank c' → dueRank c ≤ dueRank c') ∧
    (os.findSome? id = none → ∀ c, n ≤ dueRank c → dueRank c < n + os.length → ¬s.isDue c) := by
  induction os generalizing n with
  | nil => exact ⟨by simp, fun _ c h1 h2 => absurd h2 (by simpa using h1)⟩
  | cons o os ih =>
    obtain ⟨src, rest⟩ := h
    obtain ⟨some', none'⟩ := ih rest
    cases o with
    | some x =>
      obtain ⟨hd, hr⟩ := src.due x rfl
      exact ⟨fun c e => by cases e; exact ⟨hd, fun c' _ hn => hr ▸ hn⟩, fun e => by simp at e⟩
    | none =>
      refine ⟨fun c e => ⟨(some' c e).1, fun c' hc' hn => (some' c e).2 c' hc' ?_⟩, fun e c hn hl => ?_⟩
      · have : dueRank c' ≠ n := fun hr => src.no rfl c' hr hc'
        omega
      · by_cases hr : dueRank c = n
        · exact src.no rfl c hr
        · exact none' e c (by omega) (by simp only [List.length_cons] at hl; omega)

/-- The events of each rank. -/
def OfRank (c : Instr) : Nat → Prop
  | 0 => ∃ p, c = .attentionPulseEnd p
  | 1 => ∃ t k, c = .rampEnd t k
  | 2 => c = .mixBlockEnd
  | 3 => ∃ t, c = .handOverTaken t
  | 4 => ∃ t, c = .roundEnd t
  | 5 => ∃ w, c = .settleTimerExpiry w
  | 6 => ∃ w, c = .stuckTimerExpiry w
  | 7 => c = .deadlineExpiry
  | 8 => ∃ u, c = .speakLimitExpiry u ∨ c = .speakLimitWarning u
  | 9 => ∃ i, c = .idleTimerExpiry i
  | _ => True

theorem ofRank (c : Instr) : OfRank c (dueRank c) := by
  unfold dueRank
  split <;> simp [OfRank]

theorem ofRank_of {c : Instr} {n : Nat} (h : dueRank c = n) : OfRank c n := h ▸ ofRank c

theorem dueRank_lt_of_isDue {s : State} {c : Instr} (h : s.isDue c) : dueRank c < 10 := by
  unfold State.isDue at h
  split at h
  all_goals first | exact h.elim | simp [dueRank]

section
variable {s : State}

/-- The first of the records that satisfy a test is a source, when the test says which event of the rank is due. -/
theorem DueSource.ofFind {α : Type} {n : Nat} {xs : List α} {f : α → Bool} {mk : α → Instr} (all : ∀ a, a ∈ xs)
    (rank : ∀ a, dueRank (mk a) = n) (made : ∀ c, dueRank c = n → ∃ a, c = mk a)
    (due : ∀ a, f a = true ↔ s.isDue (mk a)) : DueSource s n ((xs.find? f).map mk) := by
  refine ⟨fun c e => ?_, fun e c hr hd => ?_⟩
  · obtain ⟨a, ha, rfl⟩ := Option.map_eq_some_iff.1 e
    exact ⟨(due a).1 (List.find?_some ha), rank a⟩
  · obtain ⟨a, rfl⟩ := made c hr
    exact List.find?_eq_none.1 (Option.map_eq_none_iff.1 e) a (all a) ((due a).2 hd)

/-- The first event that one of the records answers is a source. -/
theorem DueSource.ofFindSome {α : Type} {n : Nat} {xs : List α} {f : α → Option Instr}
    (due : ∀ a c, f a = some c → s.isDue c ∧ dueRank c = n)
    (answers : ∀ c, dueRank c = n → s.isDue c → ∃ a ∈ xs, f a ≠ none) : DueSource s n (xs.findSome? f) := by
  refine ⟨fun c e => ?_, fun e c hr hd => ?_⟩
  · obtain ⟨a, -, ha⟩ := List.exists_of_findSome?_eq_some e
    exact due a c ha
  · obtain ⟨a, ha, hn⟩ := answers c hr hd
    exact hn (List.findSome?_eq_none_iff.1 e a ha)

theorem pulseDue_source : DueSource s 0 (pulseDue s) :=
  .ofFind List.mem_finRange (fun _ => rfl) (fun _ => ofRank_of) fun _ => Iff.rfl

theorem settleDue_source : DueSource s 5 (settleDue s) :=
  .ofFind List.mem_finRange (fun _ => rfl) (fun _ => ofRank_of)
    fun _ => decide_eq_true_iff

theorem stuckDue_source : DueSource s 6 (stuckDue s) :=
  .ofFind List.mem_finRange (fun _ => rfl) (fun _ => ofRank_of)
    fun _ => decide_eq_true_iff

theorem handOverDue_source : DueSource s 3 (handOverDue s) :=
  .ofFind List.mem_finRange (fun _ => rfl) (fun _ => ofRank_of)
    fun _ => Option.isSome_iff_ne_none

theorem roundDue_source : DueSource s 4 (roundDue s) := by
  refine .ofFind List.mem_finRange (fun _ => rfl) (fun _ => ofRank_of) fun t => ?_
  show _ ↔ ∃ rd, (s.trunks[t]).round = some rd ∧ _
  cases (s.trunks[t]).round <;> simp

theorem idleDue_source : DueSource s 9 (idleDue s) := by
  refine .ofFind List.mem_finRange (fun _ => rfl) (fun _ => ofRank_of) fun i => ?_
  show _ ↔ ∃ r, s.hall.room i = some r ∧ _
  cases s.hall.room i <;> simp

/-- A test for one event is a source, when it says whether the event is due. -/
theorem DueSource.ofOne {n : Nat} {o : Option Instr} {c : Instr} (rank : dueRank c = n)
    (made : ∀ x, dueRank x = n → x = c) (h : ∀ x, o = some x ↔ s.isDue c ∧ x = c) : DueSource s n o := by
  refine ⟨fun x e => ?_, fun e x hr hd => ?_⟩
  · obtain ⟨hd, rfl⟩ := (h x).1 e
    exact ⟨hd, rank⟩
  · obtain rfl := made x hr
    rw [(h x).2 ⟨hd, rfl⟩] at e
    cases e

theorem blockDue_source : DueSource s 2 (blockDue s) := by
  refine .ofOne rfl (fun _ => ofRank_of) fun x => ?_
  show (match s.mix.block with
    | some n => if Config.blockLength ≤ n then some Instr.mixBlockEnd else none
    | none => none) = some x ↔ (∃ n, s.mix.block = some n ∧ 48 ≤ n) ∧ x = .mixBlockEnd
  cases s.mix.block with
  | none => simp
  | some n => by_cases hn : 48 ≤ n <;> simp [Config.blockLength, hn, eq_comm (a := x)]

theorem deadlineDue_source : DueSource s 7 (deadlineDue s) := by
  refine .ofOne rfl (fun _ => ofRank_of) fun x => ?_
  show _ ↔ (s.regroup.state = .consent ∧ s.regroup.deadline = some 0) ∧ x = .deadlineExpiry
  simp [deadlineDue, eq_comm (a := x)]

theorem mem_slotsOf (r : SlotRef) : r ∈ slotsOf r.trunk := List.mem_map.2 ⟨r.slot, List.mem_finRange _, rfl⟩

theorem mem_allSlots (r : SlotRef) : r ∈ allSlots := List.mem_flatMap.2 ⟨r.trunk, List.mem_finRange _, mem_slotsOf r⟩

theorem rampDueAt_eq (h : Hall) (r : SlotRef) (c : Instr) : rampDueAt h r = some c ↔
    (∃ e, h.entry r = some e ∧ e.owesEnd) ∧ c = .rampEnd r.trunk r.slot := by
  unfold rampDueAt Entry.owesEnd
  cases h.entry r with
  | none => simp
  | some e => cases hr : e.ramp <;> simp [hr, eq_comm]

theorem rampDue_source : DueSource s 1 (allSlots.findSome? (rampDueAt s.hall)) := by
  refine .ofFindSome (fun r c e => ?_) fun c hr hd => ?_
  · obtain ⟨h, rfl⟩ := (rampDueAt_eq _ _ _).1 e
    exact ⟨h, rfl⟩
  · obtain ⟨t, k, rfl⟩ := ofRank_of hr
    exact ⟨⟨t, k⟩, mem_allSlots _, fun e => by rw [(rampDueAt_eq _ ⟨t, k⟩ _).2 ⟨hd, rfl⟩] at e; cases e⟩

/-- The speak timer of the unit that holds a slot runs in a room with a speak limit (R94). -/
def Hall.timedAt (h : Hall) (q : SlotRef) (u : UnitId) (ms l : Nat) : Prop :=
  ∃ e i r, h.entry q = some e ∧ q.trunk = u.trunk ∧ e.unit = some u.addr ∧ e.timer = some ms ∧ e.chair = false ∧
    h.roomOf e.seg = some i ∧ h.room i = some r ∧ r.settings.speakLimit = l ∧ l ≠ 0

theorem timed_iff {h : Hall} {u : UnitId} {ms l : Nat} : h.timed u ms l ↔ ∃ q, h.timedAt q u ms l := Iff.rfl

theorem holderOf_eq_some {t : TrunkId} {e : Entry} {u : UnitId} :
    holderOf t e = some u ↔ t = u.trunk ∧ e.unit = some u.addr := by
  unfold holderOf
  cases e.unit with
  | none => simp
  | some a => cases u; simp

theorem speakDueAt_timed {h : Hall} {q : SlotRef} {u : UnitId} {ms l : Nat} (w : h.timedAt q u ms l) :
    speakDueAt h q =
      if l * 1000 ≤ ms then some (.speakLimitExpiry u)
      else if warnAt l ≤ ms && !(h.unit u).warned then some (.speakLimitWarning u)
      else none := by
  obtain ⟨e, i, r, he, ht, hu, hm, hc, hi, hr, rfl, hl⟩ := w
  simp [speakDueAt, he, hm, holderOf_eq_some.2 ⟨ht, hu⟩, hi, hr, hl, hc]

theorem timedAt_of_speakDueAt {h : Hall} {q : SlotRef} {c : Instr} (e : speakDueAt h q = some c) :
    ∃ u ms l, h.timedAt q u ms l := by
  unfold speakDueAt at e
  split at e
  · cases e
  · next x hx =>
    split at e
    · next ms u rm hm hu hr =>
      obtain ⟨i, hi, hr⟩ := Option.bind_eq_some_iff.1 hr
      obtain ⟨ht, ha⟩ := holderOf_eq_some.1 hu
      simp only at e
      split at e
      · cases e
      · next hl =>
        simp only [Bool.or_eq_true, decide_eq_true_eq, not_or, Bool.not_eq_true] at hl
        exact ⟨u, ms, _, x, i, rm, hx, ht, ha, hm, hl.2, hi, hr, rfl, hl.1⟩
    · cases e

theorem speakDue_source : DueSource s 8 (allSlots.findSome? (speakDueAt s.hall)) := by
  refine .ofFindSome (fun q c e => ?_) fun c hr hd => ?_
  · obtain ⟨u, ms, l, w⟩ := timedAt_of_speakDueAt e
    rw [speakDueAt_timed w] at e
    split at e
    · next hl => cases e; exact ⟨⟨ms, l, timed_iff.2 ⟨q, w⟩, hl⟩, rfl⟩
    · next hl =>
      obtain ⟨hw, e⟩ := Option.ite_none_right_eq_some.1 e
      cases e
      simp only [Bool.and_eq_true, decide_eq_true_eq, Bool.not_eq_true'] at hw
      exact ⟨⟨ms, l, timed_iff.2 ⟨q, w⟩, Nat.lt_of_not_le hl, hw.1, hw.2⟩, rfl⟩
  · obtain ⟨u, rfl | rfl⟩ := ofRank_of hr
    · obtain ⟨ms, l, ⟨q, w⟩, hl⟩ := hd
      exact ⟨q, mem_allSlots q, by rw [speakDueAt_timed w, if_pos hl]; simp⟩
    · obtain ⟨ms, l, ⟨q, w⟩, hl, hms, hn⟩ := hd
      have : (warnAt l ≤ ms && !(s.hall.unit u).warned) = true := by
        simp only [hn, Bool.not_false, Bool.and_true, decide_eq_true_eq]
        exact hms
      exact ⟨q, mem_allSlots q, by rw [speakDueAt_timed w, if_neg (Nat.not_le_of_lt hl), if_pos this]; simp⟩

theorem dueEvent_sources : DueSources s 0
    [pulseDue s, allSlots.findSome? (rampDueAt s.hall), blockDue s, handOverDue s, roundDue s, settleDue s, stuckDue s,
      deadlineDue s, allSlots.findSome? (speakDueAt s.hall), idleDue s] :=
  ⟨pulseDue_source, rampDue_source, blockDue_source, handOverDue_source, roundDue_source, settleDue_source,
    stuckDue_source, deadlineDue_source, speakDue_source, idleDue_source, trivial⟩

end

/-- Settles O2. -/
theorem stepOnEmptyQueue : Obligations.StepOnEmptyQueue := by
  intro s
  obtain ⟨due, none'⟩ := (dueEvent_sources (s := s)).first
  refine ⟨fun c e => ⟨(due c e).1, fun c' hc' => (due c e).2 c' hc' (Nat.zero_le _)⟩,
    fun e c hc => none' e c (Nat.zero_le _) (dueRank_lt_of_isDue hc) hc, fun hq => ⟨fun c e => ?_, fun e => ?_⟩⟩
  · simp only [step, hq, e]
  · refine ⟨tick s, by simp only [step, hq, e], rfl, rfl, hq, ?_, rfl, fun i => tab_get _ i, fun r => ?_, rfl, rfl,
      fun w => tab_get _ w⟩
    · exact rooms_core { s.hall with pools := (tick s).hall.pools } _ fun _ _ => rfl
    · simp [tick, Hall.entry]

end Sys2Proof.Machine
end

section
/-! The reads (O58): each answers the records that its rule lists. -/

namespace Sys2Proof.Machine

/-- A read whose body answers a payload and keeps the state answers DONE with it. -/
theorem read_done {α : Type} {s : State} {p : PortId} {tag : Byte} {a : α} {body : α → Reply} {l l' : List Byte}
    (ha : s.admits p anyRole) (e : body a = .done false l s) (hl : l = l') :
    answerNext (takeCommand s p tag anyRole (some a) body) = .next (setAnswer s p tag .done l') := by
  subst hl
  exact congrArg Host.Outcome.next (takeCommand_done ha e)

theorem read_refused {α : Type} {s : State} {p : PortId} {tag : Byte} {a : α} {body : α → Reply}
    (ha : s.admits p anyRole) (e : body a = .refuse .range) :
    answerNext (takeCommand s p tag anyRole (some a) body) = .next (setAnswer s p tag .range []) :=
  congrArg Host.Outcome.next (takeCommand_refused ha e)

/-! ## Payloads -/

theorem parseReadWalls_walls {o : Byte} (h : o.getLsbD 0 = false) : parseReadWalls [o] = some none := by
  simp only [parseReadWalls, h]
  rfl

theorem parseReadWalls_defaults {o sb : Byte} (h : o.getLsbD 0 = true) : parseReadWalls [o, sb] = some (some sb) := by
  simp only [parseReadWalls, h]
  rfl

theorem parseReadBooth_all {o : Byte} (h : o.getLsbD 0 = true) : parseReadBooth [o] = some none := by
  simp only [parseReadBooth, h]
  rfl

theorem parseReadBooth_named {o bb : Byte} (h : o.getLsbD 0 = false) : parseReadBooth [o, bb] = some (some bb) := by
  simp only [parseReadBooth, h]
  rfl

theorem unitOf_eq_none {tb ab : Byte} (h : 3 < tb.toNat ∨ ab.toNat = 0 ∨ 60 < ab.toNat) : unitOf tb ab = none := by
  unfold unitOf
  split
  · next x y hx hy =>
    split
    · rfl
    · next h0 =>
      have addr : y.val = ab.toNat := by
        unfold idOf at hy
        split at hy
        · cases hy; rfl
        · cases hy
      rcases h with h | h | h
      · rw [idOf_eq_none.2 h] at hx; cases hx
      · exact absurd (addr.trans h) h0
      · exact absurd y.isLt (by omega)
  · rfl

/-! ## Bodies -/

section
variable {s : State}

theorem readRoomBody_room {sb o : Byte} {sg : SegId} {i : SegId} {r : Room} (hsg : idOf 8 sb = some sg)
    (hi : s.hall.roomOf sg = some i) (hr : s.hall.room i = some r) :
    readRoomBody s (sb, o) = .done false (bRoom s.hall i r ++ (if o.getLsbD 0 then channelsAnswer s.hall r else []) ++
      (if o.getLsbD 1 then gainsAnswer s i r else [])) s := by
  simp only [readRoomBody, hsg, hi, hr]

theorem readQueueBody_room {sb : Byte} {sg : SegId} {i : SegId} {r : Room} (hsg : idOf 8 sb = some sg)
    (hi : s.hall.roomOf sg = some i) (hr : s.hall.room i = some r) :
    readQueueBody s sb = .done false (queueAnswer s.hall i r) s := by
  simp only [readQueueBody, hsg, hi, hr]

theorem readUnitBody_unit {tb ab : Byte} {u : UnitId} (h : unitOf tb ab = some u) :
    readUnitBody s (tb, ab) = .done false (unitAnswer s.hall u) s := by
  simp only [readUnitBody, h]

theorem readWallsBody_defaults {sb : Byte} {sg : SegId} (h : idOf 8 sb = some sg) :
    readWallsBody s (some sb) = .done false (bDefaults s.scanner.defaults[sg]) s := by
  simp only [readWallsBody, h]

theorem readBoothBody_named {bb : Byte} {b : BoothId} (h : idOf 12 bb = some b) :
    readBoothBody s (some bb) = .done false (bBooth s.hall b ++ bNamedBooth s.hall b) s := by
  simp only [readBoothBody, h]

theorem readTrunkBody_trunk {kb o : Byte} {k : TrunkId} (h : idOf 4 kb = some k) :
    readTrunkBody s (kb, o) = .done false (trunkAnswer s k (o.getLsbD 1))
      (if o.getLsbD 0 then s.setTrunk k (s.trunks[k]).cleared else s) := by
  simp only [readTrunkBody, h]

theorem readRoomBody_range {sb o : Byte} (h : 7 < sb.toNat) : readRoomBody s (sb, o) = .refuse .range := by
  simp only [readRoomBody, show idOf 8 sb = none from idOf_eq_none.2 h]

theorem readQueueBody_range {sb : Byte} (h : 7 < sb.toNat) : readQueueBody s sb = .refuse .range := by
  simp only [readQueueBody, show idOf 8 sb = none from idOf_eq_none.2 h]

theorem readWallsBody_range {sb : Byte} (h : 7 < sb.toNat) : readWallsBody s (some sb) = .refuse .range := by
  simp only [readWallsBody, show idOf 8 sb = none from idOf_eq_none.2 h]

theorem readUnitBody_range {tb ab : Byte} (h : 3 < tb.toNat ∨ ab.toNat = 0 ∨ 60 < ab.toNat) :
    readUnitBody s (tb, ab) = .refuse .range := by
  simp only [readUnitBody, unitOf_eq_none h]

theorem readBoothBody_range {bb : Byte} (h : 11 < bb.toNat) : readBoothBody s (some bb) = .refuse .range := by
  simp only [readBoothBody, show idOf 12 bb = none from idOf_eq_none.2 h]

theorem readTrunkBody_range {kb o : Byte} (h : 3 < kb.toNat) : readTrunkBody s (kb, o) = .refuse .range := by
  simp only [readTrunkBody, show idOf 4 kb = none from idOf_eq_none.2 h]

end

/-! ## Answers -/

theorem slotsOf_flatMap {β : Type} (t : TrunkId) (f : SlotRef → List β) :
    (slotsOf t).flatMap f = (List.finRange 8).flatMap fun k => f { trunk := t, slot := k } :=
  List.flatMap_map _ _ _

/-- An index counts from 1 (R137). -/
theorem bNamedBooth_eq (h : Hall) (b : BoothId) : bNamedBooth h b =
    bOpt b1 (((h.boothRoom b).bind h.room).map (·.floorLang)) ++
      bOpt (fun k => b1 (k + 1)) (((h.boothRoom b).bind h.room).bind fun y =>
        y.langs.findIdx? fun c => c = (h.booths[b]).output) := by
  simp only [bNamedBooth, indexIn]
  cases (h.boothRoom b).bind h.room with
  | none => rfl
  | some r =>
    simp only [Option.bind_some]
    cases r.langs.findIdx? fun c => decide (c = (h.booths[b]).output) <;> rfl

/-- A latched entry in the answer: its own unit once it has left its slot, and otherwise the entry in its slot. -/
theorem bMixed_eq (h : Hall) (y : LatchedEntry) : bMixed h y =
    match y.left, h.entry y.ref with
    | some a, _ => bHolder y.ref.trunk a ++ b2 0 ++ b1 0
    | none, some e => bHolder y.ref.trunk e.unit ++ b2 e.e ++
        bOpt (fun rp : Ramp => b2 rp.target ++ b2 rp.pos ++ b2 rp.len) e.ramp
    | none, none => bHolder y.ref.trunk none ++ b2 0 ++ b1 0 := by
  unfold bMixed LatchedEntry.view
  cases y.left with
  | some a => rfl
  | none => cases h.entry y.ref <;> rfl

/-- Settles O58. -/
theorem readsChangeOnlyTheAnswer : Obligations.ReadsChangeOnlyTheAnswer := by
  intro s p tag o ha
  refine ⟨fun ho => ?_, fun sb sg hsg ho => ?_, ?_, fun sb sg i r hsg hi hr => ⟨?_, ?_⟩, fun tb ab u hu => ?_, fun ho => ?_,
    fun bb b hb ho => ?_, fun xb yb => ⟨fun h => ⟨?_, ?_, fun ho => ?_⟩, fun h => ?_, fun h ho => ?_, fun h => ?_⟩,
    fun kb k hk => ⟨fun ho => ?_, fun ho => ?_⟩⟩
  · show answerNext (takeCommand _ _ _ _ (parseReadWalls [o]) _) = _
    rw [parseReadWalls_walls ho]
    exact read_done ha rfl rfl
  · show answerNext (takeCommand _ _ _ _ (parseReadWalls [o, sb]) _) = _
    rw [parseReadWalls_defaults ho]
    exact read_done ha (readWallsBody_defaults hsg) rfl
  · exact read_done (a := ()) ha rfl rfl
  · refine read_done (a := (sb, o)) ha (readRoomBody_room hsg hi hr) ?_
    refine congrArg₂ (· ++ ·) (congrArg₂ (· ++ ·) rfl ?_) ?_
    · split
      · rfl
      · rfl
    · split
      · refine congrArg₂ (· ++ ·) (congrArg₂ (· ++ ·) rfl ?_) rfl
        exact congrArg (bList · _) (funext (bMixed_eq s.hall))
      · rfl
  · exact read_done (a := sb) ha (readQueueBody_room hsg hi hr) rfl
  · exact read_done (a := (tb, ab)) ha (readUnitBody_unit hu) rfl
  · show answerNext (takeCommand _ _ _ _ (parseReadBooth [o]) _) = _
    rw [parseReadBooth_all ho]
    exact read_done ha rfl rfl
  · show answerNext (takeCommand _ _ _ _ (parseReadBooth [o, bb]) _) = _
    rw [parseReadBooth_named ho]
    refine read_done ha (readBoothBody_named hb) ?_
    rw [bNamedBooth_eq, ← List.append_assoc]
    rfl
  · exact read_refused (a := (xb, o)) ha (readRoomBody_range h)
  · exact read_refused (a := xb) ha (readQueueBody_range h)
  · show answerNext (takeCommand _ _ _ _ (parseReadWalls [o, xb]) _) = _
    rw [parseReadWalls_defaults ho]
    exact read_refused ha (readWallsBody_range h)
  · exact read_refused (a := (xb, yb)) ha (readUnitBody_range h)
  · show answerNext (takeCommand _ _ _ _ (parseReadBooth [o, xb]) _) = _
    rw [parseReadBooth_named ho]
    exact read_refused ha (readBoothBody_range h)
  · exact read_refused (a := (xb, o)) ha (readTrunkBody_range h)
  · have body := readTrunkBody_trunk (s := s) (o := o) hk
    rw [if_neg (by rw [ho]; decide)] at body
    refine read_done (a := (kb, o)) ha body ?_
    simp only [trunkAnswer, slotsOf_flatMap]
    rfl
  · have body := readTrunkBody_trunk (s := s) (o := o) hk
    rw [if_pos ho] at body
    refine (congrArg Host.Outcome.next (takeCommand_done (a := (kb, o)) ha body)).trans ?_
    simp only [trunkAnswer, slotsOf_flatMap]
    rfl

end Sys2Proof.Machine
end

section
/-! Queues and speaking lists: what stands in them, and in which order (R73, R74). -/

namespace Sys2Proof.Machine

/-! ## Sorting -/

section
variable {α : Type} (lt : α → α → Bool)

theorem insertBy_perm (x : α) (l : List α) : (insertBy lt x l).Perm (x :: l) := by
  induction l with
  | nil => exact .refl _
  | cons y ys ih =>
    unfold insertBy
    split
    · exact (ih.cons y).trans (.swap x y ys)
    · exact .refl _

theorem sortBy_perm (l : List α) : (sortBy lt l).Perm l := by
  induction l with
  | nil => exact .refl _
  | cons x xs ih => exact (insertBy_perm lt x _).trans (ih.cons x)

/-- Where the order is that of a key, a sorted list ascends in it. -/
theorem insertBy_pairwise {key : α → Nat} {x : α} {l : List α} (hx : ∀ y ∈ l, lt y x = decide (key y < key x))
    (h : l.Pairwise fun a b => key a ≤ key b) : (insertBy lt x l).Pairwise fun a b => key a ≤ key b := by
  induction l with
  | nil => exact List.pairwise_singleton _ _
  | cons y ys ih =>
    obtain ⟨hy, hys⟩ := List.pairwise_cons.1 h
    unfold insertBy
    rw [hx y List.mem_cons_self]
    split
    · next hlt =>
      refine List.pairwise_cons.2 ⟨fun z hz => ?_, ih (fun z hz => hx z (List.mem_cons_of_mem y hz)) hys⟩
      rcases List.mem_cons.1 ((insertBy_perm lt x ys).mem_iff.1 hz) with rfl | hz
      · exact Nat.le_of_lt (of_decide_eq_true hlt)
      · exact hy z hz
    · next hlt =>
      have hle : key x ≤ key y := Nat.le_of_not_lt fun c => hlt (decide_eq_true c)
      refine List.pairwise_cons.2 ⟨fun z hz => ?_, h⟩
      rcases List.mem_cons.1 hz with rfl | hz
      · exact hle
      · exact hle.trans (hy z hz)

theorem sortBy_pairwise {key : α → Nat} {l : List α} (h : ∀ a ∈ l, ∀ b ∈ l, lt a b = decide (key a < key b)) :
    (sortBy lt l).Pairwise fun a b => key a ≤ key b := by
  induction l with
  | nil => exact .nil
  | cons x xs ih =>
    refine insertBy_pairwise lt (fun y hy => ?_) (ih fun a ha b hb => h a (.tail x ha) b (.tail x hb))
    exact h y (.tail x ((sortBy_perm lt xs).mem_iff.1 hy)) x (.head xs)

end

/-- Stamps that lie less than half the range after a common one are ordered by their distance from it. -/
theorem older_eq {a b base : Stamp} (ha : (a - base).toNat < 2 ^ 31) (hb : (b - base).toNat < 2 ^ 31) :
    older a b = decide ((a - base).toNat < (b - base).toNat) := by
  have hd : b - a = (b - base) - (a - base) := by bv_omega
  have hne : a ≠ b ↔ a - base ≠ b - base := by
    constructor <;> intro h e <;> apply h
    · have := congrArg (· + base) e
      simpa using this
    · rw [e]
  unfold older
  rw [hd, Bool.eq_iff_iff]
  simp only [Bool.and_eq_true, decide_eq_true_eq, hne]
  generalize a - base = x at *
  generalize b - base = y at *
  constructor
  · rintro ⟨h1, h2⟩
    bv_omega
  · intro h
    constructor
    · bv_omega
    · bv_omega

/-! ## Entries -/

section
variable {h : Hall} {x : SegSet}

/-- What a slot adds to the speaking list of the segments `x`. -/
def Hall.filed (h : Hall) (x : SegSet) (q : SlotRef) : Option (SlotRef × Entry) :=
  match h.entry q with
  | some e => if inSet x e.seg then some (q, e) else none
  | none => none

theorem filed_eq_some {q : SlotRef} {y : SlotRef × Entry} :
    h.filed x q = some y ↔ y.1 = q ∧ h.entry q = some y.2 ∧ inSet x y.2.seg = true := by
  obtain ⟨r, e⟩ := y
  unfold Hall.filed
  cases he : h.entry q with
  | none => simp
  | some a =>
    simp only [Option.ite_none_right_eq_some, Option.some.injEq, Prod.mk.injEq]
    constructor
    · rintro ⟨hs, rfl, rfl⟩; exact ⟨rfl, rfl, hs⟩
    · rintro ⟨rfl, rfl, hs⟩; exact ⟨hs, rfl, rfl⟩

theorem entriesIn_perm : (h.entriesIn x).Perm (allSlots.filterMap (h.filed x)) := sortBy_perm _ _

theorem mem_entriesIn {q : SlotRef} {e : Entry} :
    (q, e) ∈ h.entriesIn x ↔ h.entry q = some e ∧ inSet x e.seg = true := by
  rw [entriesIn_perm.mem_iff, List.mem_filterMap]
  constructor
  · rintro ⟨r, -, hr⟩
    obtain ⟨rfl, he, hs⟩ := filed_eq_some.1 hr
    exact ⟨he, hs⟩
  · rintro ⟨he, hs⟩
    exact ⟨q, mem_allSlots q, filed_eq_some.2 ⟨rfl, he, hs⟩⟩

theorem allSlots_nodup : allSlots.Nodup := by decide

theorem entriesIn_nodup : ((h.entriesIn x).map (·.1)).Nodup := by
  refine (entriesIn_perm.map _).nodup_iff.2 ?_
  have : (allSlots.filterMap (h.filed x)).map (·.1) = allSlots.filter fun q => (h.filed x q).isSome := by
    rw [List.map_filterMap, ← List.filterMap_eq_filter]
    refine List.filterMap_congr fun q _ => ?_
    cases hq : h.filed x q with
    | none => simp [Option.guard, hq]
    | some y => simp [Option.guard, hq, (filed_eq_some.1 hq).1]
  rw [this]
  exact allSlots_nodup.filter _

/-- Speaking lists agree where the slots' entries filed there agree. -/
theorem entriesIn_congr {g : Hall} (e : ∀ q, g.filed x q = h.filed x q) : g.entriesIn x = h.entriesIn x :=
  congrArg (sortBy _) (List.filterMap_congr fun q _ => e q)

/-- The oldest grant stamp comes first. -/
theorem entriesIn_pairwise {base : Stamp} (hb : ∀ q e, h.entry q = some e → (e.grantStamp - base).toNat < 2 ^ 31) :
    (h.entriesIn x).Pairwise fun a b => (a.2.grantStamp - base).toNat ≤ (b.2.grantStamp - base).toNat := by
  refine sortBy_pairwise (key := fun y : SlotRef × Entry => (y.2.grantStamp - base).toNat) _ fun a ha b hb' => ?_
  have near (y : SlotRef × Entry) (hy : y ∈ allSlots.filterMap (h.filed x)) : (y.2.grantStamp - base).toNat < 2 ^ 31 := by
    obtain ⟨q, -, hq⟩ := List.mem_filterMap.1 hy
    exact hb q y.2 (filed_eq_some.1 hq).2.1
  exact older_eq (near a ha) (near b hb')

/-- The counted entries filed in the segments `x`, by their slots (R82). -/
def Hall.countIn (h : Hall) (x : SegSet) : Nat :=
  allSlots.countP fun q => match h.entry q with | some e => inSet x e.seg && e.counted | none => false

theorem count_eq (i : SegId) : h.count i = h.countIn (h.segsOf i) := by
  unfold Hall.count Hall.countIn Hall.speaking
  rw [entriesIn_perm.countP_eq, List.countP_filterMap]
  refine List.countP_congr fun q _ => ?_
  unfold Hall.filed
  cases he : h.entry q with
  | none => simp
  | some e =>
    simp only [Bool.and_eq_true]
    by_cases hs : inSet (h.segsOf i) e.seg = true <;> simp [hs]

end

/-! ## Requests -/

section
variable {h : Hall} {x : SegSet}

theorem queueIn_perm : (h.queueIn x).Perm (h.requests.filter fun q => h.seatedIn x q.unit) := sortBy_perm _ _

theorem mem_queueIn {q : Request} : q ∈ h.queueIn x ↔ q ∈ h.requests ∧ h.seatedIn x q.unit = true := by
  rw [queueIn_perm.mem_iff, List.mem_filter]

theorem length_queueIn : (h.queueIn x).length = h.requests.countP fun q => h.seatedIn x q.unit := by
  rw [queueIn_perm.length_eq, List.countP_eq_length_filter]

end

end Sys2Proof.Machine
end

section
/-! What every operation of the floor controller keeps: the core of the hall, the freeze of the rooms, the flags that
are set, and that an awake room is awake (R151, R182); and what it leaves of the unit and address records. -/

namespace Sys2Proof.Machine

/-! ## Onward -/

/-- From `h` to `g` the core is kept, no flag is cleared, no room falls DORMANT and none is frozen or unfrozen. -/
structure Onward (h g : Hall) : Prop where
  core   : g.core = h.core
  flags  : ∀ p : PortId, (h.ports[p]).flags &&& (g.ports[p]).flags = (h.ports[p]).flags
  frozen : ∀ i, (g.room i).map (·.frozen) = (h.room i).map (·.frozen)
  awake  : ∀ i, (h.room i).map (·.dormant) = some false → (g.room i).map (·.dormant) = some false

theorem and_or_self {n : Nat} (a b : BitVec n) : a &&& (a ||| b) = a := by
  ext i
  simpa using Or.inl

theorem or_and_self {n : Nat} (a b : BitVec n) : (a ||| b) &&& b = b := by
  ext i
  simpa using Or.inr

namespace Onward

theorem refl (h : Hall) : Onward h h := ⟨rfl, fun _ => BitVec.and_self, fun _ => rfl, fun _ => id⟩

theorem trans {f g h : Hall} (a : Onward f g) (b : Onward g h) : Onward f h := by
  refine ⟨b.core.trans a.core, fun p => ?_, fun i => (b.frozen i).trans (a.frozen i), fun i => b.awake i ∘ a.awake i⟩
  rw [← a.flags p, BitVec.and_assoc, b.flags p]

/-- The rooms and the ports are not written. -/
theorem of_eq {h g : Hall} (rooms : g.rooms = h.rooms) (ports : g.ports = h.ports) (core : g.core = h.core) :
    Onward h g := by
  refine ⟨core, fun p => ?_, fun i => ?_, fun i => ?_⟩
  · rw [ports]; exact BitVec.and_self
  · simp only [Hall.room, rooms]
  · simp only [Hall.room, rooms]; exact id

/-- Every room is changed in its dormancy, its timer and its mark alone, and none falls DORMANT. -/
theorem mapRooms (h : Hall) (f : SegId → Room → Room) (hc : ∀ i r, (f i r).core = r.core)
    (hf : ∀ i r, (f i r).frozen = r.frozen) (hd : ∀ i r, r.dormant = false → (f i r).dormant = false) :
    Onward h { h with rooms := tab fun i => (h.rooms[i]).map (f i) } := by
  have room (i : SegId) : ({ h with rooms := tab fun i => (h.rooms[i]).map (f i) } : Hall).room i =
      (h.room i).map (f i) := tab_get _ i
  refine ⟨rooms_core h f hc, fun p => BitVec.and_self, fun i => ?_, fun i => ?_⟩
  · rw [room]
    cases h.room i <;> simp [hf]
  · rw [room]
    cases h.room i with
    | none => exact id
    | some r => simpa using hd i r

theorem setRoom {h : Hall} {i : SegId} {r r' : Room} (hr : h.room i = some r) (hc : r'.core = r.core)
    (hf : r'.frozen = r.frozen) (hd : r.dormant = false → r'.dormant = false) : Onward h (h.setRoom i (some r')) := by
  refine ⟨setRoom_core h i _ (by simp [hr, hc]), fun p => BitVec.and_self, fun j => ?_, fun j => ?_⟩
  · by_cases hij : i = j
    · subst hij; simp [hr, hf]
    · rw [Hall.setRoom_room_ne _ _ hij]
  · by_cases hij : i = j
    · subst hij; simpa [hr] using hd
    · rw [Hall.setRoom_room_ne _ _ hij]; exact id

theorem fold {γ : Type} {f : Hall → γ → Hall} (hf : ∀ g c, Onward g (f g c)) (l : List γ) (h : Hall) :
    Onward h (l.foldl f h) :=
  foldl_keeps (P := Onward h) (fun _ c w => w.trans (hf _ c)) l h (refl h)

theorem raise (h : Hall) (f : Flag) (x : SegSet) : Onward h (Machine.raise f x h) := by
  refine ⟨raise_core h f x, fun p => ?_, fun _ => rfl, fun _ => id⟩
  have : (Machine.raise f x h).ports[p] = if portTakes h.ports[p] f x then portFlagged h.ports[p] f else h.ports[p] :=
    tab_get _ p
  rw [this]
  unfold portFlagged
  repeat' split
  · exact BitVec.and_self
  · show (h.ports[p]).flags &&& ((h.ports[p]).flags ||| flagBit f) = _
    exact and_or_self _ _
  · exact BitVec.and_self

theorem told {h g : Hall} (w : Onward h g) {f : Flag} {x : SegSet} (t : h.told f x) : g.told f x := by
  intro p ht hm
  have core := core_port w.core p
  simp only [Port.core, Prod.mk.injEq] at core
  obtain ⟨role, scope, -, -, mask, -⟩ := core
  have old := t p (by simpa only [portTakes, role, scope] using ht) (by rwa [mask] at hm)
  intro e
  apply old
  rw [← w.flags p, BitVec.and_assoc, e]
  exact BitVec.and_zero

end Onward

/-- An event raised for segments is told to the ports that take it (R182). -/
theorem raise_told (h : Hall) (f : Flag) (x : SegSet) : (raise f x h).told f x := by
  intro p ht hm
  have port : (raise f x h).ports[p] = if portTakes h.ports[p] f x then portFlagged h.ports[p] f else h.ports[p] :=
    tab_get _ p
  have core := core_port (raise_core h f x) p
  simp only [Port.core, Prod.mk.injEq] at core
  obtain ⟨role, scope, -, -, mask, -⟩ := core
  have takes : portTakes h.ports[p] f x = true := by simpa only [portTakes, role, scope] using ht
  rw [mask] at hm
  rw [port, if_pos takes, portFlagged, if_neg hm]
  intro e
  have none : flagBit f = 0 := (or_and_self _ _).symm.trans e
  exact hm (by rw [none]; exact BitVec.and_zero)

/-! ## The operations -/

section
variable (h : Hall)

theorem setEntry_onward (r : SlotRef) (e : Option Entry) : Onward h (h.setEntry r e) := .of_eq rfl rfl rfl

theorem setAddr_onward (u : UnitId) (r : AddrRec) : Onward h (h.setAddr u r) := .of_eq rfl rfl rfl

theorem requests_onward (l : List Request) : Onward h { h with requests := l } := .of_eq rfl rfl rfl

theorem raiseRoom_onward (f : Flag) (i : SegId) : Onward h (raiseRoom f i h) := .raise h f _

theorem raiseAt_onward (f : Flag) (sg : SegId) : Onward h (raiseAt f sg h) := by
  unfold raiseAt
  split
  · exact raiseRoom_onward h f _
  · exact .refl h

theorem raiseSeat_onward (sg : Option SegId) : Onward h (raiseSeat sg h) := by
  unfold raiseSeat
  split
  · exact raiseAt_onward h _ _
  · exact .refl h

theorem giveFloor_onward (u : UnitId) (o : FloorOrder) : Onward h (giveFloor h u o) := by
  unfold giveFloor
  split
  · exact setAddr_onward h _ _
  · exact .refl h

theorem giveNotice_onward (u : UnitId) (n : Notice) : Onward h (giveNotice h u n) := by
  unfold giveNotice
  split
  · exact setAddr_onward h _ _
  · exact .refl h

theorem withdrawGrant_onward (u : UnitId) : Onward h (withdrawGrant h u) := by
  unfold withdrawGrant
  split
  · exact setAddr_onward h _ _
  · exact .refl h

theorem stopConfirm_onward (u : UnitId) : Onward h (stopConfirm h u) := setAddr_onward h _ _

theorem setUnit_onward (u : UnitId) (r : UnitRec) (hr : r.core = (h.unit u).core) : Onward h (h.setUnit u r) :=
  .of_eq rfl rfl (setUnit_core h u r hr)

theorem clearWarn_onward (u : UnitId) : Onward h (clearWarn h u) := by
  unfold clearWarn
  split
  · exact (giveNotice_onward h u _).trans (setUnit_onward _ _ _ (by simp [UnitRec.core]))
  · exact .refl h

theorem warnUnit_onward (u : UnitId) : Onward h (warnUnit h u) := by
  unfold warnUnit
  split
  · exact .refl h
  · exact (giveNotice_onward h u _).trans (setUnit_onward _ _ _ (by simp [UnitRec.core]))

theorem alignSeat_onward (u : UnitId) : Onward h (alignSeat h u) := by
  unfold alignSeat
  simp only []
  split
  · exact (setUnit_onward h u { h.unit u with seat := (h.unit u).seatCalled } rfl).trans ((raiseSeat_onward _ _).trans (raiseSeat_onward _ _))
  · exact .refl h

/-- A room whose elevated mark on a unit is cleared (R110). -/
def Room.unmarked (u : UnitId) (r : Room) : Room := if r.elevated = some u then { r with elevated := none } else r

@[simp] theorem Room.unmarked_core (u : UnitId) (r : Room) : (r.unmarked u).core = r.core := by
  unfold Room.unmarked; split <;> rfl

@[simp] theorem Room.unmarked_frozen (u : UnitId) (r : Room) : (r.unmarked u).frozen = r.frozen := by
  unfold Room.unmarked; split <;> rfl

@[simp] theorem Room.unmarked_dormant (u : UnitId) (r : Room) : (r.unmarked u).dormant = r.dormant := by
  unfold Room.unmarked; split <;> rfl

theorem removeRequest_onward (u : UnitId) : Onward h (removeRequest h u) :=
  (requests_onward h (h.requests.filter fun q => q.unit ≠ u)).trans
    (.mapRooms _ (fun _ => Room.unmarked u) (fun _ => Room.unmarked_core u) (fun _ => Room.unmarked_frozen u)
      fun _ r hd => (Room.unmarked_dormant u r).trans hd)

theorem wake_onward (i : SegId) : Onward h (wake h i) := by
  unfold wake
  split
  · exact .refl h
  · next r hr =>
    split
    · exact (Onward.setRoom (r' := { r with dormant := false }) hr rfl rfl fun _ => rfl).trans (raiseRoom_onward _ _ _)
    · split
      · exact .setRoom (r' := { r with idle := some (idleMs r) }) hr rfl rfl id
      · exact .refl h

theorem mapRequests_onward (x : SegSet) (f : Request → Request) : Onward h (mapRequests h x f) := requests_onward h _

theorem ageRoom_onward (i : SegId) : Onward h (ageRoom h i) := by
  unfold ageRoom
  split
  · exact mapRequests_onward h _ _
  · exact .refl h

theorem seq_onward (n : Stamp) : Onward h { h with seq := n } := .of_eq rfl rfl rfl

theorem grantUnit_onward (u : UnitId) (g : Option Stamp) : Onward h (grantUnit h u g) := by
  unfold grantUnit
  split
  · next k sg _ _ =>
    have taken (e : Option Entry) : Onward h (giveFloor ((removeRequest { h with seq := h.seq + 1 } u).setEntry
        { trunk := u.trunk, slot := k } e) u (.grant k)) :=
      (seq_onward h _).trans ((removeRequest_onward _ u).trans ((setEntry_onward _ _ e).trans (giveFloor_onward _ _ _)))
    simp only []
    split
    · exact (taken _).trans ((raiseAt_onward _ _ _).trans (wake_onward _ _))
    · exact (taken _).trans (raiseAt_onward _ _ _)
  · exact .refl h

theorem closeEntry_onAir {r : SlotRef} {e : Entry} (he : h.entry r = some e) (ho : e.onAir = true) :
    closeEntry h r = closedPools h r e := by
  unfold closeEntry closedPools
  rw [he]
  exact if_pos ho

theorem closeEntry_offAir {r : SlotRef} (ho : ∀ e, h.entry r = some e → e.onAir = false) : closeEntry h r = h := by
  unfold closeEntry
  split
  · next e he => exact if_neg (by rw [ho e he]; decide)
  · rfl

theorem closedPools_onward (r : SlotRef) (e : Entry) : Onward h (closedPools h r e) := by
  refine Onward.trans ?_ (raiseAt_onward _ _ _)
  split
  · exact (setEntry_onward h r _).trans (clearWarn_onward _ _)
  · exact setEntry_onward h r _

theorem closeEntry_onward (r : SlotRef) : Onward h (closeEntry h r) := by
  by_cases ho : ∃ e, h.entry r = some e ∧ e.onAir = true
  · obtain ⟨e, he, ho⟩ := ho
    rw [closeEntry_onAir h he ho]
    exact closedPools_onward h r e
  · rw [closeEntry_offAir h fun e he => by simpa using fun c => ho ⟨e, he, c⟩]
    exact .refl h

theorem dropEntry_onward (r : SlotRef) (e : Entry) : Onward h (dropEntry h r e) :=
  (setEntry_onward h r none).trans (raiseAt_onward _ _ _)

theorem denyWaiting_onward (u : UnitId) : Onward h (denyWaiting h u) :=
  (removeRequest_onward h u).trans ((giveFloor_onward _ _ _).trans (alignSeat_onward _ _))

end

end Sys2Proof.Machine
end

section
/-! Grants that the part gives of its own accord, one after another (R82, R84, R85, R102, R112, R117): each is to a
waiting request of a room that is not frozen, which is under its limit unless the request is a chair's; and a room that
is not frozen ages its requests. -/

namespace Sys2Proof.Machine

/-! ## The records that the operations write -/

section
variable (h : Hall)

@[simp] theorem raiseAt_units (f : Flag) (sg : SegId) : (raiseAt f sg h).units = h.units := by
  unfold raiseAt; split <;> rfl

@[simp] theorem raiseAt_addrs (f : Flag) (sg : SegId) : (raiseAt f sg h).addrs = h.addrs := by
  unfold raiseAt; split <;> rfl

@[simp] theorem raiseSeat_units (sg : Option SegId) : (raiseSeat sg h).units = h.units := by
  unfold raiseSeat; split <;> simp

@[simp] theorem raiseSeat_addrs (sg : Option SegId) : (raiseSeat sg h).addrs = h.addrs := by
  unfold raiseSeat; split <;> simp

@[simp] theorem giveFloor_units (u : UnitId) (o : FloorOrder) : (giveFloor h u o).units = h.units := by
  unfold giveFloor; split <;> rfl

@[simp] theorem giveNotice_units (u : UnitId) (n : Notice) : (giveNotice h u n).units = h.units := by
  unfold giveNotice; split <;> rfl

@[simp] theorem withdrawGrant_units (u : UnitId) : (withdrawGrant h u).units = h.units := by
  unfold withdrawGrant; split <;> rfl

@[simp] theorem wake_units (i : SegId) : (wake h i).units = h.units := by
  unfold wake; repeat' split
  all_goals rfl

@[simp] theorem wake_addrs (i : SegId) : (wake h i).addrs = h.addrs := by
  unfold wake; repeat' split
  all_goals rfl

theorem unit_of_units {g h : Hall} (e : g.units = h.units) (u : UnitId) : g.unit u = h.unit u := by
  simp only [Hall.unit, e]

theorem addr_of_addrs {g h : Hall} (e : g.addrs = h.addrs) (u : UnitId) : g.addr u = h.addr u := by
  simp only [Hall.addr, e]

theorem giveFloor_addr_ne {u v : UnitId} (o : FloorOrder) (huv : u ≠ v) : (giveFloor h u o).addr v = h.addr v := by
  unfold giveFloor
  split
  · exact Hall.setAddr_addr_ne h _ huv
  · rfl

end

/-- What a grant leaves, where it finds a slot and the unit's seat (R75). -/
structure Taken (h g : Hall) (u : UnitId) (r : SlotRef) (e : Entry) : Prop where
  trunk    : r.trunk = u.trunk
  free     : h.entry r = none
  unit     : e.unit = some u.addr
  seat     : (h.unit u).seat = some e.seg
  chair    : e.chair = decide ((h.unit u).cls = .chair)
  granted  : e.state = .granted
  timer    : e.timer = none
  entry    : ∀ q, g.entry q = if q = r then some e else h.entry q
  requests : g.requests = h.requests.filter fun q => q.unit ≠ u
  units    : g.units = h.units
  addr     : ∀ v, v ≠ u → g.addr v = h.addr v

/-- The hall in which a unit's request has left the pool and an entry holds a slot, with the GRANT order given. -/
def takenHall (h : Hall) (u : UnitId) (k : SlotIx) (e : Entry) : Hall :=
  giveFloor ((removeRequest { h with seq := h.seq + 1 } u).setEntry { trunk := u.trunk, slot := k } (some e)) u (.grant k)

theorem takenHall_taken {h g : Hall} {u : UnitId} {k : SlotIx} {e : Entry} (hk : h.freeSlot u.trunk = some k)
    (unit : e.unit = some u.addr) (seat : (h.unit u).seat = some e.seg)
    (chair : e.chair = decide ((h.unit u).cls = .chair)) (granted : e.state = .granted) (timer : e.timer = none)
    (pools : g.pools = (takenHall h u k e).pools) (requests : g.requests = (takenHall h u k e).requests)
    (units : g.units = (takenHall h u k e).units) (addrs : g.addrs = (takenHall h u k e).addrs) :
    Taken h g u { trunk := u.trunk, slot := k } e := by
  refine ⟨rfl, freeSlot_free h hk, unit, seat, chair, granted, timer, fun q => ?_, ?_, ?_, fun v hv => ?_⟩
  · rw [entry_of_pools (pools.trans (giveFloor_pools _ _ _)) q]
    split
    · next e => subst e; exact Hall.setEntry_entry _ _ _
    · next e => exact Hall.setEntry_entry_ne _ _ fun c => e c.symm
  · exact requests.trans (giveFloor_requests _ _ _)
  · exact units.trans (giveFloor_units _ _ _)
  · rw [addr_of_addrs addrs]
    exact giveFloor_addr_ne _ _ hv.symm

/-- The entry that a grant files (R75). -/
def grantEntry (h : Hall) (u : UnitId) (sg : SegId) (given : Option Stamp) : Entry where
  unit := some u.addr
  seg := sg
  chair := (h.unit u).cls = .chair
  reqStamp := (given.orElse fun _ => (h.requestOf u).map (·.stamp)).getD (h.seq + 1)
  grantStamp := h.seq + 1
  state := .granted
  e := 0
  ramp := none
  timer := none

/-- A grant does nothing where no slot is free or the unit has no seat, and otherwise takes a slot. -/
theorem grantUnit_cases (h : Hall) (u : UnitId) (given : Option Stamp) :
    grantUnit h u given = h ∨ ∃ r e, Taken h (grantUnit h u given) u r e := by
  unfold grantUnit
  split
  · next k sg hk hs =>
    refine .inr ⟨_, grantEntry h u sg given, takenHall_taken hk rfl hs rfl rfl rfl ?_ ?_ ?_ ?_⟩
    all_goals
      simp only []
      split <;> simp [takenHall, grantEntry]
  · exact .inl rfl

/-! ## Serving -/

/-- A unit's request waits in a room that is not frozen, and the room is under its limit unless the request is a
chair's. -/
def Grantable (h : Hall) (u : UnitId) : Prop :=
  ∃ q ∈ h.requests, q.unit = u ∧ ∃ i r, h.room i = some r ∧ r.frozen = false ∧ h.seatedIn r.segs u = true ∧
    (q.cls = .chair ∨ h.underLimit i = true)

/-- One act of grant handling: a grant, the aging of a room's requests, or a move of a rotation pointer. -/
inductive Served : Hall → Hall → Prop
  | grant {h : Hall} {u : UnitId} (w : Grantable h u) : Served h (grantUnit h u none)
  | age {h : Hall} {i : SegId} {r : Room} (hr : h.room i = some r) (hf : r.frozen = false) : Served h (ageRoom h i)
  | rotation (h : Hall) (v : Vector SegId 4) : Served h { h with rotation := v }

/-- Any number of acts of grant handling. -/
abbrev Serving : Hall → Hall → Prop := Relation.ReflTransGen Served

theorem Served.onward {h g : Hall} (w : Served h g) : Onward h g := by
  cases w with
  | grant _ => exact grantUnit_onward h _ _
  | age _ _ => exact ageRoom_onward h _
  | rotation v => exact .of_eq rfl rfl rfl

theorem Serving.onward {h g : Hall} (w : Serving h g) : Onward h g := by
  induction w with
  | refl => exact .refl h
  | tail _ step ih => exact ih.trans step.onward

theorem Serving.fold {γ : Type} {f : Hall → γ → Hall} (hf : ∀ g c, Serving g (f g c)) (l : List γ) (h : Hall) :
    Serving h (l.foldl f h) :=
  foldl_keeps (P := Serving h) (fun _ c w => w.trans (hf _ c)) l h .refl

theorem ageRoom_units (h : Hall) (i : SegId) : (ageRoom h i).units = h.units := by
  unfold ageRoom; split <;> rfl

theorem grantUnit_units (h : Hall) (u : UnitId) (g : Option Stamp) : (grantUnit h u g).units = h.units := by
  rcases grantUnit_cases h u g with e | ⟨r, x, t⟩
  · rw [e]
  · exact t.units

/-- Grant handling writes no unit's record. -/
theorem Served.units {h g : Hall} (w : Served h g) : g.units = h.units := by
  cases w with
  | grant _ => exact grantUnit_units h _ _
  | age _ _ => exact ageRoom_units h _
  | rotation _ => rfl

theorem Serving.units {h g : Hall} (w : Serving h g) : g.units = h.units := by
  induction w with
  | refl => rfl
  | tail _ step ih => exact step.units.trans ih

theorem seatedIn_of_units {g h : Hall} (e : g.units = h.units) (x : SegSet) (u : UnitId) :
    g.seatedIn x u = h.seatedIn x u := by
  simp only [Hall.seatedIn, unit_of_units e]

/-! ### The arbiter -/

theorem bestScored_mem {h : Hall} {r : Room} {cs : List Request} {q : Request} (e : bestScored h r cs = some q) :
    q ∈ cs := by
  induction cs generalizing q with
  | nil => cases e
  | cons c cs ih =>
    unfold bestScored at e
    split at e
    · next b hb =>
      split at e
      · cases e; exact .tail c (ih hb)
      · cases e; exact .head cs
    · cases e; exact .head cs

theorem choose_mem {h : Hall} {r : Room} {cs : List Request} {q : Request} (e : choose h r cs = some q) : q ∈ cs := by
  unfold choose at e
  cases elevated : cs.find? fun q => decide (r.elevated = some q.unit) with
  | some a =>
    rw [elevated] at e
    cases e
    exact List.mem_of_find?_eq_some elevated
  | none =>
    cases due : cs.find? fun q => q.due with
    | some a =>
      rw [elevated, due] at e
      cases e
      exact List.mem_of_find?_eq_some due
    | none =>
      rw [elevated, due] at e
      exact bestScored_mem e

theorem segsOf_room {h : Hall} {i : SegId} {r : Room} (hr : h.room i = some r) : h.segsOf i = r.segs := by
  simp only [Hall.segsOf, hr]

theorem queue_room {h : Hall} {i : SegId} {r : Room} (hr : h.room i = some r) : h.queue i = h.queueIn r.segs := by
  simp only [Hall.queue, segsOf_room hr]

theorem candidates_mem {h : Hall} {i : SegId} {q : Request} (hq : q ∈ candidates h i) :
    h.underLimit i = true ∧ q ∈ h.queue i := by
  unfold candidates at hq
  split at hq
  · next hl => exact ⟨hl, List.mem_of_mem_filter hq⟩
  · cases hq

theorem frozen_room {h g : Hall} (w : Onward h g) {i : SegId} {r : Room} (hr : h.room i = some r) :
    ∃ r', g.room i = some r' ∧ r'.frozen = r.frozen := by
  have := w.frozen i
  rw [hr] at this
  exact Option.map_eq_some_iff.1 this

theorem selectOnce_serving {h g : Hall} {i : SegId} {r : Room} (hr : h.room i = some r) (hf : r.frozen = false)
    (e : selectOnce h i = some g) : Serving h g := by
  simp only [selectOnce, hr, Option.bind_some] at e
  obtain ⟨q, hq, rfl⟩ := Option.map_eq_some_iff.1 e
  obtain ⟨hl, hq⟩ := candidates_mem (choose_mem hq)
  rw [queue_room hr, mem_queueIn] at hq
  obtain ⟨r', hr', hf'⟩ := frozen_room (grantUnit_onward h q.unit none) hr
  exact .tail (.single (.grant ⟨q, hq.1, rfl, i, r, hr, hf, hq.2, .inr hl⟩)) (.age hr' (hf'.trans hf))

theorem arbiterLoop_serving (n : Nat) {h : Hall} {i : SegId} {r : Room} (hr : h.room i = some r)
    (hf : r.frozen = false) : Serving h (arbiterLoop n h i) := by
  induction n generalizing h r with
  | zero => exact .refl
  | succ n ih =>
    unfold arbiterLoop
    split
    · next g e =>
      have first := selectOnce_serving hr hf e
      obtain ⟨r', hr', hf'⟩ := frozen_room first.onward hr
      exact first.trans (ih hr' (hf'.trans hf))
    · exact .refl

theorem arbiterRun_serving (h : Hall) (i : SegId) : Serving h (arbiterRun h i) := by
  unfold arbiterRun
  split
  · next r hr =>
    split
    · next hc =>
      simp only [Bool.and_eq_true, Bool.not_eq_true'] at hc
      exact arbiterLoop_serving _ hr hc.2
    · exact .refl
  · exact .refl

/-! ### OVERRIDE rooms and freed slots -/

theorem requestOf_isSome {h : Hall} {u : UnitId} (e : (h.requestOf u).isSome = true) : ∃ q ∈ h.requests, q.unit = u := by
  obtain ⟨q, hq⟩ := Option.isSome_iff_exists.1 e
  exact ⟨q, List.mem_of_find?_eq_some hq, by simpa using List.find?_some hq⟩

theorem segs_room {h g : Hall} (w : Onward h g) {i : SegId} {r : Room} (hr : h.room i = some r) :
    ∃ r', g.room i = some r' ∧ r'.core = r.core := by
  have := core_room w.core i
  rw [hr] at this
  exact Option.map_eq_some_iff.1 this

theorem serveRequest_serving {h : Hall} {i : SegId} {r : Room} {u : UnitId} (hr : h.room i = some r)
    (hf : r.frozen = false) (hs : h.seatedIn r.segs u = true) : Serving h (serveRequest i h u) := by
  unfold serveRequest
  split
  · next hc =>
    simp only [Bool.and_eq_true] at hc
    obtain ⟨q, hq, hu⟩ := requestOf_isSome hc.1.1
    exact .single (.grant ⟨q, hq, hu, i, r, hr, hf, hs, .inr hc.1.2⟩)
  · exact .refl

theorem serveRequests_serving {i : SegId} (us : List UnitId) {h : Hall} {r : Room} (hr : h.room i = some r)
    (hf : r.frozen = false) (hs : ∀ u ∈ us, h.seatedIn r.segs u = true) : Serving h (us.foldl (serveRequest i) h) := by
  induction us generalizing h r with
  | nil => exact .refl
  | cons u us ih =>
    have first := serveRequest_serving hr hf (hs u (.head us))
    obtain ⟨r', hr', hf'⟩ := frozen_room first.onward hr
    obtain ⟨r'', hr'', hc⟩ := segs_room first.onward hr
    cases hr'.symm.trans hr''
    refine first.trans (ih hr' (hf'.trans hf) fun v hv => ?_)
    rw [seatedIn_of_units first.units, show r'.segs = r.segs from congrArg (·.1) hc]
    exact hs v (.tail u hv)

theorem overrideService_serving {h : Hall} {i : SegId} {r : Room} (hr : h.room i = some r) (hf : r.frozen = false) :
    Serving h (overrideService h i) := by
  refine serveRequests_serving _ hr hf fun u hu => ?_
  obtain ⟨q, hq, rfl⟩ := List.mem_map.1 hu
  rw [queue_room hr, mem_queueIn] at hq
  exact hq.2

theorem grantHandling_serving (h : Hall) (i : SegId) : Serving h (grantHandling h i) := by
  unfold grantHandling
  split
  · exact .refl
  · next r hr =>
    split
    · exact .refl
    · next hf =>
      split
      · exact arbiterRun_serving h i
      · exact .refl
      · exact overrideService_serving hr (by simpa using hf)

theorem grantHandlingAt_serving (h : Hall) (i : Option SegId) : Serving h (grantHandlingAt h i) := by
  unfold grantHandlingAt
  split
  · exact grantHandling_serving h _
  · exact .refl

theorem rotate_serving (t : TrunkId) (o : Option SegId) (l : List SegId) (h : Hall) : Serving h (rotate t o l h) := by
  induction l generalizing h with
  | nil => exact .refl
  | cons i l ih =>
    unfold rotate
    split
    · exact ih h
    · simp only []
      split
      · exact (arbiterRun_serving h i).tail (.rotation _ _)
      · exact (arbiterRun_serving h i).trans (ih _)

theorem rotateSlot_serving (o : Option SegId) (h : Hall) (t : TrunkId) : Serving h (rotateSlot o h t) := by
  unfold rotateSlot
  split
  · exact .refl
  · exact rotate_serving _ _ _ _

/-- The room found for a segment holds it. -/
theorem roomOf_eq_some {h : Hall} {sg i : SegId} (e : h.roomOf sg = some i) :
    ∃ r, h.room i = some r ∧ inSet r.segs sg = true := by
  have := List.find?_some e
  cases hr : h.room i with
  | none => simp [hr] at this
  | some r => exact ⟨r, rfl, by simpa [hr] using this⟩

theorem chairRequests_grantable {h : Hall} {t : TrunkId} {u : UnitId} (hu : u ∈ chairRequests h t) : Grantable h u := by
  obtain ⟨q, hq, rfl⟩ := List.mem_map.1 hu
  obtain ⟨hq, hc⟩ := List.mem_filter.1 ((sortBy_perm _ _).mem_iff.1 hq)
  simp only [Bool.and_eq_true, decide_eq_true_eq] at hc
  obtain ⟨⟨hchair, -⟩, hroom⟩ := hc
  cases hi : h.unitRoom q.unit with
  | none => simp [hi] at hroom
  | some i =>
    obtain ⟨sg, hsg, hi'⟩ := Option.bind_eq_some_iff.1 hi
    obtain ⟨r, hr, hs⟩ := roomOf_eq_some hi'
    refine ⟨q, hq, rfl, i, r, hr, ?_, ?_, .inl hchair⟩
    · simpa [hi, Hall.frozen, hr] using hroom
    · simp only [Hall.seatedIn, hsg, hs]

theorem offerChairs_serving (l : List TrunkId) (h : Hall) : Serving h (offerChairs l h).1 := by
  induction l generalizing h with
  | nil => exact .refl
  | cons t l ih =>
    unfold offerChairs
    split
    · next u us hu => exact .head (.grant (chairRequests_grantable (by rw [hu]; exact .head us))) (ih _)
    · exact ih h

theorem ifHandled_serving (h : Hall) (o : Option SegId) (c : Bool) :
    Serving h (if c = true then grantHandlingAt h o else h) := by
  cases c
  · exact .refl
  · exact grantHandlingAt_serving h o

/-- The handing on of freed slots is grant handling. -/
theorem handOn_serving (h : Hall) (l : List TrunkId) (o : Option SegId) (f : Bool) : Serving h (handOn h l o f) := by
  simp only [handOn]
  refine (offerChairs_serving l h).trans (.trans ?_ (Serving.fold (fun g t => rotateSlot_serving _ g t) _ _))
  exact ifHandled_serving _ o _

theorem chairService_onward (h : Hall) (is : List SegId) : Onward h (chairService h is) := by
  unfold chairService
  refine .fold (fun g u => ?_) _ _
  split
  · exact grantUnit_onward g u none
  · exact .refl g

theorem unfreeze_onward (h : Hall) (is : List SegId) : Onward h (unfreeze h is) :=
  (chairService_onward h is).trans (.fold (fun g i => (grantHandling_serving g i).onward) _ _)

end Sys2Proof.Machine
end

section
/-! What grant handling leaves of the request pool, the slots, a room's count and a unit of a frozen room (R82, R102,
R105, R108). -/

namespace Sys2Proof.Machine

/-! ## Requests -/

/-- Each request of `g` was one of `h`, with its unit and class, and no unit has more of them. -/
structure Fewer (h g : Hall) : Prop where
  units : (g.requests.map (·.unit)).Sublist (h.requests.map (·.unit))
  old   : ∀ q ∈ g.requests, ∃ p ∈ h.requests, q.unit = p.unit ∧ q.cls = p.cls

namespace Fewer

theorem refl (h : Hall) : Fewer h h := ⟨.refl _, fun q hq => ⟨q, hq, rfl, rfl⟩⟩

theorem trans {f g h : Hall} (a : Fewer f g) (b : Fewer g h) : Fewer f h := by
  refine ⟨b.units.trans a.units, fun q hq => ?_⟩
  obtain ⟨p, hp, hu, hc⟩ := b.old q hq
  obtain ⟨o, ho, hu', hc'⟩ := a.old p hp
  exact ⟨o, ho, hu.trans hu', hc.trans hc'⟩

theorem of_eq {h g : Hall} (e : g.requests = h.requests) : Fewer h g :=
  ⟨by rw [e], fun q hq => ⟨q, e ▸ hq, rfl, rfl⟩⟩

theorem filter {h g : Hall} {f : Request → Bool} (e : g.requests = h.requests.filter f) : Fewer h g :=
  ⟨e ▸ List.filter_sublist.map _, fun q hq => ⟨q, List.mem_of_mem_filter (e ▸ hq), rfl, rfl⟩⟩

theorem map {h g : Hall} {f : Request → Request} (hu : ∀ q, (f q).unit = q.unit) (hc : ∀ q, (f q).cls = q.cls)
    (e : g.requests = h.requests.map f) : Fewer h g := by
  refine ⟨?_, fun q hq => ?_⟩
  · rw [e, List.map_map, show (·.unit) ∘ f = (·.unit) from funext hu]
  · rw [e] at hq
    obtain ⟨p, hp, rfl⟩ := List.mem_map.1 hq
    exact ⟨p, hp, hu p, hc p⟩

theorem fold {γ : Type} {f : Hall → γ → Hall} (hf : ∀ g c, Fewer g (f g c)) (l : List γ) (h : Hall) :
    Fewer h (l.foldl f h) :=
  foldl_keeps (P := Fewer h) (fun _ c w => w.trans (hf _ c)) l h (refl h)

/-- A queue holds no more requests, where the seats are the same. -/
theorem queue_le {h g : Hall} (w : Fewer h g) {x : SegSet} (e : ∀ q ∈ g.requests, g.seatedIn x q.unit = h.seatedIn x q.unit) :
    (g.queueIn x).length ≤ (h.queueIn x).length := by
  rw [length_queueIn, length_queueIn, List.countP_congr (q := fun q => h.seatedIn x q.unit) fun q hq => by rw [e q hq]]
  have count (l : List Request) : l.countP (fun q => h.seatedIn x q.unit) = (l.map (·.unit)).countP (h.seatedIn x) := by
    rw [List.countP_map]; rfl
  rw [count, count]
  exact w.units.countP_le

/-- The requests carry the classes of their units. -/
theorem classes {h g : Hall} (w : Fewer h g) (e : ∀ u, (g.unit u).cls = (h.unit u).cls)
    (c : ∀ q ∈ h.requests, q.cls = (h.unit q.unit).cls) : ∀ q ∈ g.requests, q.cls = (g.unit q.unit).cls := by
  intro q hq
  obtain ⟨p, hp, hu, hc⟩ := w.old q hq
  rw [hc, hu, e, c p hp]

end Fewer

@[simp] theorem ageRequest_unit (s : Settings) (q : Request) : (ageRequest s q).unit = q.unit := by
  unfold ageRequest; split <;> rfl

@[simp] theorem ageRequest_cls (s : Settings) (q : Request) : (ageRequest s q).cls = q.cls := by
  unfold ageRequest; split <;> rfl

theorem mapRequests_fewer (h : Hall) (x : SegSet) {f : Request → Request} (hu : ∀ q, (f q).unit = q.unit)
    (hc : ∀ q, (f q).cls = q.cls) : Fewer h (mapRequests h x f) := by
  refine .map (f := fun q => if h.seatedIn x q.unit then f q else q) (fun q => ?_) (fun q => ?_) rfl
  · split
    · exact hu q
    · rfl
  · split
    · exact hc q
    · rfl

theorem ageRoom_fewer (h : Hall) (i : SegId) : Fewer h (ageRoom h i) := by
  unfold ageRoom
  split
  · exact mapRequests_fewer h _ (ageRequest_unit _) (ageRequest_cls _)
  · exact .refl h

theorem grantUnit_fewer (h : Hall) (u : UnitId) (given : Option Stamp) : Fewer h (grantUnit h u given) := by
  rcases grantUnit_cases h u given with e | ⟨r, x, t⟩
  · rw [e]; exact .refl h
  · exact .filter t.requests

theorem Served.fewer {h g : Hall} (w : Served h g) : Fewer h g := by
  cases w with
  | grant _ => exact grantUnit_fewer h _ _
  | age _ _ => exact ageRoom_fewer h _
  | rotation _ => exact .of_eq rfl

theorem Serving.fewer {h g : Hall} (w : Serving h g) : Fewer h g := by
  induction w with
  | refl => exact .refl h
  | tail _ step ih => exact ih.trans step.fewer

/-! ## Slots -/

/-- From `h` to `g` slots are newly held by GRANTED entries without a timer, and nothing else. -/
structure Filled (h g : Hall) : Prop where
  held : Held h g
  new  : ∀ q e, g.entry q = some e → h.entry q = some e ∨ (h.entry q = none ∧ e.state = .granted ∧ e.timer = none)

namespace Filled

theorem refl (h : Hall) : Filled h h := ⟨.refl h, fun _ _ => .inl⟩

theorem trans {f g h : Hall} (a : Filled f g) (b : Filled g h) : Filled f h := by
  refine ⟨a.held.trans b.held, fun q e he => ?_⟩
  rcases b.new q e he with he | ⟨hn, hs⟩
  · exact a.new q e he
  · refine .inr ⟨?_, hs⟩
    cases hf : f.entry q with
    | none => rfl
    | some x => rw [a.held q x hf] at hn; cases hn

theorem of_pools {h g : Hall} (e : g.pools = h.pools) : Filled h g :=
  ⟨.of_pools e, fun q x hx => .inl (by rwa [← entry_of_pools e q])⟩

/-- An entry that is not GRANTED stands in the one hall as in the other. -/
theorem entry_iff {h g : Hall} (w : Filled h g) {q : SlotRef} {e : Entry} (he : e.state ≠ .granted) :
    g.entry q = some e ↔ h.entry q = some e := by
  refine ⟨fun x => ?_, w.held q e⟩
  rcases w.new q e x with x | ⟨-, hs, -⟩
  · exact x
  · exact absurd hs he

end Filled

theorem grantUnit_filled (h : Hall) (u : UnitId) (given : Option Stamp) : Filled h (grantUnit h u given) := by
  refine ⟨grantUnit_held h u given, fun q e he => ?_⟩
  rcases grantUnit_cases h u given with x | ⟨r, a, t⟩
  · rw [x] at he; exact .inl he
  · rw [t.entry q] at he
    split at he
    · next hq => cases he; exact .inr ⟨hq ▸ t.free, t.granted, t.timer⟩
    · exact .inl he

theorem Served.filled {h g : Hall} (w : Served h g) : Filled h g := by
  cases w with
  | grant _ => exact grantUnit_filled h _ _
  | age _ _ => exact .of_pools (ageRoom_pools h _)
  | rotation _ => exact .of_pools rfl

theorem Serving.filled {h g : Hall} (w : Serving h g) : Filled h g := by
  induction w with
  | refl => exact .refl h
  | tail _ step ih => exact ih.trans step.filled

/-! ## The count of a room -/

/-- Slot `q` holds a counted entry filed in `x` (R82). -/
def Hall.countedAt (h : Hall) (x : SegSet) (q : SlotRef) : Bool :=
  match h.entry q with
  | some e => inSet x e.seg && e.counted
  | none => false

theorem countIn_eq (h : Hall) (x : SegSet) : h.countIn x = allSlots.countP (h.countedAt x) := rfl

/-- A slot that no longer counts lowers the count, when no other slot counts anew. -/
theorem countP_lt {α : Type} {l : List α} {p p' : α → Bool} {a : α} (hl : a ∈ l) (hp : p a = true) (hp' : p' a = false)
    (h : ∀ b, b ≠ a → p' b = true → p b = true) : l.countP p' < l.countP p := by
  have le : ∀ b, p' b = true → p b = true := fun b hb => by
    by_cases e : b = a
    · rw [e, hp'] at hb; cases hb
    · exact h b e hb
  obtain ⟨s, t, rfl⟩ := List.append_of_mem hl
  have hs := List.countP_mono_left (l := s) fun b _ => le b
  have ht := List.countP_mono_left (l := t) fun b _ => le b
  simp only [List.countP_append, List.countP_cons, hp, hp', if_true]
  simp only [Bool.false_eq_true, if_false]
  omega

theorem countP_le_succ {α : Type} {l : List α} (hl : l.Nodup) {p p' : α → Bool} (a : α)
    (h : ∀ b, b ≠ a → p' b = true → p b = true) : l.countP p' ≤ l.countP p + 1 := by
  by_cases ha : a ∈ l
  · obtain ⟨s, t, rfl⟩ := List.append_of_mem ha
    have apart := List.nodup_middle.1 hl
    have other : ∀ b ∈ s ++ t, b ≠ a := fun b hb e => (List.nodup_cons.1 apart).1 (e ▸ hb)
    have hs := List.countP_mono_left (l := s) fun b hb => h b (other b (List.mem_append_left _ hb))
    have ht := List.countP_mono_left (l := t) fun b hb => h b (other b (List.mem_append_right _ hb))
    simp only [List.countP_append, List.countP_cons]
    split <;> split <;> omega
  · exact Nat.le_succ_of_le (List.countP_mono_left fun b hb => h b fun e => ha (e ▸ hb))

theorem apart_of_segs {g h : Hall} (e : ∀ k, (g.room k).map (·.segs) = (h.room k).map (·.segs)) {i : SegId}
    (w : h.apart i) : g.apart i := by
  intro j r r' hij hr hr'
  have old (k : SegId) (y : Room) (hy : g.room k = some y) : ∃ y', h.room k = some y' ∧ y'.segs = y.segs := by
    have := e k
    rw [hy] at this
    exact Option.map_eq_some_iff.1 this.symm
  obtain ⟨a, ha, hsa⟩ := old i r hr
  obtain ⟨b, hb, hsb⟩ := old j r' hr'
  rw [← hsa, ← hsb]
  exact w j a b hij ha hb

theorem segs_of_core {g h : Hall} (e : g.core = h.core) (k : SegId) :
    (g.room k).map (·.segs) = (h.room k).map (·.segs) := by
  have := congrArg (Option.map (·.1)) (core_room e k)
  rw [Option.map_map, Option.map_map] at this
  exact this

theorem apart_of_core {g h : Hall} (e : g.core = h.core) {i : SegId} (w : h.apart i) : g.apart i :=
  apart_of_segs (segs_of_core e) w

theorem inSet_and (x y : SegSet) (sg : SegId) : inSet (x &&& y) sg = (inSet x sg && inSet y sg) :=
  BitVec.getLsbD_and

/-- A segment of a room apart from the others lies in no other room. -/
theorem eq_of_apart {h : Hall} {i j : SegId} {r r' : Room} (w : h.apart i) (hr : h.room i = some r)
    (hr' : h.room j = some r') {sg : SegId} (hs : inSet r.segs sg = true) (hs' : inSet r'.segs sg = true) : j = i := by
  by_contra hij
  have := inSet_and r.segs r'.segs sg
  rw [w j r r' hij hr hr', hs, hs'] at this
  simp [inSet] at this

theorem seatedIn_iff {h : Hall} {x : SegSet} {u : UnitId} :
    h.seatedIn x u = true ↔ ∃ sg, (h.unit u).seat = some sg ∧ inSet x sg = true := by
  unfold Hall.seatedIn
  cases (h.unit u).seat <;> simp

/-- Grant handling brings no room above its open limit, or above the count that it had before (R82). -/
theorem Served.count_le {h g : Hall} (w : Served h g) {i : SegId} {r : Room} {n : Nat} (hr : h.room i = some r)
    (ha : h.apart i) (hc : ∀ q ∈ h.requests, q.cls = (h.unit q.unit).cls) (hn : r.settings.openLimit ≤ n)
    (hle : h.countIn r.segs ≤ n) : g.countIn r.segs ≤ n := by
  have same (e : g.pools = h.pools) : g.countIn r.segs ≤ n := by
    simp only [Hall.countIn, entry_of_pools e] at hle ⊢
    exact hle
  cases w with
  | age _ _ => exact same (ageRoom_pools h _)
  | rotation _ => exact same rfl
  | @grant u w =>
    rcases grantUnit_cases h u none with e | ⟨q, e, t⟩
    · rw [e]; exact hle
    · have counted (b : SlotRef) (hb : b ≠ q) : (grantUnit h u none).countedAt r.segs b = h.countedAt r.segs b := by
        simp only [Hall.countedAt, t.entry b, if_neg hb]
      by_cases hq : (grantUnit h u none).countedAt r.segs q = true
      · have at_q : (grantUnit h u none).entry q = some e := by rw [t.entry q, if_pos rfl]
        simp only [Hall.countedAt, at_q, Bool.and_eq_true, Entry.counted, t.chair, Bool.not_eq_true',
          decide_eq_false_iff_not] at hq
        obtain ⟨hseg, hnot, -⟩ := hq
        obtain ⟨p, hp, rfl, j, r', hr', -, hs, hlimit⟩ := w
        obtain ⟨sg, hsg, hin⟩ := seatedIn_iff.1 hs
        cases hsg.symm.trans t.seat
        obtain rfl := eq_of_apart ha hr hr' hseg hin
        cases hr.symm.trans hr'
        have under : h.underLimit j = true := hlimit.resolve_left fun c => hnot ((hc p hp).symm.trans c)
        have : h.countIn r.segs < r.settings.openLimit := by
          simpa [Hall.underLimit, hr, count_eq, segsOf_room hr] using under
        have := countP_le_succ allSlots_nodup (p := h.countedAt r.segs) (p' := (grantUnit h p.unit none).countedAt r.segs) q
          fun b hb => by rw [counted b hb]; exact id
        rw [← countIn_eq, ← countIn_eq] at this
        omega
      · refine le_trans (List.countP_mono_left fun b _ hb => ?_) hle
        by_cases e : b = q
        · rw [e] at hb; exact absurd hb hq
        · exact (counted b e).symm.trans hb

/-- The core keeps a room's segments and settings. -/
theorem room_of_core {g h : Hall} (e : g.core = h.core) {i : SegId} {r : Room} (hr : h.room i = some r) :
    ∃ r', g.room i = some r' ∧ r'.segs = r.segs ∧ r'.settings = r.settings := by
  have := core_room e i
  rw [hr] at this
  obtain ⟨r', hr', hc⟩ := Option.map_eq_some_iff.1 this
  exact ⟨r', hr', congrArg (·.1) hc, congrArg (·.2.2.2.1) hc⟩

theorem Serving.count_le {h g : Hall} (w : Serving h g) {i : SegId} {r : Room} {n : Nat} (hr : h.room i = some r)
    (ha : h.apart i) (hc : ∀ q ∈ h.requests, q.cls = (h.unit q.unit).cls) (hn : r.settings.openLimit ≤ n)
    (hle : h.countIn r.segs ≤ n) : g.countIn r.segs ≤ n := by
  induction w with
  | refl => exact hle
  | @tail a b before step ih =>
    have before' : Serving h a := before
    obtain ⟨r', hr', segs, settings⟩ := room_of_core before'.onward.core hr
    rw [← segs]
    refine step.count_le hr' (apart_of_core before'.onward.core ha) ?_ (settings ▸ hn) (segs ▸ ih)
    exact before'.fewer.classes (fun u => by rw [unit_of_units before'.units]) hc

/-! ## Dynamic scores -/

/-- The requests of units seated in `x` have scores and guard counts within the bounds (R73, R93). -/
def Hall.scoresWithin (h : Hall) (x : SegSet) (mx gd : Nat) : Prop :=
  ∀ q ∈ h.requests, h.seatedIn x q.unit = true → q.score ≤ mx ∧ q.guard ≤ gd

theorem ageRequest_within {s : Settings} {q : Request} {gd : Nat} (hs : q.score ≤ s.max) (hg : q.guard ≤ gd) :
    (ageRequest s q).score ≤ s.max ∧ (ageRequest s q).guard ≤ gd := by
  unfold ageRequest
  split
  · exact ⟨Nat.min_le_right _ _, hg⟩
  · exact ⟨hs, (Nat.sub_le _ _).trans hg⟩

/-- Grant handling keeps the scores of a room apart from the others within its max and the guard counts within any
bound (R108). -/
theorem Served.scoresWithin {h g : Hall} (w : Served h g) {i : SegId} {r : Room} {gd : Nat} (hr : h.room i = some r)
    (ha : h.apart i) (hb : h.scoresWithin r.segs r.settings.max gd) : g.scoresWithin r.segs r.settings.max gd := by
  cases w with
  | @grant u w =>
    rcases grantUnit_cases h u none with e | ⟨q, e, t⟩
    · rw [e]; exact hb
    · intro p hp hs
      rw [t.requests] at hp
      rw [seatedIn_of_units t.units] at hs
      exact hb p (List.mem_of_mem_filter hp) hs
  | @age j r' hr' _ =>
    intro p hp hs
    rw [seatedIn_of_units (ageRoom_units h j)] at hs
    simp only [ageRoom, hr', mapRequests] at hp
    obtain ⟨q, hq, rfl⟩ := List.mem_map.1 hp
    split at hs
    · next hj =>
      rw [if_pos hj]
      rw [ageRequest_unit] at hs
      obtain ⟨sg, hsg, hin⟩ := seatedIn_iff.1 hs
      obtain ⟨sg', hsg', hin'⟩ := seatedIn_iff.1 hj
      cases hsg.symm.trans hsg'
      obtain rfl := eq_of_apart ha hr hr' hin hin'
      cases hr.symm.trans hr'
      obtain ⟨hscore, hguard⟩ := hb q hq hs
      exact ageRequest_within hscore hguard
    · next hj =>
      rw [if_neg hj]
      exact hb q hq hs
  | rotation _ => exact hb

theorem Serving.scoresWithin {h g : Hall} (w : Serving h g) {i : SegId} {r : Room} {gd : Nat} (hr : h.room i = some r)
    (ha : h.apart i) (hb : h.scoresWithin r.segs r.settings.max gd) : g.scoresWithin r.segs r.settings.max gd := by
  induction w with
  | refl => exact hb
  | @tail a b before step ih =>
    have before' : Serving h a := before
    obtain ⟨r', hr', segs, settings⟩ := room_of_core before'.onward.core hr
    rw [← segs, ← settings]
    exact step.scoresWithin hr' (apart_of_core before'.onward.core ha) (by rwa [segs, settings])

end Sys2Proof.Machine
end

section
/-! Closing, recalling and denying (R76, R78, R93): what each leaves of the slots, the requests and the units. -/

namespace Sys2Proof.Machine

/-! ## Slots touched -/

theorem Entry.closed_onAir (e : Entry) : e.closed.onAir = false := rfl

theorem Entry.onAir_granted {e : Entry} (h : e.state = .granted) : e.onAir = false := by
  simp [Entry.onAir, h]

/-- From `h` to `g` the slots outside `l` keep their entries; and an entry of `g` was there before, or is newly GRANTED
without a timer, or is one of a slot in `l` that was on air and has been sent to CLOSING. -/
structure Touched (l : List SlotRef) (h g : Hall) : Prop where
  kept : ∀ q e, q ∉ l → h.entry q = some e → g.entry q = some e
  new  : ∀ q e, g.entry q = some e → h.entry q = some e ∨ (e.state = .granted ∧ e.timer = none) ∨
    (q ∈ l ∧ ∃ e', h.entry q = some e' ∧ e'.onAir = true ∧ e = e'.closed)

namespace Touched

theorem of_filled {h g : Hall} (w : Filled h g) : Touched [] h g :=
  ⟨fun q e _ => w.held q e, fun q e he => (w.new q e he).imp_right fun x => .inl x.2⟩

theorem of_pools {h g : Hall} (e : g.pools = h.pools) : Touched [] h g := of_filled (.of_pools e)

theorem refl (h : Hall) : Touched [] h h := of_pools rfl

theorem mono {l l' : List SlotRef} {h g : Hall} (w : Touched l h g) (hl : l ⊆ l') : Touched l' h g :=
  ⟨fun q e hq => w.kept q e fun c => hq (hl c),
    fun q e he => (w.new q e he).imp_right fun x => x.imp_right fun y => ⟨hl y.1, y.2⟩⟩

theorem trans {l l' : List SlotRef} {f g h : Hall} (a : Touched l f g) (b : Touched l' g h) : Touched (l ++ l') f h := by
  refine ⟨fun q e hq he => ?_, fun q e he => ?_⟩
  · rw [List.mem_append, not_or] at hq
    exact b.kept q e hq.2 (a.kept q e hq.1 he)
  · rcases b.new q e he with he | he | ⟨hq, e', he', ho, rfl⟩
    · exact (a.mono (List.subset_append_left l l')).new q e he
    · exact .inr (.inl he)
    · rcases a.new q e' he' with he' | ⟨hs, -⟩ | ⟨-, e'', -, -, rfl⟩
      · exact .inr (.inr ⟨List.mem_append_right l hq, e', he', ho, rfl⟩)
      · rw [Entry.onAir_granted hs] at ho; cases ho
      · rw [Entry.closed_onAir] at ho; cases ho

theorem filled {l : List SlotRef} {f g h : Hall} (a : Touched l f g) (b : Filled g h) : Touched l f h := by
  simpa using a.trans (of_filled b)

theorem fold {f : Hall → SlotRef → Hall} (hf : ∀ g r, Touched [r] g (f g r)) (l : List SlotRef) (h : Hall) :
    Touched l h (l.foldl f h) := by
  induction l generalizing h with
  | nil => exact refl h
  | cons r l ih => exact (hf h r).trans (ih _)

/-- An entry on air or in CLOSING after was so before, or is one that has been sent to CLOSING. -/
theorem old {l : List SlotRef} {h g : Hall} (w : Touched l h g) {q : SlotRef} {e : Entry} (he : g.entry q = some e)
    (ho : e.onAir = true) : h.entry q = some e := by
  rcases w.new q e he with he | ⟨hs, -⟩ | ⟨-, e', -, -, rfl⟩
  · exact he
  · rw [Entry.onAir_granted hs] at ho; cases ho
  · rw [Entry.closed_onAir] at ho; cases ho

end Touched

/-! ## Closing -/

section
variable {h : Hall}

/-- Sending an entry to CLOSING touches its slot, and leaves its entry closed. -/
theorem closeEntry_touched (h : Hall) (r : SlotRef) : Touched [r] h (closeEntry h r) := by
  by_cases ho : ∃ e, h.entry r = some e ∧ e.onAir = true
  · obtain ⟨e, he, ho⟩ := ho
    refine ⟨fun q x hq hx => ?_, fun q x hx => ?_⟩
    · rw [closeEntry_entry h r e he ho, if_neg (by simpa using hq), hx]
    · rw [closeEntry_entry h r e he ho] at hx
      split at hx
      · next hq => cases hx; exact .inr (.inr ⟨by simp [hq], e, hq ▸ he, ho, rfl⟩)
      · exact .inl hx
  · rw [closeEntry_offAir h fun e he => by simpa using fun c => ho ⟨e, he, c⟩]
    exact (Touched.refl h).mono (List.nil_subset _)

theorem closeEntry_closed {r : SlotRef} {e : Entry} (he : h.entry r = some e) (ho : e.onAir = true) :
    (closeEntry h r).entry r = some e.closed := by
  rw [closeEntry_entry h r e he ho, if_pos rfl]; rfl

theorem closeAndHandle_serving (h : Hall) (r : SlotRef) : Serving (closeEntry h r) (closeAndHandle h r) := by
  unfold closeAndHandle
  split
  · split
    · exact grantHandlingAt_serving _ _
    · exact .refl
  · next he =>
    rw [closeEntry_offAir h fun e x => by rw [he] at x; cases x]

theorem closeAndHandle_touched (h : Hall) (r : SlotRef) : Touched [r] h (closeAndHandle h r) :=
  (closeEntry_touched h r).filled (closeAndHandle_serving h r).filled

theorem clearWarn_unit_ne (h : Hall) {u v : UnitId} (huv : u ≠ v) : (clearWarn h u).unit v = h.unit v := by
  unfold clearWarn
  split
  · rw [Hall.setUnit_unit_ne _ _ huv, giveNotice_unit]
  · rfl

theorem warnUnit_unit_ne (h : Hall) {u v : UnitId} (huv : u ≠ v) : (warnUnit h u).unit v = h.unit v := by
  unfold warnUnit
  split
  · rfl
  · rw [Hall.setUnit_unit_ne _ _ huv, giveNotice_unit]

@[simp] theorem clearWarn_seat (h : Hall) (u v : UnitId) : ((clearWarn h u).unit v).seat = (h.unit v).seat := by
  by_cases huv : u = v
  · subst huv
    unfold clearWarn
    split <;> simp
  · rw [clearWarn_unit_ne h huv]

@[simp] theorem warnUnit_seat (h : Hall) (u v : UnitId) : ((warnUnit h u).unit v).seat = (h.unit v).seat := by
  by_cases huv : u = v
  · subst huv
    unfold warnUnit
    split <;> simp
  · rw [warnUnit_unit_ne h huv]

theorem clearWarn_warned (h : Hall) (u : UnitId) : ((clearWarn h u).unit u).warned = false := by
  unfold clearWarn
  split
  · simp
  · next hw => simpa using hw

theorem warnUnit_warned (h : Hall) (u : UnitId) : ((warnUnit h u).unit u).warned = true := by
  unfold warnUnit
  split
  · next hw => exact hw
  · simp

/-- The units' records after a closing: of the holder alone, the warned mark. -/
theorem closeEntry_unit (h : Hall) (r : SlotRef) (v : UnitId)
    (hv : ∀ e, h.entry r = some e → e.onAir = true → holderOf r.trunk e ≠ some v) :
    (closeEntry h r).unit v = h.unit v := by
  by_cases ho : ∃ e, h.entry r = some e ∧ e.onAir = true
  · obtain ⟨e, he, ho⟩ := ho
    rw [closeEntry_onAir h he ho, closedPools, unit_of_units (raiseAt_units _ _ _)]
    have := hv e he ho
    cases hu : holderOf r.trunk e with
    | none => rfl
    | some u => exact clearWarn_unit_ne _ fun c => this (c ▸ hu)
  · rw [closeEntry_offAir h fun e he => by simpa using fun c => ho ⟨e, he, c⟩]

theorem closeEntry_seat (h : Hall) (r : SlotRef) (v : UnitId) : ((closeEntry h r).unit v).seat = (h.unit v).seat := by
  by_cases ho : ∃ e, h.entry r = some e ∧ e.onAir = true
  · obtain ⟨e, he, ho⟩ := ho
    rw [closeEntry_onAir h he ho, closedPools, unit_of_units (raiseAt_units _ _ _)]
    cases holderOf r.trunk e with
    | none => rfl
    | some u => exact clearWarn_seat _ _ _
  · rw [closeEntry_offAir h fun e he => by simpa using fun c => ho ⟨e, he, c⟩]

end

/-! ## Seats -/

section
variable (h : Hall)

/-- A unit's seat segment moves only while it is IDLE, so without a request. -/
theorem alignSeat_unit (u v : UnitId) (hv : u ≠ v ∨ ∃ q ∈ h.requests, q.unit = u) :
    (alignSeat h u).unit v = h.unit v := by
  simp only [alignSeat]
  split
  · next hc =>
    simp only [Bool.and_eq_true, decide_eq_true_eq] at hc
    rcases hv with huv | ⟨q, hq, hu⟩
    · rw [unit_of_units ((raiseSeat_units _ _).trans (raiseSeat_units _ _)), Hall.setUnit_unit_ne _ _ huv]
    · exfalso
      have : (h.requestOf u).isSome = true := List.find?_isSome.2 ⟨q, hq, by simpa using hu⟩
      rw [Hall.floorState, if_pos this] at hc
      cases hc.1
  · rfl

@[simp] theorem alignSeat_addrs (u : UnitId) : (alignSeat h u).addrs = h.addrs := by
  simp only [alignSeat]
  split <;> simp

theorem alignSeat_addr (u v : UnitId) : (alignSeat h u).addr v = h.addr v := addr_of_addrs (alignSeat_addrs h u) v

end

/-! ## Recalling -/

/-- The request that a recall files (R78). -/
def refiledRequest (h : Hall) (u : UnitId) (rm : Room) (e : Entry) : Request where
  unit := u
  stamp := e.reqStamp
  lang := (h.unit u).lang
  cls := (h.unit u).cls
  score := 0
  guard := rm.settings.guard
  due := false
  recalled := !h.grantPending u

/-- The hall after a GRANTED entry is taken out of its slot and its unit filed again, denied or released, before the
slot is handed on (R78). -/
def refiled (h : Hall) (r : SlotRef) (e : Entry) : Hall :=
  let h1 := dropEntry h r e
  match holderOf r.trunk e, (h.roomOf e.seg).bind h.room with
    | some u, some rm =>
      let delivered := !h.grantPending u
      let h1 := stopConfirm h1 u
      if (h.queueIn rm.segs).length < rm.settings.queueLimit && h.requests.length < Config.poolSize then
        let h1 := { h1 with requests := h1.requests ++ [refiledRequest h u rm e] }
        if delivered then giveFloor h1 u .release else withdrawGrant h1 u
      else alignSeat (giveFloor h1 u (if delivered then .release else .deny)) u
    | some u, none => alignSeat (giveFloor (stopConfirm h1 u) u (if h.grantPending u then .deny else .release)) u
    | none, _ => h1

theorem recallEntry_eq (h : Hall) (r : SlotRef) (e : Entry) :
    recallEntry h r e = handOn (refiled h r e) [r.trunk] (h.roomOf e.seg) (!e.chair) := rfl

section
variable (h : Hall) (r : SlotRef) (e : Entry)

theorem dropEntry_refiled : Onward (dropEntry h r e) (refiled h r e) := by
  unfold refiled
  simp only []
  split
  · split
    · split
      · exact (stopConfirm_onward _ _).trans ((requests_onward _ _).trans (giveFloor_onward _ _ _))
      · exact (stopConfirm_onward _ _).trans ((requests_onward _ _).trans (withdrawGrant_onward _ _))
    · exact (stopConfirm_onward _ _).trans ((giveFloor_onward _ _ _).trans (alignSeat_onward _ _))
  · exact (stopConfirm_onward _ _).trans ((giveFloor_onward _ _ _).trans (alignSeat_onward _ _))
  · exact .refl _

theorem refiled_onward : Onward h (refiled h r e) := (dropEntry_onward h r e).trans (dropEntry_refiled h r e)

@[simp] theorem withdrawGrant_pools (u : UnitId) : (withdrawGrant h u).pools = h.pools := by
  unfold withdrawGrant
  split <;> rfl

@[simp] theorem stopConfirm_pools (u : UnitId) : (stopConfirm h u).pools = h.pools := rfl

@[simp] theorem stopConfirm_units (u : UnitId) : (stopConfirm h u).units = h.units := rfl

@[simp] theorem dropEntry_pools : (dropEntry h r e).pools = (h.setEntry r none).pools := raiseAt_pools _ _ _

@[simp] theorem dropEntry_units : (dropEntry h r e).units = h.units := raiseAt_units _ _ _

@[simp] theorem dropEntry_addrs : (dropEntry h r e).addrs = h.addrs := raiseAt_addrs _ _ _

theorem refiled_pools : (refiled h r e).pools = (h.setEntry r none).pools := by
  unfold refiled
  simp only []
  repeat' split
  all_goals simp

/-- A recall files at most one request, of the entry's unit and with its class. -/
theorem refiled_requests : (refiled h r e).requests = h.requests ∨
    ∃ q u, (refiled h r e).requests = h.requests ++ [q] ∧ holderOf r.trunk e = some u ∧ q.unit = u ∧
      q.cls = (h.unit u).cls := by
  unfold refiled
  simp only []
  split
  · next u rm hu _ =>
    split
    · refine .inr ⟨refiledRequest h u rm e, u, ?_, hu, rfl, rfl⟩
      split <;> simp
    · exact .inl (by simp)
  · exact .inl (by simp)
  · exact .inl (by simp)

theorem withdrawGrant_addr_ne {u v : UnitId} (huv : u ≠ v) : (withdrawGrant h u).addr v = h.addr v := by
  unfold withdrawGrant
  split
  · exact Hall.setAddr_addr_ne h _ huv
  · rfl

theorem stopConfirm_addr_ne {u v : UnitId} (huv : u ≠ v) : (stopConfirm h u).addr v = h.addr v :=
  Hall.setAddr_addr_ne h _ huv

/-- A recall concerns no unit but the entry's. -/
theorem refiled_other {v : UnitId} (hv : holderOf r.trunk e ≠ some v) :
    (refiled h r e).unit v = h.unit v ∧ (refiled h r e).addr v = h.addr v := by
  unfold refiled
  simp only []
  split
  · next u rm hu _ =>
    have huv : u ≠ v := fun c => hv (c ▸ hu)
    split
    · split
      · exact ⟨unit_of_units (by simp) v,
          (giveFloor_addr_ne _ _ huv).trans ((stopConfirm_addr_ne _ huv).trans (addr_of_addrs (by simp) v))⟩
      · exact ⟨unit_of_units (by simp) v,
          (withdrawGrant_addr_ne _ huv).trans ((stopConfirm_addr_ne _ huv).trans (addr_of_addrs (by simp) v))⟩
    · exact ⟨(alignSeat_unit _ _ _ (.inl huv)).trans (unit_of_units (by simp) v), (alignSeat_addr _ _ _).trans
        ((giveFloor_addr_ne _ _ huv).trans ((stopConfirm_addr_ne _ huv).trans (addr_of_addrs (by simp) v)))⟩
  · next u hu _ =>
    have huv : u ≠ v := fun c => hv (c ▸ hu)
    exact ⟨(alignSeat_unit _ _ _ (.inl huv)).trans (unit_of_units (by simp) v), (alignSeat_addr _ _ _).trans
        ((giveFloor_addr_ne _ _ huv).trans ((stopConfirm_addr_ne _ huv).trans (addr_of_addrs (by simp) v)))⟩
  · exact ⟨unit_of_units (by simp) v, addr_of_addrs (by simp) v⟩

/-- A unit with a request after the recall keeps its record, and so its seat. -/
theorem refiled_waiting {v : UnitId} (hv : ∃ q ∈ (refiled h r e).requests, q.unit = v) :
    (refiled h r e).unit v = h.unit v := by
  by_cases ho : holderOf r.trunk e = some v
  · revert hv
    unfold refiled
    simp only []
    split
    · next u rm hu _ =>
      obtain rfl := Option.some.inj (hu.symm.trans ho)
      split
      · split
        · exact fun _ => unit_of_units (by simp) _
        · exact fun _ => unit_of_units (by simp) _
      · intro hv
        refine (alignSeat_unit _ _ _ (.inr ?_)).trans (unit_of_units (by simp) _)
        simpa using hv
    · next u hu _ =>
      obtain rfl := Option.some.inj (hu.symm.trans ho)
      intro hv
      refine (alignSeat_unit _ _ _ (.inr ?_)).trans (unit_of_units (by simp) _)
      simpa using hv
    · exact fun _ => unit_of_units (by simp) v
  · exact (refiled_other h r e ho).1

theorem refiled_cls (v : UnitId) : ((refiled h r e).unit v).cls = (h.unit v).cls := by
  have := core_unit (refiled_onward h r e).core v
  exact congrArg (fun c => c.2.2.2.1) this

/-- The requests carry the classes of their units after a recall too. -/
theorem refiled_classes (c : ∀ q ∈ h.requests, q.cls = (h.unit q.unit).cls) :
    ∀ q ∈ (refiled h r e).requests, q.cls = ((refiled h r e).unit q.unit).cls := by
  intro q hq
  rw [refiled_cls]
  rcases refiled_requests h r e with x | ⟨p, u, x, -, hu, hc⟩
  · exact c q (x ▸ hq)
  · rw [x, List.mem_append, List.mem_singleton] at hq
    rcases hq with hq | rfl
    · exact c q hq
    · rw [hc, hu]

theorem refiled_entry (q : SlotRef) : (refiled h r e).entry q = if q = r then none else h.entry q := by
  rw [entry_of_pools (refiled_pools h r e)]
  split
  · next x => subst x; exact Hall.setEntry_entry _ _ _
  · next x => exact Hall.setEntry_entry_ne _ _ fun c => x c.symm

theorem recallEntry_serving : Serving (refiled h r e) (recallEntry h r e) := handOn_serving _ _ _ _

theorem recallEntry_onward : Onward h (recallEntry h r e) :=
  (refiled_onward h r e).trans (recallEntry_serving h r e).onward

theorem recallEntry_touched : Touched [r] h (recallEntry h r e) := by
  refine Touched.filled (g := refiled h r e) ⟨fun q x hq hx => ?_, fun q x hx => ?_⟩ (recallEntry_serving h r e).filled
  · rw [refiled_entry, if_neg (by simpa using hq), hx]
  · rw [refiled_entry] at hx
    split at hx
    · cases hx
    · exact .inl hx

/-- What a recalled entry's slot holds after it is a new grant's. -/
theorem recallEntry_entry {x : Entry} (hx : (recallEntry h r e).entry r = some x) :
    x.state = .granted ∧ x.timer = none := by
  rcases (recallEntry_serving h r e).filled.new r x hx with c | ⟨-, s⟩
  · rw [refiled_entry, if_pos rfl] at c; cases c
  · exact s

end

/-! ## Denying (R93) -/

section
variable (h : Hall) (u : UnitId)

@[simp] theorem denyWaiting_requests : (denyWaiting h u).requests = h.requests.filter fun q => q.unit ≠ u :=
  (alignSeat_requests _ _).trans (giveFloor_requests _ _ _)

@[simp] theorem denyWaiting_pools : (denyWaiting h u).pools = h.pools :=
  (alignSeat_pools _ _).trans (giveFloor_pools _ _ _)

theorem denyWaiting_unit_ne {v : UnitId} (huv : u ≠ v) : (denyWaiting h u).unit v = h.unit v :=
  (alignSeat_unit _ _ _ (.inl huv)).trans (giveFloor_unit _ _ _ _)

theorem denyWaiting_fewer : Fewer h (denyWaiting h u) := .filter (denyWaiting_requests h u)

end

theorem denyAll_requests (us : List UnitId) (h : Hall) :
    (us.foldl denyWaiting h).requests = h.requests.filter fun q => q.unit ∉ us := by
  induction us generalizing h with
  | nil => simp
  | cons u us ih =>
    rw [List.foldl_cons, ih, denyWaiting_requests, List.filter_filter]
    refine List.filter_congr fun q _ => ?_
    by_cases hq : q.unit = u <;> simp [hq]

theorem denyAll_unit (us : List UnitId) (h : Hall) {v : UnitId} (hv : v ∉ us) : (us.foldl denyWaiting h).unit v = h.unit v := by
  induction us generalizing h with
  | nil => rfl
  | cons u us ih =>
    rw [List.mem_cons, not_or] at hv
    rw [List.foldl_cons, ih _ hv.2, denyWaiting_unit_ne h u (Ne.symm hv.1)]

theorem denyAll_pools (us : List UnitId) (h : Hall) : (us.foldl denyWaiting h).pools = h.pools :=
  foldl_keeps (P := fun g : Hall => g.pools = h.pools) (fun g u hg => (denyWaiting_pools g u).trans hg) us h rfl

end Sys2Proof.Machine
end

section
/-! SET-ROOM (O41): the room is brought into line with its settings (R92, R93). -/

namespace Sys2Proof.Machine

/-! ## Events told -/

theorem roomOf_of_apart {h : Hall} {i : SegId} {r : Room} {sg : SegId} (ha : h.apart i) (hr : h.room i = some r)
    (hs : inSet r.segs sg = true) : h.roomOf sg = some i := by
  cases e : h.roomOf sg with
  | none =>
    have := List.find?_eq_none.1 e i (List.mem_finRange i)
    simp [hr, hs] at this
  | some j =>
    obtain ⟨r', hr', hs'⟩ := roomOf_eq_some e
    rw [eq_of_apart ha hr hr' hs hs']

theorem raiseAt_told {h : Hall} {i : SegId} {r : Room} {sg : SegId} (f : Flag) (ha : h.apart i) (hr : h.room i = some r)
    (hs : inSet r.segs sg = true) : (raiseAt f sg h).told f r.segs := by
  simp only [raiseAt, roomOf_of_apart ha hr hs, raiseRoom, segsOf_room hr]
  exact raise_told h f r.segs

/-- A raise over a hall onward from `h` is told for the segments of a room of `h`. -/
theorem raiseAt_told_of_onward {h g : Hall} (w : Onward h g) {i : SegId} {r : Room} {sg : SegId} (f : Flag)
    (ha : h.apart i) (hr : h.room i = some r) (hs : inSet r.segs sg = true) : (raiseAt f sg g).told f r.segs := by
  obtain ⟨r', hr', segs, -⟩ := room_of_core w.core hr
  rw [← segs]
  exact raiseAt_told f (apart_of_core w.core ha) hr' (segs ▸ hs)

section
variable {h : Hall} {i : SegId} {r : Room} {q : SlotRef} {e : Entry}

theorem closeEntry_told (ha : h.apart i) (hr : h.room i = some r) (he : h.entry q = some e) (ho : e.onAir = true)
    (hs : inSet r.segs e.seg = true) : (closeEntry h q).told .floor r.segs := by
  rw [closeEntry_onAir h he ho, closedPools]
  refine raiseAt_told_of_onward (h := h) ?_ _ ha hr hs
  split
  · exact (setEntry_onward h q _).trans (clearWarn_onward _ _)
  · exact setEntry_onward h q _

theorem recallEntry_told (ha : h.apart i) (hr : h.room i = some r) (hs : inSet r.segs e.seg = true) :
    (recallEntry h q e).told .floor r.segs :=
  ((dropEntry_refiled h q e).trans (recallEntry_serving h q e).onward).told
    (raiseAt_told_of_onward (setEntry_onward h q none) .floor ha hr hs)

end

/-! ## Shedding (R93, step 1) -/

section
variable (h : Hall) (q : SlotRef)

theorem shedEntry_granted {e : Entry} (he : h.entry q = some e) (hs : e.state = .granted) :
    shedEntry h q = recallEntry h q e := by
  unfold shedEntry
  rw [he]
  exact if_pos hs

theorem shedEntry_close (hs : ∀ e, h.entry q = some e → e.state ≠ .granted) : shedEntry h q = closeEntry h q := by
  unfold shedEntry
  split
  · next e he => exact if_neg (hs e he)
  · next he => exact (closeEntry_offAir h fun e x => by rw [he] at x; cases x).symm

/-- Shedding is a recall or a closing. -/
theorem shedEntry_cases : (∃ e, h.entry q = some e ∧ e.state = .granted ∧ shedEntry h q = recallEntry h q e) ∨
    ((∀ e, h.entry q = some e → e.state ≠ .granted) ∧ shedEntry h q = closeEntry h q) := by
  by_cases hs : ∃ e, h.entry q = some e ∧ e.state = .granted
  · obtain ⟨e, he, hs⟩ := hs
    exact .inl ⟨e, he, hs, shedEntry_granted h q he hs⟩
  · have no : ∀ e, h.entry q = some e → e.state ≠ .granted := fun e he c => hs ⟨e, he, c⟩
    exact .inr ⟨no, shedEntry_close h q no⟩

theorem shedEntry_onward : Onward h (shedEntry h q) := by
  rcases shedEntry_cases h q with ⟨e, -, -, x⟩ | ⟨-, x⟩
  · rw [x]; exact recallEntry_onward h q e
  · rw [x]; exact closeEntry_onward h q

theorem shedEntry_touched : Touched [q] h (shedEntry h q) := by
  rcases shedEntry_cases h q with ⟨e, -, -, x⟩ | ⟨-, x⟩
  · rw [x]; exact recallEntry_touched h q e
  · rw [x]; exact closeEntry_touched h q

/-- Each request has the class of its unit. -/
def Hall.classed (h : Hall) : Prop := ∀ q ∈ h.requests, q.cls = (h.unit q.unit).cls

theorem cls_of_core {g h : Hall} (e : g.core = h.core) (u : UnitId) : (g.unit u).cls = (h.unit u).cls :=
  congrArg (fun c => c.2.2.2.1) (core_unit e u)

theorem Fewer.classed {h g : Hall} (w : Fewer h g) (o : Onward h g) (c : h.classed) : g.classed :=
  w.classes (cls_of_core o.core) c

theorem recallEntry_classed (e : Entry) (c : h.classed) : (recallEntry h q e).classed :=
  (recallEntry_serving h q e).fewer.classed (recallEntry_serving h q e).onward (refiled_classes h q e c)

theorem shedEntry_classed (c : h.classed) : (shedEntry h q).classed := by
  rcases shedEntry_cases h q with ⟨e, -, -, x⟩ | ⟨-, x⟩
  · rw [x]; exact recallEntry_classed h q e c
  · rw [x]; exact (Fewer.of_eq (closeEntry_requests h q)).classed (closeEntry_onward h q) c

end

section
variable {h : Hall} {i : SegId} {r : Room} {q : SlotRef}

theorem countedAt_eq_true {x : SegSet} : h.countedAt x q = true ↔
    ∃ e, h.entry q = some e ∧ inSet x e.seg = true ∧ e.counted = true := by
  unfold Hall.countedAt
  cases h.entry q <;> simp

theorem counted_cases {e : Entry} (hc : e.counted = true) : e.chair = false ∧ (e.state = .granted ∨ e.onAir = true) := by
  simp only [Entry.counted, Bool.and_eq_true, Bool.not_eq_true', decide_eq_true_eq] at hc
  refine ⟨hc.1, ?_⟩
  cases hs : e.state <;> simp_all [Entry.onAir]

/-- A slot that is freed, or whose entry is sent to CLOSING, lowers the count by one. -/
theorem countIn_lt {g : Hall} {x : SegSet} (hq : h.countedAt x q = true) (hg : g.countedAt x q = false)
    (same : ∀ b, b ≠ q → g.entry b = h.entry b) : g.countIn x < h.countIn x := by
  refine countP_lt (mem_allSlots q) hq hg fun b hb hc => ?_
  simpa only [Hall.countedAt, same b hb] using hc

/-- Shedding a counted entry lowers its room's count by one, or leaves it within the limit (R93). -/
theorem shedEntry_count {n : Nat} (hr : h.room i = some r) (ha : h.apart i) (hc : h.classed)
    (hq : h.countedAt r.segs q = true) (hn : h.countIn r.segs ≤ n + 1) (hl : r.settings.openLimit ≤ n) :
    (shedEntry h q).countIn r.segs ≤ n := by
  obtain ⟨e, he, hs, hcount⟩ := countedAt_eq_true.1 hq
  rcases (counted_cases hcount).2 with hg | ho
  · rw [shedEntry_granted h q he hg]
    obtain ⟨r', hr', segs, settings⟩ := room_of_core (refiled_onward h q e).core hr
    rw [← segs]
    refine (recallEntry_serving h q e).count_le hr' (apart_of_core (refiled_onward h q e).core ha)
      (refiled_classes h q e hc) (settings ▸ hl) ?_
    have gone : (refiled h q e).countedAt r.segs q = false := by
      simp only [Hall.countedAt, refiled_entry, if_true]
    have := countIn_lt hq gone fun b hb => by rw [refiled_entry, if_neg hb]
    rw [segs]
    omega
  · rw [shedEntry_close h q fun x hx c => by
      cases he.symm.trans hx
      rw [Entry.onAir_granted c] at ho
      cases ho]
    have closed : (closeEntry h q).countedAt r.segs q = false := by
      simp only [Hall.countedAt, closeEntry_closed he ho]
      simp [Entry.counted, Entry.closed]
    have := countIn_lt hq closed fun b hb => by rw [closeEntry_entry h q e he ho, if_neg hb]
    omega

theorem Touched.countedAt {l : List SlotRef} {g : Hall} {x : SegSet} (w : Touched l h g) (hq : q ∉ l)
    (hc : h.countedAt x q = true) : g.countedAt x q = true := by
  obtain ⟨e, he, hs⟩ := countedAt_eq_true.1 hc
  exact countedAt_eq_true.2 ⟨e, w.kept q e hq he, hs⟩

theorem shedAll_count (refs : List SlotRef) {h : Hall} {r : Room} {n : Nat} (hd : refs.Nodup) (hr : h.room i = some r)
    (ha : h.apart i) (hc : h.classed) (hq : ∀ q ∈ refs, h.countedAt r.segs q = true)
    (hn : h.countIn r.segs ≤ n + refs.length) (hl : r.settings.openLimit ≤ n) :
    (refs.foldl shedEntry h).countIn r.segs ≤ n := by
  induction refs generalizing h r with
  | nil => exact hn
  | cons q refs ih =>
    obtain ⟨hq', hd⟩ := List.nodup_cons.1 hd
    obtain ⟨r', hr', segs, settings⟩ := room_of_core (shedEntry_onward h q).core hr
    rw [List.foldl_cons, ← segs]
    refine ih hd hr' (apart_of_core (shedEntry_onward h q).core ha) (shedEntry_classed h q hc) (fun b hb => ?_) ?_
      (settings ▸ hl)
    · rw [segs]
      refine (shedEntry_touched h q).countedAt ?_ (hq b (.tail q hb))
      rw [List.mem_singleton]
      rintro rfl
      exact hq' hb
    · rw [segs]
      refine shedEntry_count hr ha hc (hq q (.head refs)) ?_ (by omega)
      simp only [List.length_cons] at hn
      omega

/-- The slots of the counted entries of a room, the oldest grant stamp first. -/
def Hall.countedRefs (h : Hall) (i : SegId) : List SlotRef := ((h.speaking i).filter fun x => x.2.counted).map (·.1)

theorem countedRefs_length : (h.countedRefs i).length = h.count i := by
  rw [Hall.countedRefs, List.length_map, Hall.count, List.countP_eq_length_filter]

theorem countedRefs_nodup : (h.countedRefs i).Nodup :=
  entriesIn_nodup.sublist (List.filter_sublist.map _)

theorem mem_countedRefs (hr : h.room i = some r) : q ∈ h.countedRefs i ↔ h.countedAt r.segs q = true := by
  rw [countedAt_eq_true, Hall.countedRefs, List.mem_map]
  constructor
  · rintro ⟨⟨b, e⟩, hb, rfl⟩
    obtain ⟨hb, hc⟩ := List.mem_filter.1 hb
    rw [Hall.speaking, segsOf_room hr, mem_entriesIn] at hb
    exact ⟨e, hb.1, hb.2, hc⟩
  · rintro ⟨e, he, hs, hc⟩
    refine ⟨(q, e), List.mem_filter.2 ⟨?_, hc⟩, rfl⟩
    rw [Hall.speaking, segsOf_room hr, mem_entriesIn]
    exact ⟨he, hs⟩

/-- The slots shed where a room is brought within an open limit. -/
def Hall.shedRefs (h : Hall) (i : SegId) (limit : Nat) : List SlotRef := (h.countedRefs i).take (h.count i - limit)

theorem shedCount_eq (limit : Nat) : shedCount h i limit = (h.shedRefs i limit).foldl shedEntry h := rfl

theorem shedCount_count (hr : h.room i = some r) (ha : h.apart i) (hc : h.classed) :
    (shedCount h i r.settings.openLimit).countIn r.segs ≤ r.settings.openLimit := by
  refine shedAll_count _ (countedRefs_nodup.sublist (List.take_sublist _ _)) hr ha hc
    (fun q hq => (mem_countedRefs hr).1 (List.mem_of_mem_take hq)) ?_ le_rfl
  have len : (h.shedRefs i r.settings.openLimit).length = min (h.count i - r.settings.openLimit) (h.count i) := by
    rw [Hall.shedRefs, List.length_take, countedRefs_length]
  have count : h.count i = h.countIn r.segs := by rw [count_eq, segsOf_room hr]
  change h.countIn r.segs ≤ r.settings.openLimit + (h.shedRefs i r.settings.openLimit).length
  omega

end

/-! ## The queue and the scores (R93, steps 2 and 3) -/

section
variable (h : Hall) (i : SegId)

theorem shedCount_onward (limit : Nat) : Onward h (shedCount h i limit) := .fold shedEntry_onward _ _

theorem shedCount_touched (limit : Nat) : Touched (h.shedRefs i limit) h (shedCount h i limit) :=
  .fold shedEntry_touched _ _

theorem shedCount_classed (limit : Nat) (c : h.classed) : (shedCount h i limit).classed :=
  foldl_keeps (P := Hall.classed) (fun g q hg => shedEntry_classed g q hg) _ _ c

theorem cutQueue_onward : Onward h (cutQueue h i) := by
  unfold cutQueue
  split
  · exact .fold denyWaiting_onward _ _
  · exact .refl h

theorem cutQueue_pools : (cutQueue h i).pools = h.pools := by
  unfold cutQueue
  split
  · exact denyAll_pools _ _
  · rfl

theorem cutQueue_fewer : Fewer h (cutQueue h i) := by
  unfold cutQueue
  split
  · exact .fold denyWaiting_fewer _ _
  · exact .refl h

/-- The units of the requests beyond the queue limit. -/
def Hall.cutUnits (h : Hall) (i : SegId) (r : Room) : List UnitId := ((h.queue i).drop r.settings.queueLimit).map (·.unit)

variable {h i}

theorem cutQueue_eq {r : Room} (hr : h.room i = some r) : cutQueue h i = (h.cutUnits i r).foldl denyWaiting h := by
  simp only [cutQueue, hr, Hall.cutUnits]

/-- The queue is cut to its limit: the requests beyond it have gone (R93). -/
theorem cutQueue_length {r : Room} (hr : h.room i = some r) :
    ((cutQueue h i).queueIn r.segs).length ≤ r.settings.queueLimit := by
  have requests : (cutQueue h i).requests = h.requests.filter fun q => q.unit ∉ h.cutUnits i r := by
    rw [cutQueue_eq hr, denyAll_requests]
  have perm := queueIn_perm (h := h) (x := r.segs)
  rw [← queue_room hr] at perm
  have kept : ∀ q ∈ (h.queue i).drop r.settings.queueLimit, ¬q.unit ∉ h.cutUnits i r := fun q hq c =>
    c (List.mem_map.2 ⟨q, hq, rfl⟩)
  calc ((cutQueue h i).queueIn r.segs).length
      = (h.requests.filter fun q => q.unit ∉ h.cutUnits i r).countP fun q => (cutQueue h i).seatedIn r.segs q.unit := by
        rw [length_queueIn, requests]
    _ = (h.requests.filter fun q => q.unit ∉ h.cutUnits i r).countP fun q => h.seatedIn r.segs q.unit := by
        refine List.countP_congr fun q hq => ?_
        have hq : q.unit ∉ h.cutUnits i r := of_decide_eq_true (List.mem_filter.1 hq).2
        have unit : (cutQueue h i).unit q.unit = h.unit q.unit := by
          rw [cutQueue_eq hr, denyAll_unit _ _ hq]
        simp only [Hall.seatedIn, unit]
    _ = (h.queue i).countP fun q => q.unit ∉ h.cutUnits i r := by
        rw [perm.countP_eq, List.countP_filter, List.countP_filter]
        simp only [Bool.and_comm]
    _ = ((h.queue i).take r.settings.queueLimit).countP (fun q => q.unit ∉ h.cutUnits i r) +
          ((h.queue i).drop r.settings.queueLimit).countP fun q => q.unit ∉ h.cutUnits i r := by
        rw [← List.countP_append, List.take_append_drop]
    _ ≤ r.settings.queueLimit + 0 := by
        refine Nat.add_le_add ?_ (Nat.le_of_eq (List.countP_eq_zero.2 fun q hq => by simpa using kept q hq))
        exact List.countP_le_length.trans (List.length_take_le _ _)

/-- A cut takes requests out of the pool where the queue is longer than its limit. -/
theorem cutQueue_requests_lt {r : Room} (hr : h.room i = some r) (hl : r.settings.queueLimit < (h.queue i).length) :
    (cutQueue h i).requests.length < h.requests.length := by
  obtain ⟨q, hq⟩ := List.exists_mem_of_length_pos (l := (h.queue i).drop r.settings.queueLimit) (by simpa using hl)
  have hm : q ∈ h.requests := by
    have := List.mem_of_mem_drop hq
    rw [queue_room hr, mem_queueIn] at this
    exact this.1
  rw [cutQueue_eq hr, denyAll_requests]
  refine lt_of_le_of_ne (List.length_filter_le _ _) fun c => ?_
  have := List.length_filter_eq_length_iff.1 c q hm
  exact of_decide_eq_true this (List.mem_map.2 ⟨q, hq, rfl⟩)

theorem cutQueue_short {r : Room} (hr : h.room i = some r) (hl : (h.queue i).length ≤ r.settings.queueLimit) :
    cutQueue h i = h := by
  rw [cutQueue_eq hr, Hall.cutUnits, List.drop_eq_nil_of_le hl]
  rfl

theorem lowerScores_fewer (x : SegSet) (mx gd : Nat) : Fewer h (lowerScores h x mx gd) :=
  mapRequests_fewer h x (fun _ => rfl) fun _ => rfl

theorem lowerScores_within (x : SegSet) (mx gd : Nat) : (lowerScores h x mx gd).scoresWithin x mx gd := by
  intro p hp hs
  obtain ⟨q, -, rfl⟩ := List.mem_map.1 hp
  have hs' : h.seatedIn x q.unit = true := by
    by_cases c : h.seatedIn x q.unit = true
    · exact c
    · rw [if_neg c] at hs; exact absurd hs c
  rw [if_pos hs']
  exact ⟨Nat.min_le_right _ _, Nat.min_le_right _ _⟩

/-- Lowering the scores of a queue within the bounds changes nothing. -/
theorem lowerScores_changes {x : SegSet} {mx gd : Nat} {q : Request} (hq : q ∈ h.requests) (hs : h.seatedIn x q.unit = true)
    (hx : mx < q.score ∨ gd < q.guard) : (lowerScores h x mx gd).requests ≠ h.requests := by
  intro e
  have := lowerScores_within (h := h) x mx gd q (e ▸ hq) hs
  omega

end

/-! ## The room trimmed (R93, steps 1 to 3) -/

section
variable (h : Hall) (i : SegId) (st : Settings)

/-- The hall after steps 1 to 3 of R93, before the FLOOR event. -/
def trimmed (h : Hall) (i : SegId) (st : Settings) : Hall :=
  let h1 := cutQueue (shedCount h i st.openLimit) i
  lowerScores h1 (h1.segsOf i) st.max st.guard

theorem trimRoom_eq : trimRoom h i st =
    if (trimmed h i st).pools = h.pools && (trimmed h i st).requests = h.requests then trimmed h i st
    else raiseRoom .floor i (trimmed h i st) := rfl

theorem trimmed_onward : Onward h (trimmed h i st) :=
  (shedCount_onward h i _).trans ((cutQueue_onward _ i).trans (mapRequests_onward _ _ _))

theorem trimRoom_after : Onward (trimmed h i st) (trimRoom h i st) := by
  rw [trimRoom_eq]
  split
  · exact .refl _
  · exact raiseRoom_onward _ _ _

theorem trimRoom_onward : Onward h (trimRoom h i st) := (trimmed_onward h i st).trans (trimRoom_after h i st)

theorem trimRoom_requests : (trimRoom h i st).requests = (trimmed h i st).requests := by
  rw [trimRoom_eq]; split <;> rfl

theorem trimRoom_units : (trimRoom h i st).units = (trimmed h i st).units := by
  rw [trimRoom_eq]; split <;> rfl

theorem trimRoom_pools : (trimRoom h i st).pools = (shedCount h i st.openLimit).pools := by
  have : (trimRoom h i st).pools = (trimmed h i st).pools := by rw [trimRoom_eq]; split <;> rfl
  exact this.trans (cutQueue_pools _ i)

variable {h i} {r : Room}

theorem trimRoom_touched : Touched (h.shedRefs i st.openLimit) h (trimRoom h i st) := by
  have := (shedCount_touched h i st.openLimit).trans (.of_pools (trimRoom_pools h i st))
  rwa [List.append_nil] at this

theorem trimRoom_count (hr : h.room i = some r) (ha : h.apart i) (hc : h.classed) :
    (trimRoom h i r.settings).countIn r.segs ≤ r.settings.openLimit := by
  simp only [Hall.countIn, entry_of_pools (trimRoom_pools h i r.settings)]
  exact shedCount_count hr ha hc

theorem trimRoom_classed (hc : h.classed) : (trimRoom h i st).classed := by
  have cut := (cutQueue_fewer _ i).classed (cutQueue_onward _ i) (shedCount_classed h i st.openLimit hc)
  have low := (lowerScores_fewer ((cutQueue (shedCount h i st.openLimit) i).segsOf i) st.max st.guard).classed
    (mapRequests_onward _ _ _) cut
  exact (Fewer.of_eq (trimRoom_requests h i st)).classed (trimRoom_after h i st) low

theorem seatedIn_of_eq {g h : Hall} (e : ∀ u, (g.unit u).seat = (h.unit u).seat) (x : SegSet) (u : UnitId) :
    g.seatedIn x u = h.seatedIn x u := by
  simp only [Hall.seatedIn, e]

theorem trimRoom_queue (hr : h.room i = some r) :
    ((trimRoom h i r.settings).queueIn r.segs).length ≤ r.settings.queueLimit := by
  obtain ⟨r', hr', segs, settings⟩ := room_of_core (shedCount_onward h i r.settings.openLimit).core hr
  have cut := cutQueue_length hr'
  rw [segs, settings] at cut
  refine le_trans (Fewer.queue_le (h := cutQueue (shedCount h i r.settings.openLimit) i) ?_ ?_) cut
  · exact (lowerScores_fewer _ _ _).trans (.of_eq (trimRoom_requests h i r.settings))
  · exact fun q _ => seatedIn_of_units (trimRoom_units h i r.settings) _ _

theorem trimRoom_within (hr : h.room i = some r) :
    (trimRoom h i r.settings).scoresWithin r.segs r.settings.max r.settings.guard := by
  obtain ⟨r', hr', segs, -⟩ :=
    room_of_core ((shedCount_onward h i r.settings.openLimit).trans (cutQueue_onward _ i)).core hr
  intro q hq hs
  rw [trimRoom_requests] at hq
  rw [seatedIn_of_units (trimRoom_units h i r.settings)] at hs
  have := lowerScores_within (h := cutQueue (shedCount h i r.settings.openLimit) i)
    ((cutQueue (shedCount h i r.settings.openLimit) i).segsOf i) r.settings.max r.settings.guard
  rw [segsOf_room hr', segs] at this
  refine this q ?_ ?_
  · simpa only [trimmed, segsOf_room hr', segs] using hq
  · simpa only [trimmed, segsOf_room hr', segs] using hs

/-- A room whose entries or requests had to be changed has FLOOR raised for it (R93). -/
theorem trimRoom_told (hr : h.room i = some r) (ha : h.apart i)
    (hx : h.shedRefs i r.settings.openLimit ≠ [] ∨ r.settings.queueLimit < (h.queue i).length ∨
      ∃ q ∈ h.queue i, r.settings.max < q.score ∨ r.settings.guard < q.guard) :
    (trimRoom h i r.settings).told .floor r.segs := by
  cases hs : h.shedRefs i r.settings.openLimit with
  | cons q refs =>
    have hq : q ∈ h.shedRefs i r.settings.openLimit := by rw [hs]; exact .head refs
    obtain ⟨e, he, hseg, hc⟩ := countedAt_eq_true.1 ((mem_countedRefs hr).1 (List.mem_of_mem_take hq))
    have first : (shedEntry h q).told .floor r.segs := by
      rcases (counted_cases hc).2 with hg | ho
      · rw [shedEntry_granted h q he hg]
        exact recallEntry_told ha hr hseg
      · rw [shedEntry_close h q fun x hx c => by
          cases he.symm.trans hx
          rw [Entry.onAir_granted c] at ho
          cases ho]
        exact closeEntry_told ha hr he ho hseg
    have shed : Onward (shedEntry h q) (shedCount h i r.settings.openLimit) := by
      rw [shedCount_eq, hs]
      exact .fold shedEntry_onward refs _
    exact (shed.trans ((cutQueue_onward _ i).trans ((mapRequests_onward _ _ _).trans
      (trimRoom_after h i r.settings)))).told first
  | nil =>
    have noShed : shedCount h i r.settings.openLimit = h := by rw [shedCount_eq, hs]; rfl
    have changed : (trimmed h i r.settings).requests ≠ h.requests := by
      simp only [trimmed, noShed]
      rcases hx.resolve_left (fun c => c hs) with hl | ⟨q, hq, hx⟩
      · intro c
        have := cutQueue_requests_lt hr hl
        rw [← c] at this
        simp [lowerScores, mapRequests] at this
      · by_cases hl : r.settings.queueLimit < (h.queue i).length
        · intro c
          have := cutQueue_requests_lt hr hl
          rw [← c] at this
          simp [lowerScores, mapRequests] at this
        · rw [cutQueue_short hr (Nat.le_of_not_lt hl), segsOf_room hr]
          rw [queue_room hr, mem_queueIn] at hq
          exact lowerScores_changes hq.1 hq.2 hx
    rw [trimRoom_eq, if_neg (by simp [changed]), raiseRoom]
    obtain ⟨r', hr', segs, -⟩ := room_of_core (trimmed_onward h i r.settings).core hr
    rw [segsOf_room hr', segs]
    exact raise_told _ _ _

end

end Sys2Proof.Machine
end

section
/-! SET-ROOM settles (O41): its settings are stored, the room is trimmed to them, the speak timers are measured and
grants are given (R92, R93). -/

namespace Sys2Proof.Machine

/-! ## The settings stored -/

section
variable {h : Hall} {i : SegId} {r : Room} (st : Settings)

theorem wake_awake (hr : h.room i = some r) : ((wake h i).room i).map (·.dormant) = some false := by
  unfold wake
  rw [hr]
  simp only []
  split
  · simp [raiseRoom]
  · next hd =>
    split
    · simpa using hd
    · simpa [hr] using hd

theorem raiseRoom_told (f : Flag) (hr : h.room i = some r) : (raiseRoom f i h).told f r.segs := by
  rw [raiseRoom, segsOf_room hr]
  exact raise_told h f r.segs

/-- A DORMANT room that is woken has ROOM raised for it (R151). -/
theorem wake_told (hr : h.room i = some r) (hd : r.dormant = true) : (wake h i).told .room r.segs := by
  unfold wake
  rw [hr]
  simp only []
  rw [if_pos hd]
  exact raiseRoom_told (r := { r with dormant := false }) .room (Hall.setRoom_room _ _ _)

@[simp] theorem storeSettings_pools : (storeSettings h i r st).pools = h.pools := by
  unfold storeSettings; split <;> simp

@[simp] theorem storeSettings_requests : (storeSettings h i r st).requests = h.requests := by
  unfold storeSettings; split <;> simp

@[simp] theorem storeSettings_units : (storeSettings h i r st).units = h.units := by
  unfold storeSettings
  split
  · simp
  · exact (wake_units _ _).trans rfl

theorem storeSettings_awake (hr : h.room i = some r) :
    ((storeSettings h i r st).room i).map (·.dormant) = some false := by
  unfold storeSettings
  split
  · exact wake_awake hr
  · exact wake_awake (r := { r with settings := st }.genUp) (by simp [raiseRoom])

/-- ROOM is raised where a setting changes or the room was DORMANT (R18, R151). -/
theorem storeSettings_told (hr : h.room i = some r) (hx : st ≠ r.settings ∨ r.dormant = true) :
    (storeSettings h i r st).told .room r.segs := by
  unfold storeSettings
  split
  · next e => exact wake_told hr (hx.resolve_left fun c => c e)
  · have hr' : (h.setRoom i (some { r with settings := st }.genUp)).room i = some { r with settings := st }.genUp :=
      Hall.setRoom_room _ _ _
    have told := raiseRoom_told .room hr'
    exact (wake_onward _ i).told told

theorem storeSettings_room (hr : h.room i = some r) :
    ((storeSettings h i r st).room i).map Room.core = some (r.settled st).core := by
  rw [core_room (storeSettings_core h hr st) i]
  simp

theorem storeSettings_room_ne (hr : h.room i = some r) {j : SegId} (hj : j ≠ i) :
    ((storeSettings h i r st).room j).map Room.core = (h.room j).map Room.core := by
  rw [core_room (storeSettings_core h hr st) j, Hall.setRoom_room_ne _ _ fun c => hj c.symm]

/-- The room's record after the settings are stored. -/
theorem storeSettings_stored (hr : h.room i = some r) :
    ∃ r', (storeSettings h i r st).room i = some r' ∧ r'.segs = r.segs ∧ r'.settings = st := by
  obtain ⟨r', hr', hc⟩ := Option.map_eq_some_iff.1 (storeSettings_room st hr)
  exact ⟨r', hr', congrArg (·.1) hc, congrArg (·.2.2.2.1) hc⟩

theorem storeSettings_apart (hr : h.room i = some r) (ha : h.apart i) : (storeSettings h i r st).apart i := by
  refine apart_of_segs (fun k => ?_) ha
  by_cases hk : k = i
  · subst hk
    obtain ⟨r', hr', segs, -⟩ := storeSettings_stored st hr
    rw [hr', hr, Option.map_some, Option.map_some, segs]
  · have := congrArg (Option.map (·.1)) (storeSettings_room_ne st hr hk)
    rw [Option.map_map, Option.map_map] at this
    exact this

theorem storeSettings_unit (u : UnitId) : (storeSettings h i r st).unit u = h.unit u :=
  unit_of_units (storeSettings_units st) u

theorem storeSettings_classed (hc : h.classed) : (storeSettings h i r st).classed := by
  simpa only [Hall.classed, storeSettings_requests, storeSettings_unit] using hc

/-- The speaking list of a room lists the same entries where its segments and the slots are the same. -/
theorem speaking_congr {g : Hall} (pools : g.pools = h.pools) (segs : g.segsOf i = h.segsOf i) :
    g.speaking i = h.speaking i := by
  rw [Hall.speaking, Hall.speaking, segs]
  exact entriesIn_congr fun q => by simp only [Hall.filed, entry_of_pools pools]

theorem storeSettings_segsOf (hr : h.room i = some r) : (storeSettings h i r st).segsOf i = h.segsOf i := by
  obtain ⟨r', hr', segs, -⟩ := storeSettings_stored st hr
  rw [segsOf_room hr', segsOf_room hr, segs]

theorem storeSettings_speaking (hr : h.room i = some r) : (storeSettings h i r st).speaking i = h.speaking i :=
  speaking_congr (storeSettings_pools st) (storeSettings_segsOf st hr)

theorem storeSettings_queue (hr : h.room i = some r) : (storeSettings h i r st).queue i = h.queue i := by
  simp only [Hall.queue, Hall.queueIn, storeSettings_segsOf st hr, storeSettings_requests,
    seatedIn_of_units (storeSettings_units st)]

theorem storeSettings_shedRefs (hr : h.room i = some r) (limit : Nat) :
    (storeSettings h i r st).shedRefs i limit = h.shedRefs i limit := by
  simp only [Hall.shedRefs, Hall.countedRefs, Hall.count, storeSettings_speaking st hr]

end

/-! ## What measuring and granting keep -/

/-- From `h` to `g` entries are closed, units are warned and grants are handled: seats stay, requests go but none comes,
and in a room apart from the others the count is brought above no bound that the open limit keeps, and the scores
stay within the max and any bound of the guard counts. -/
structure Eased (h g : Hall) : Prop where
  onward : Onward h g
  fewer  : Fewer h g
  seats  : ∀ u, (g.unit u).seat = (h.unit u).seat
  count  : ∀ i r n, h.room i = some r → h.apart i → h.classed → r.settings.openLimit ≤ n → h.countIn r.segs ≤ n →
    g.countIn r.segs ≤ n
  scores : ∀ i r gd, h.room i = some r → h.apart i → h.scoresWithin r.segs r.settings.max gd →
    g.scoresWithin r.segs r.settings.max gd

namespace Eased

theorem of_serving {h g : Hall} (w : Serving h g) : Eased h g :=
  ⟨w.onward, w.fewer, fun u => by rw [unit_of_units w.units], fun _ _ _ hr ha hc hn hle => w.count_le hr ha hc hn hle,
    fun _ _ _ hr ha hb => w.scoresWithin hr ha hb⟩

theorem refl (h : Hall) : Eased h h := of_serving .refl

theorem trans {f g h : Hall} (a : Eased f g) (b : Eased g h) : Eased f h := by
  refine ⟨a.onward.trans b.onward, a.fewer.trans b.fewer, fun u => (b.seats u).trans (a.seats u), ?_, ?_⟩
  · intro i r n hr ha hc hn hle
    obtain ⟨r', hr', segs, settings⟩ := room_of_core a.onward.core hr
    rw [← segs]
    refine b.count i r' n hr' (apart_of_core a.onward.core ha) (a.fewer.classed a.onward hc) (settings ▸ hn) ?_
    rw [segs]
    exact a.count i r n hr ha hc hn hle
  · intro i r gd hr ha hb
    obtain ⟨r', hr', segs, settings⟩ := room_of_core a.onward.core hr
    rw [← segs, ← settings]
    refine b.scores i r' gd hr' (apart_of_core a.onward.core ha) ?_
    rw [segs, settings]
    exact a.scores i r gd hr ha hb

theorem fold {γ : Type} {f : Hall → γ → Hall} (hf : ∀ g c, Eased g (f g c)) (l : List γ) (h : Hall) :
    Eased h (l.foldl f h) :=
  foldl_keeps (P := Eased h) (fun _ c w => w.trans (hf _ c)) l h (refl h)

/-- The requests and the seats are not written, and no slot comes to count. -/
theorem of_requests {h g : Hall} (onward : Onward h g) (requests : g.requests = h.requests)
    (seats : ∀ u, (g.unit u).seat = (h.unit u).seat) (count : ∀ x q, g.countedAt x q = true → h.countedAt x q = true) :
    Eased h g := by
  refine ⟨onward, .of_eq requests, seats, fun i r n _ _ _ _ hle => ?_, fun i r gd _ _ hb q hq hs => ?_⟩
  · exact (List.countP_mono_left fun q _ => count r.segs q).trans hle
  · exact hb q (requests ▸ hq) (by rwa [seatedIn_of_eq seats] at hs)

end Eased

section
variable (h : Hall)

theorem closeEntry_eased (q : SlotRef) : Eased h (closeEntry h q) := by
  refine .of_requests (closeEntry_onward h q) (closeEntry_requests h q) (closeEntry_seat h q) fun x b hb => ?_
  obtain ⟨e, he, hs, hc⟩ := countedAt_eq_true.1 hb
  rcases (closeEntry_touched h q).new b e he with old | ⟨hg, -⟩ | ⟨-, e', -, -, rfl⟩
  · exact countedAt_eq_true.2 ⟨e, old, hs, hc⟩
  · by_cases ho : ∃ y, h.entry q = some y ∧ y.onAir = true
    · obtain ⟨y, hy, ho⟩ := ho
      rw [closeEntry_entry h q y hy ho] at he
      split at he
      · cases he; cases hg
      · exact countedAt_eq_true.2 ⟨e, he, hs, hc⟩
    · rwa [closeEntry_offAir h fun y hy => by simpa using fun c => ho ⟨y, hy, c⟩] at hb
  · simp [Entry.counted, Entry.closed] at hc

theorem closeAndHandle_eased (q : SlotRef) : Eased h (closeAndHandle h q) :=
  (closeEntry_eased h q).trans (.of_serving (closeAndHandle_serving h q))

theorem warnUnit_eased (u : UnitId) : Eased h (warnUnit h u) :=
  .of_requests (warnUnit_onward h u) (warnUnit_requests h u) (warnUnit_seat h u) fun x q => by
    simp only [Hall.countedAt, entry_of_pools (warnUnit_pools h u), imp_self]

theorem clearWarn_eased (u : UnitId) : Eased h (clearWarn h u) :=
  .of_requests (clearWarn_onward h u) (clearWarn_requests h u) (clearWarn_seat h u) fun x q => by
    simp only [Hall.countedAt, entry_of_pools (clearWarn_pools h u), imp_self]

end

/-! ## Speak timers measured (R93, step 4) -/

/-- What measuring the timer `ms` of unit `u` in slot `q` against a limit does (R94). -/
def measured (limit : Nat) (h : Hall) (q : SlotRef) (u : UnitId) (ms : Nat) : Hall :=
  if limit ≠ 0 && limit * 1000 ≤ ms then closeAndHandle h q
  else if limit ≠ 0 && warnAt limit ≤ ms then warnUnit h u
  else clearWarn h u

section
variable {h : Hall} {q : SlotRef} {limit : Nat}

theorem measureTimer_timed {e : Entry} {ms : Nat} {u : UnitId} (he : h.entry q = some e) (ht : e.timer = some ms)
    (hu : holderOf q.trunk e = some u) (hc : e.chair = false) : measureTimer limit h q = measured limit h q u ms := by
  simp [measureTimer, measured, he, ht, hu, hc]

/-- Measuring does nothing, or it measures the running timer of the slot's holder. -/
theorem measureTimer_cases (limit : Nat) (h : Hall) (q : SlotRef) : measureTimer limit h q = h ∨
    ∃ e u ms, h.entry q = some e ∧ e.timer = some ms ∧ holderOf q.trunk e = some u ∧
      measureTimer limit h q = measured limit h q u ms := by
  cases he : h.entry q with
  | none => exact .inl (by simp [measureTimer, he])
  | some e =>
    cases ht : e.timer with
    | none => exact .inl (by simp [measureTimer, he, ht])
    | some ms =>
      cases hu : holderOf q.trunk e with
      | none => exact .inl (by simp [measureTimer, he, ht, hu])
      | some u =>
        cases hc : e.chair with
        | true => exact .inl (by simp [measureTimer, he, ht, hu, hc])
        | false => exact .inr ⟨e, u, ms, rfl, ht, hu, measureTimer_timed he ht hu hc⟩

theorem measured_eased (u : UnitId) (ms : Nat) : Eased h (measured limit h q u ms) := by
  unfold measured
  split
  · exact closeAndHandle_eased h q
  · split
    · exact warnUnit_eased h u
    · exact clearWarn_eased h u

theorem measured_touched (u : UnitId) (ms : Nat) : Touched [q] h (measured limit h q u ms) := by
  have written {g : Hall} (e : g.pools = h.pools) : Touched [q] h g := (Touched.of_pools e).mono (List.nil_subset _)
  unfold measured
  split
  · exact closeAndHandle_touched h q
  · split
    · exact written (warnUnit_pools h u)
    · exact written (clearWarn_pools h u)

theorem measured_unit_ne {u v : UnitId} (huv : u ≠ v) {e : Entry} (he : h.entry q = some e)
    (hu : holderOf q.trunk e = some u) (ms : Nat) : (measured limit h q u ms).unit v = h.unit v := by
  unfold measured
  split
  · rw [unit_of_units (closeAndHandle_serving h q).units]
    refine closeEntry_unit h q v fun x hx _ c => huv ?_
    cases he.symm.trans hx
    exact Option.some.inj (hu.symm.trans c)
  · split
    · exact warnUnit_unit_ne h huv
    · exact clearWarn_unit_ne h huv

theorem measureTimer_eased (limit : Nat) (h : Hall) (q : SlotRef) : Eased h (measureTimer limit h q) := by
  rcases measureTimer_cases limit h q with e | ⟨-, u, ms, -, -, -, e⟩
  · rw [e]; exact .refl h
  · rw [e]; exact measured_eased u ms

theorem measureTimer_touched (limit : Nat) (h : Hall) (q : SlotRef) : Touched [q] h (measureTimer limit h q) := by
  rcases measureTimer_cases limit h q with e | ⟨-, u, ms, -, -, -, e⟩
  · rw [e]; exact (Touched.refl h).mono (List.nil_subset _)
  · rw [e]; exact measured_touched u ms

/-- An entry without a timer is not measured. -/
theorem measureTimer_untimed {b : SlotRef} {e : Entry} (he : h.entry b = some e) (ht : e.timer = none) :
    (measureTimer limit h q).entry b = some e := by
  by_cases hb : b = q
  · subst hb
    rcases measureTimer_cases limit h b with x | ⟨e', u, ms, he', ht', -, -⟩
    · rw [x, he]
    · cases he.symm.trans he'
      rw [ht] at ht'
      cases ht'
  · exact (measureTimer_touched limit h q).kept b e (by simpa using hb) he

/-- Slot `q` alone holds an entry of unit `u` with a running timer. -/
def Hall.soleTimer (h : Hall) (q : SlotRef) (u : UnitId) : Prop :=
  ∀ b e, h.entry b = some e → e.timer ≠ none → holderOf b.trunk e = some u → b = q

theorem Touched.soleTimer {l : List SlotRef} {g : Hall} {u : UnitId} (w : Touched l h g) (hs : h.soleTimer q u) :
    g.soleTimer q u := by
  intro b e he ht hu
  rcases w.new b e he with he | ⟨-, c⟩ | ⟨-, e', -, -, rfl⟩
  · exact hs b e he ht hu
  · exact absurd c ht
  · exact absurd rfl ht

theorem measureTimer_unit {u : UnitId} {b : SlotRef} (hs : h.soleTimer q u) (hb : b ≠ q) :
    (measureTimer limit h b).unit u = h.unit u := by
  rcases measureTimer_cases limit h b with x | ⟨e, v, ms, he, ht, hv, x⟩
  · rw [x]
  · rw [x]
    refine measured_unit_ne (fun c => hb ?_) he hv ms
    subst c
    exact hs b e he (by simp [ht]) hv

/-- Measuring other slots leaves the record of the unit that holds this one alone. -/
theorem measureAll_unit {u : UnitId} (l : List SlotRef) (h : Hall) (hs : h.soleTimer q u) (hl : q ∉ l) :
    (l.foldl (measureTimer limit) h).unit u = h.unit u := by
  induction l generalizing h with
  | nil => rfl
  | cons b l ih =>
    rw [List.mem_cons, not_or] at hl
    rw [List.foldl_cons, ih _ ((measureTimer_touched limit h b).soleTimer hs) hl.2,
      measureTimer_unit hs fun c => hl.1 c.symm]

theorem measureAll_touched (limit : Nat) (l : List SlotRef) (h : Hall) : Touched l h (l.foldl (measureTimer limit) h) :=
  .fold (measureTimer_touched limit) l h

theorem measureAll_untimed (l : List SlotRef) (h : Hall) {b : SlotRef} {e : Entry} (he : h.entry b = some e)
    (ht : e.timer = none) : (l.foldl (measureTimer limit) h).entry b = some e :=
  foldl_keeps (P := fun g : Hall => g.entry b = some e) (fun _ _ hg => measureTimer_untimed hg ht) l h he

/-- Measuring the slots of a list closes the entry of one whose timer has reached the limit (R94). -/
theorem measureAll_closes {l : List SlotRef} (hd : l.Nodup) (hq : q ∈ l) {e : Entry} {ms : Nat} {u : UnitId}
    (he : h.entry q = some e) (ht : e.timer = some ms) (hu : holderOf q.trunk e = some u) (hc : e.chair = false)
    (ho : e.onAir = true) (hlim : 0 < limit ∧ limit * 1000 ≤ ms) :
    (l.foldl (measureTimer limit) h).entry q = some e.closed := by
  obtain ⟨l1, l2, rfl⟩ := List.append_of_mem hq
  obtain ⟨hq', -⟩ := List.nodup_cons.1 (List.nodup_middle.1 hd)
  rw [List.mem_append, not_or] at hq'
  rw [List.foldl_append, List.foldl_cons]
  have before := (measureAll_touched limit l1 h).kept q e hq'.1 he
  refine (measureAll_touched limit l2 _).kept q _ hq'.2 ?_
  rw [measureTimer_timed before ht hu hc, measured, if_pos (by simpa using ⟨by omega, hlim.2⟩)]
  exact (closeAndHandle_serving _ q).filled.held q _ (closeEntry_closed before ho)

/-- Measuring the slots of a list leaves an entry whose timer has not reached the limit, and its unit warned exactly
past the warning point (R94). -/
theorem measureAll_warns {l : List SlotRef} (hd : l.Nodup) (hq : q ∈ l) {e : Entry} {ms : Nat} {u : UnitId}
    (he : h.entry q = some e) (ht : e.timer = some ms) (hu : holderOf q.trunk e = some u) (hc : e.chair = false)
    (hs : h.soleTimer q u) (hlim : ¬(0 < limit ∧ limit * 1000 ≤ ms)) :
    (l.foldl (measureTimer limit) h).entry q = some e ∧
      (((l.foldl (measureTimer limit) h).unit u).warned = true ↔ (0 < limit ∧ (limit - 30) * 1000 ≤ ms)) := by
  obtain ⟨l1, l2, rfl⟩ := List.append_of_mem hq
  obtain ⟨hq', -⟩ := List.nodup_cons.1 (List.nodup_middle.1 hd)
  rw [List.mem_append, not_or] at hq'
  rw [List.foldl_append, List.foldl_cons]
  have before := (measureAll_touched limit l1 h).kept q e hq'.1 he
  have alone := (measureTimer_touched limit _ q).soleTimer ((measureAll_touched limit l1 h).soleTimer hs)
  rw [measureAll_unit l2 _ alone hq'.2]
  have at_q : measureTimer limit (l1.foldl (measureTimer limit) h) q =
      if 0 < limit ∧ (limit - 30) * 1000 ≤ ms then warnUnit (l1.foldl (measureTimer limit) h) u
      else clearWarn (l1.foldl (measureTimer limit) h) u := by
    rw [measureTimer_timed before ht hu hc, measured, if_neg (by simpa [Nat.pos_iff_ne_zero] using hlim)]
    rw [show warnAt limit = (limit - 30) * 1000 from rfl]
    simp only [Nat.pos_iff_ne_zero, Bool.and_eq_true, decide_eq_true_eq]
  rw [at_q]
  split
  · next hw =>
    refine ⟨(measureAll_touched limit l2 _).kept q e hq'.2 ?_, by simp [warnUnit_warned, hw]⟩
    rw [entry_of_pools (warnUnit_pools _ _), before]
  · next hw =>
    refine ⟨(measureAll_touched limit l2 _).kept q e hq'.2 ?_, by simp [clearWarn_warned, hw]⟩
    rw [entry_of_pools (clearWarn_pools _ _), before]

end

end Sys2Proof.Machine
end

section
/-! SET-ROOM settles (O41): the whole of it, stored, trimmed, measured and granted (R92, R93). -/

namespace Sys2Proof.Machine

/-! ## The slots shed -/

section
variable {h : Hall} {q : SlotRef} {l : List SlotRef} {e : Entry}

theorem shedAll_touched (l : List SlotRef) (h : Hall) : Touched l h (l.foldl shedEntry h) := .fold shedEntry_touched l h

/-- Shedding the slots of a list closes an entry in OPENING or OPEN. -/
theorem shedAll_closes (hd : l.Nodup) (hq : q ∈ l) (he : h.entry q = some e) (ho : e.onAir = true) :
    (l.foldl shedEntry h).entry q = some e.closed := by
  obtain ⟨l1, l2, rfl⟩ := List.append_of_mem hq
  obtain ⟨hq', -⟩ := List.nodup_cons.1 (List.nodup_middle.1 hd)
  rw [List.mem_append, not_or] at hq'
  rw [List.foldl_append, List.foldl_cons]
  have before := (shedAll_touched l1 h).kept q e hq'.1 he
  refine (shedAll_touched l2 _).kept q _ hq'.2 ?_
  rw [shedEntry_close _ q fun x hx c => by
    cases before.symm.trans hx
    rw [Entry.onAir_granted c] at ho
    cases ho]
  exact closeEntry_closed before ho

/-- Slot `q` is free, or its entry is GRANTED. -/
def Hall.atMostGranted (h : Hall) (q : SlotRef) : Prop := ∀ e, h.entry q = some e → e.state = .granted

theorem Touched.atMostGranted {g : Hall} (w : Touched l h g) (hg : h.atMostGranted q) : g.atMostGranted q := by
  intro e he
  rcases w.new q e he with he | ⟨hs, -⟩ | ⟨-, e', he', ho, -⟩
  · exact hg e he
  · exact hs
  · rw [Entry.onAir_granted (hg e' he')] at ho
    cases ho

/-- Shedding the slots of a list takes a GRANTED entry out of its slot, which holds at most a new grant after it. -/
theorem shedAll_recalls (hd : l.Nodup) (hq : q ∈ l) (he : h.entry q = some e) (hs : e.state = .granted) :
    (l.foldl shedEntry h).atMostGranted q := by
  obtain ⟨l1, l2, rfl⟩ := List.append_of_mem hq
  obtain ⟨hq', -⟩ := List.nodup_cons.1 (List.nodup_middle.1 hd)
  rw [List.mem_append, not_or] at hq'
  rw [List.foldl_append, List.foldl_cons]
  have before := (shedAll_touched l1 h).kept q e hq'.1 he
  refine (shedAll_touched l2 _).atMostGranted ?_
  rw [shedEntry_granted _ q before hs]
  exact fun x hx => (recallEntry_entry _ q e hx).1

theorem shedRefs_nodup (h : Hall) (i : SegId) (limit : Nat) : (h.shedRefs i limit).Nodup :=
  countedRefs_nodup.sublist (List.take_sublist _ _)

theorem shedRefs_seg {i : SegId} {r : Room} (hr : h.room i = some r) {limit : Nat} (hq : q ∈ h.shedRefs i limit)
    (he : h.entry q = some e) : inSet r.segs e.seg = true := by
  obtain ⟨x, hx, hs, -⟩ := countedAt_eq_true.1 ((mem_countedRefs hr).1 (List.mem_of_mem_take hq))
  cases he.symm.trans hx
  exact hs

end

/-! ## What SET-ROOM leaves -/

/-- The hall in which a room is stored with its settings and trimmed to them. -/
def storedTrim (h : Hall) (i : SegId) (r : Room) (st : Settings) : Hall := trimRoom (storeSettings h i r st) i st

theorem setRoomHall_eq (h : Hall) (i : SegId) (r : Room) (st : Settings) : setRoomHall h i r st =
    regrant (remeasure (storedTrim h i r st) i r.settings st) i r.settings st := rfl

theorem regrant_serving (h : Hall) (i : SegId) (old new : Settings) : Serving h (regrant h i old new) := by
  unfold regrant
  split
  · exact grantHandling_serving h i
  · exact .refl

theorem remeasure_same (h : Hall) (i : SegId) {old new : Settings} (e : new.speakLimit = old.speakLimit) :
    remeasure h i old new = h := if_pos e

theorem remeasure_changed (h : Hall) (i : SegId) {old new : Settings} (e : new.speakLimit ≠ old.speakLimit) :
    remeasure h i old new = ((h.speaking i).map (·.1)).foldl (measureTimer new.speakLimit) h := if_neg e

theorem remeasure_eased (h : Hall) (i : SegId) (old new : Settings) : Eased h (remeasure h i old new) := by
  unfold remeasure
  split
  · exact .refl h
  · exact .fold (measureTimer_eased _) _ h

theorem remeasure_touched (h : Hall) (i : SegId) (old new : Settings) :
    Touched ((h.speaking i).map (·.1)) h (remeasure h i old new) := by
  unfold remeasure
  split
  · exact (Touched.refl h).mono (List.nil_subset _)
  · exact measureAll_touched _ _ h

theorem remeasure_untimed {h : Hall} (i : SegId) (old new : Settings) {q : SlotRef} {e : Entry}
    (he : h.entry q = some e) (ht : e.timer = none) : (remeasure h i old new).entry q = some e := by
  unfold remeasure
  split
  · exact he
  · exact measureAll_untimed _ h he ht

theorem setRoomHall_eased (h : Hall) (i : SegId) (r : Room) (st : Settings) :
    Eased (storedTrim h i r st) (setRoomHall h i r st) :=
  (remeasure_eased _ i _ _).trans (.of_serving (regrant_serving _ i _ _))

theorem setRoomHall_onward (h : Hall) (i : SegId) (r : Room) (st : Settings) :
    Onward (storeSettings h i r st) (setRoomHall h i r st) :=
  (trimRoom_onward _ i st).trans (setRoomHall_eased h i r st).onward

section
variable {h : Hall} {i : SegId} {r : Room} (hr : h.room i = some r) (st : Settings)
include hr

theorem setRoomHall_core_stored : (setRoomHall h i r st).core = (h.setRoom i (some (r.settled st))).core :=
  (setRoomHall_core h i r st).trans (storeSettings_core h hr st)

/-- The room after SET-ROOM has its segments and the settings stored. -/
theorem setRoomHall_stored :
    ∃ r', (setRoomHall h i r st).room i = some r' ∧ r'.segs = r.segs ∧ r'.settings = st := by
  obtain ⟨r1, hr1, segs, settings⟩ := storeSettings_stored st hr
  obtain ⟨r2, hr2, segs', settings'⟩ := room_of_core (setRoomHall_onward h i r st).core hr1
  exact ⟨r2, hr2, segs'.trans segs, settings'.trans settings⟩

theorem setRoomHall_queue : ((setRoomHall h i r st).queue i).length ≤ st.queueLimit := by
  obtain ⟨r1, hr1, segs, rfl⟩ := storeSettings_stored st hr
  obtain ⟨r2, hr2, segs', -⟩ := setRoomHall_stored hr r1.settings
  rw [queue_room hr2, segs', ← segs]
  have eased := setRoomHall_eased h i r r1.settings
  exact (eased.fewer.queue_le fun q _ => seatedIn_of_eq eased.seats _ _).trans (trimRoom_queue hr1)

theorem setRoomHall_told_room (hx : st ≠ r.settings ∨ r.dormant = true) : (setRoomHall h i r st).told .room r.segs :=
  (setRoomHall_onward h i r st).told (storeSettings_told st hr hx)

theorem setRoomHall_count (ha : h.apart i) (hc : h.classed) : (setRoomHall h i r st).count i ≤ st.openLimit := by
  obtain ⟨r1, hr1, segs, rfl⟩ := storeSettings_stored st hr
  have apart := storeSettings_apart r1.settings hr ha
  have classed := storeSettings_classed (i := i) (r := r) r1.settings hc
  have trimmed := trimRoom_onward (storeSettings h i r r1.settings) i r1.settings
  obtain ⟨r2, hr2, segs2, settings2⟩ := room_of_core trimmed.core hr1
  obtain ⟨r3, hr3, segs3, -⟩ := setRoomHall_stored hr r1.settings
  rw [count_eq, segsOf_room hr3, segs3, ← segs, ← segs2]
  refine (setRoomHall_eased h i r r1.settings).count i r2 _ hr2 (apart_of_core trimmed.core apart)
    (trimRoom_classed _ classed) (le_of_eq (congrArg _ settings2)) ?_
  rw [segs2]
  exact trimRoom_count hr1 apart classed

theorem setRoomHall_within (ha : h.apart i) :
    ∀ q ∈ (setRoomHall h i r st).queue i, q.score ≤ st.max ∧ q.guard ≤ st.guard := by
  obtain ⟨r1, hr1, segs, rfl⟩ := storeSettings_stored st hr
  have trimmed := trimRoom_onward (storeSettings h i r r1.settings) i r1.settings
  obtain ⟨r2, hr2, segs2, settings2⟩ := room_of_core trimmed.core hr1
  obtain ⟨r3, hr3, segs3, -⟩ := setRoomHall_stored hr r1.settings
  have within := (setRoomHall_eased h i r r1.settings).scores i r2 r1.settings.guard hr2
    (apart_of_core trimmed.core (storeSettings_apart r1.settings hr ha))
    (by rw [segs2, settings2]; exact trimRoom_within hr1)
  intro q hq
  rw [queue_room hr3, segs3, ← segs, ← segs2, mem_queueIn] at hq
  have := within q hq.1 hq.2
  rwa [settings2] at this

theorem setRoomHall_told_floor (ha : h.apart i)
    (hx : h.shedRefs i st.openLimit ≠ [] ∨ st.queueLimit < (h.queue i).length ∨
      ∃ q ∈ h.queue i, st.max < q.score ∨ st.guard < q.guard) : (setRoomHall h i r st).told .floor r.segs := by
  obtain ⟨r1, hr1, segs, rfl⟩ := storeSettings_stored st hr
  rw [← segs]
  refine (setRoomHall_eased h i r _).onward.told (trimRoom_told hr1 (storeSettings_apart _ hr ha) ?_)
  rwa [storeSettings_shedRefs _ hr, storeSettings_queue _ hr]

theorem storedTrim_touched : Touched (h.shedRefs i st.openLimit) h (storedTrim h i r st) := by
  have := (Touched.of_pools (storeSettings_pools (h := h) (i := i) (r := r) st)).trans
    (trimRoom_touched (h := storeSettings h i r st) (i := i) st)
  rwa [storeSettings_shedRefs st hr] at this

theorem storedTrim_entry (q : SlotRef) :
    (storedTrim h i r st).entry q = ((h.shedRefs i st.openLimit).foldl shedEntry (storeSettings h i r st)).entry q := by
  rw [storedTrim, entry_of_pools (trimRoom_pools _ i st), shedCount_eq, storeSettings_shedRefs st hr]

theorem storedTrim_segsOf : (storedTrim h i r st).segsOf i = r.segs := by
  obtain ⟨r1, hr1, segs, -⟩ := storeSettings_stored st hr
  obtain ⟨r2, hr2, segs', -⟩ := room_of_core (trimRoom_onward (storeSettings h i r st) i st).core hr1
  rw [storedTrim, segsOf_room hr2, segs', segs]

theorem mem_storedTrim_refs {q : SlotRef} :
    q ∈ ((storedTrim h i r st).speaking i).map (·.1) ↔
      ∃ e, (storedTrim h i r st).entry q = some e ∧ inSet r.segs e.seg = true := by
  rw [List.mem_map]
  constructor
  · rintro ⟨⟨b, e⟩, hb, rfl⟩
    rw [Hall.speaking, mem_entriesIn, storedTrim_segsOf hr st] at hb
    exact ⟨e, hb⟩
  · rintro ⟨e, he⟩
    refine ⟨(q, e), ?_, rfl⟩
    rwa [Hall.speaking, mem_entriesIn, storedTrim_segsOf hr st]

/-- A shed entry in OPENING or OPEN is sent to CLOSING (R93, step 1). -/
theorem setRoomHall_closes {q : SlotRef} {e : Entry} (hq : q ∈ h.shedRefs i st.openLimit) (he : h.entry q = some e)
    (ho : e.onAir = true) : (setRoomHall h i r st).entry q = some e.closed := by
  have closed : (storedTrim h i r st).entry q = some e.closed := by
    rw [storedTrim_entry hr]
    exact shedAll_closes (shedRefs_nodup h i _) hq (by rwa [entry_of_pools (storeSettings_pools st)]) ho
  exact (regrant_serving _ i _ _).filled.held q _ (remeasure_untimed i _ _ closed rfl)

/-- A shed GRANTED entry leaves its slot, which holds at most a new grant (R93, step 1). -/
theorem setRoomHall_recalls {q : SlotRef} {e : Entry} (hq : q ∈ h.shedRefs i st.openLimit) (he : h.entry q = some e)
    (hs : e.state = .granted) : (setRoomHall h i r st).atMostGranted q := by
  have recalled : (storedTrim h i r st).atMostGranted q := by
    intro x hx
    rw [storedTrim_entry hr] at hx
    exact shedAll_recalls (shedRefs_nodup h i _) hq (by rwa [entry_of_pools (storeSettings_pools st)]) hs x hx
  exact ((remeasure_touched _ i _ _).filled (regrant_serving _ i _ _).filled).atMostGranted recalled

theorem setRoomHall_keeps {q : SlotRef} {e : Entry} (hq : q ∉ h.shedRefs i st.openLimit) (he : h.entry q = some e)
    (hl : st.speakLimit = r.settings.speakLimit) : (setRoomHall h i r st).entry q = some e := by
  rw [setRoomHall_eq, remeasure_same _ i hl]
  exact (regrant_serving _ i _ _).filled.held q e ((storedTrim_touched hr st).kept q e hq he)

/-- An entry filed elsewhere stays. -/
theorem setRoomHall_elsewhere {q : SlotRef} {e : Entry} (he : h.entry q = some e) (hs : inSet r.segs e.seg = false) :
    (setRoomHall h i r st).entry q = some e := by
  have notShed : q ∉ h.shedRefs i st.openLimit := fun c => by
    rw [shedRefs_seg hr c he] at hs
    cases hs
  have kept := (storedTrim_touched hr st).kept q e notShed he
  have notListed : q ∉ ((storedTrim h i r st).speaking i).map (·.1) := fun c => by
    obtain ⟨x, hx, hin⟩ := (mem_storedTrim_refs hr st).1 c
    cases kept.symm.trans hx
    rw [hin] at hs
    cases hs
  exact (regrant_serving _ i _ _).filled.held q e ((remeasure_touched _ i _ _).kept q e notListed kept)

section
variable {q : SlotRef} {e : Entry} {ms : Nat} {u : UnitId} (he : h.entry q = some e) (hin : inSet r.segs e.seg = true)
  (hq : q ∉ h.shedRefs i st.openLimit) (ht : e.timer = some ms) (hu : holderOf q.trunk e = some u)
  (hc : e.chair = false) (hl : st.speakLimit ≠ r.settings.speakLimit)
include he hin hq ht hu hc hl

/-- A running timer that has reached a changed speak limit closes the entry (R93, step 4). -/
theorem setRoomHall_expires (ho : e.onAir = true) (hlim : 0 < st.speakLimit ∧ st.speakLimit * 1000 ≤ ms) :
    (setRoomHall h i r st).entry q = some e.closed := by
  have kept := (storedTrim_touched hr st).kept q e hq he
  refine (regrant_serving _ i _ _).filled.held q _ ?_
  rw [remeasure_changed _ i hl]
  exact measureAll_closes entriesIn_nodup ((mem_storedTrim_refs hr st).2 ⟨e, kept, hin⟩) kept ht hu hc ho hlim

/-- A running timer short of a changed speak limit leaves its unit warned exactly past the warning point (R93, R94). -/
theorem setRoomHall_warns (hs : h.soleTimer q u) (hlim : ¬(0 < st.speakLimit ∧ st.speakLimit * 1000 ≤ ms)) :
    (setRoomHall h i r st).entry q = some e ∧
      (((setRoomHall h i r st).unit u).warned = true ↔ (0 < st.speakLimit ∧ (st.speakLimit - 30) * 1000 ≤ ms)) := by
  have kept := (storedTrim_touched hr st).kept q e hq he
  have measured := measureAll_warns entriesIn_nodup ((mem_storedTrim_refs hr st).2 ⟨e, kept, hin⟩) kept ht hu hc
    ((storedTrim_touched hr st).soleTimer hs) hlim
  rw [setRoomHall_eq, unit_of_units (regrant_serving _ i _ _).units, remeasure_changed _ i hl]
  exact ⟨(regrant_serving _ i _ _).filled.held q _ measured.1, measured.2⟩

end

end

/-! ## The command -/

section
variable {α : Type} {s : State} {p : PortId} {tag : Byte} {g : Option (BitVec 16)} {sel : Selector} {i : SegId} {a : α}
  {body : SegId → α → Reply}

theorem takeRoomCommand_refused (ha : s.admitsRoom p g sel i) {st : Status} (e : body i a = .refuse st) :
    takeRoomCommand s p tag (some (g, sel, a)) body = setAnswer s p tag st (roomTail s.hall i) := by
  obtain ⟨⟨busy, role⟩, room, scope, gen⟩ := ha
  unfold takeRoomCommand
  rw [if_neg (by rw [busy]; simp), if_neg (by rw [List.contains_iff_mem.2 role]; simp)]
  simp only [room, scope, gen, e]
  rfl

theorem takeRoomCommand_done (ha : s.admitsRoom p g sel i) {c : Bool} {l : List Byte} {t : State}
    (e : body i a = .done c l t) : takeRoomCommand s p tag (some (g, sel, a)) body =
      setAnswer t p tag (doneStatus c) (roomTail t.hall i ++ l) := by
  obtain ⟨⟨busy, role⟩, room, scope, gen⟩ := ha
  unfold takeRoomCommand
  rw [if_neg (by rw [busy]; simp), if_neg (by rw [List.contains_iff_mem.2 role]; simp)]
  simp only [room, scope, gen, e]
  rfl

end

theorem roomTail_of_core {h : Hall} {i : SegId} {r : Room} (e : (h.room i).map Room.core = some r.core) :
    roomTail h i = bSeg i ++ b2 r.gen.toNat := by
  obtain ⟨r', hr', hc⟩ := Option.map_eq_some_iff.1 e
  simp only [roomTail, hr', show r'.gen = r.gen from congrArg (·.2.2.1) hc]

/-- The slots shed in the words of the statement. -/
theorem shedRefs_eq (h : Hall) (i : SegId) (limit : Nat) :
    h.shedRefs i limit = (h.countedRefs i).take ((h.countedRefs i).length - limit) := by
  rw [Hall.shedRefs, countedRefs_length]

/-- Settles O41: every clause is a lemma above about `setRoomHall`, the hall that SET-ROOM leaves. -/
theorem setRoom : Obligations.SetRoom := by
  refine ⟨badMode_iff, fun s p tag l g sel i r fs ha hl hr => ⟨fun hb => ?_, fun hb => ?_⟩⟩
  · have body : setRoomBody s i fs = .refuse .range := if_pos hb
    have tail := roomTail_of_core (h := s.hall) (i := i) (r := r) (by rw [hr]; rfl)
    have answer := takeRoomCommand_refused (tag := tag) ha body
    rw [tail, ← hl] at answer
    exact congrArg Host.Outcome.next answer
  · have body : setRoomBody s i fs =
        .done (r.settings.clampedBy fs) [] (s.floorHall (setRoomHall s.hall i r (r.settings.named fs))) := by
      simp only [setRoomBody, hb, hr, writeSettings_named _ _ hb]
      rfl
    have core := setRoomHall_core_stored hr (r.settings.named fs)
    have room : ((setRoomHall s.hall i r (r.settings.named fs)).room i).map Room.core =
        some (r.settled (r.settings.named fs)).core := by
      rw [core_room core i, Hall.setRoom_room, Option.map_some]
    have tail := roomTail_of_core (h := idleSweep (setRoomHall s.hall i r (r.settings.named fs)))
      ((core_room (idleSweep_core _) i).trans room)
    refine ⟨setRoomHall s.hall i r (r.settings.named fs), ?_, room, fun j hj => ?_, fun u => core_unit core u,
      fun b => core_booth core b, congrArg (·.2.2.2.1) core, fun q => core_port core q, ?_, setRoomHall_queue hr _,
      setRoomHall_told_room hr _, fun apart => ⟨fun classed => setRoomHall_count hr _ apart classed,
        setRoomHall_within hr _ apart⟩, ?_⟩
    · have answer := takeRoomCommand_done (tag := tag) ha body
      rw [List.append_nil, ← hl] at answer
      refine congrArg Host.Outcome.next (answer.trans ?_)
      exact congrArg (setAnswer _ p tag _) tail
    · rw [core_room core j, Hall.setRoom_room_ne _ _ fun c => hj c.symm]
    · exact (setRoomHall_onward _ i r _).awake i (storeSettings_awake _ hr)
    · intro counted shed
      have shed_eq : shed = s.hall.shedRefs i (r.settings.named fs).openLimit := (shedRefs_eq _ _ _).symm
      rw [shed_eq]
      refine ⟨fun apart hx => setRoomHall_told_floor hr _ apart hx, fun q hq e he =>
        ⟨setRoomHall_closes hr _ hq he, fun hs => setRoomHall_recalls hr _ hq he hs⟩,
        fun q e he hq hlim => setRoomHall_keeps hr _ hq he hlim,
        fun q e he hs => setRoomHall_elsewhere hr _ he hs, fun q e a ms he hin hq hunit ht hc ho hlim sole => ?_⟩
      have hu : holderOf q.trunk e = some { trunk := q.trunk, addr := a } := holderOf_eq_some.2 ⟨rfl, hunit⟩
      refine ⟨setRoomHall_expires hr _ he hin hq ht hu hc hlim ho, setRoomHall_warns hr _ he hin hq ht hu hc hlim ?_⟩
      intro b x hx _ hb
      obtain ⟨trunk, unit⟩ := holderOf_eq_some.1 hb
      exact sole b x hx trunk unit

end Sys2Proof.Machine
end

section
/-! The recall of the GRANTED entries of frozen rooms (R35, R78): no grant handling reaches a unit that waits in a frozen
room, so a recalled unit stays where the recall has left it. -/

namespace Sys2Proof.Machine

/-! ## A frozen room apart -/

/-- Room `i` is frozen, has the segments `x` and shares none with another room. -/
def Hall.shut (h : Hall) (i : SegId) (x : SegSet) : Prop :=
  h.apart i ∧ ∃ r, h.room i = some r ∧ r.frozen = true ∧ r.segs = x

section
variable {h g : Hall} {i : SegId} {x : SegSet}

theorem Hall.shut.onward (hs : h.shut i x) (w : Onward h g) : g.shut i x := by
  obtain ⟨ha, r, hr, hf, rfl⟩ := hs
  obtain ⟨r', hr', segs, -⟩ := room_of_core w.core hr
  obtain ⟨r'', hr'', frozen⟩ := frozen_room w hr
  cases hr'.symm.trans hr''
  exact ⟨apart_of_core w.core ha, r', hr', frozen.trans hf, segs⟩

/-- No room but the frozen one holds a unit that is seated in it. -/
theorem Hall.shut.not_seatedIn (hs : h.shut i x) {u : UnitId} (hu : h.seatedIn x u = true) {j : SegId} {r : Room}
    (hr : h.room j = some r) (hf : r.frozen = false) : h.seatedIn r.segs u = false := by
  obtain ⟨ha, rm, hrm, hfrozen, rfl⟩ := hs
  by_contra c
  rw [Bool.not_eq_false] at c
  obtain ⟨sg, hsg, hin⟩ := seatedIn_iff.1 hu
  obtain ⟨sg', hsg', hin'⟩ := seatedIn_iff.1 c
  cases hsg.symm.trans hsg'
  obtain rfl := eq_of_apart ha hrm hr hin hin'
  cases hrm.symm.trans hr
  rw [hf] at hfrozen
  cases hfrozen

theorem Hall.shut.not_grantable (hs : h.shut i x) {u : UnitId} (hu : h.seatedIn x u = true) : ¬Grantable h u := by
  rintro ⟨q, -, -, j, r, hr, hf, hseat, -⟩
  rw [hs.not_seatedIn hu hr hf] at hseat
  cases hseat

end

/-! ## A unit that the grants pass by -/

/-- Unit `u` has the record `w` and the address record `a`, holds no slot but those in `l`, and has the request `o`,
seated in `x`, or none. -/
structure Bystander (u : UnitId) (x : SegSet) (l : List SlotRef) (w : UnitRec) (a : AddrRec) (o : Option Request)
    (h : Hall) : Prop where
  slots : ∀ q e, h.entry q = some e → holderOf q.trunk e = some u → q ∈ l
  unit  : h.unit u = w
  addr  : h.addr u = a
  filed : ∀ q, o = some q → q ∈ h.requests ∧ q.unit = u ∧ h.seatedIn x u = true
  idle  : o = none → ∀ q ∈ h.requests, q.unit ≠ u

section
variable {u : UnitId} {x : SegSet} {l : List SlotRef} {w : UnitRec} {a : AddrRec} {o : Option Request} {h g : Hall}
  {i : SegId}

theorem Bystander.not_grantable (b : Bystander u x l w a o h) (hs : h.shut i x) : ¬Grantable h u := by
  cases o with
  | none =>
    rintro ⟨q, hq, hu, -⟩
    exact b.idle rfl q hq hu
  | some q => exact hs.not_grantable (b.filed q rfl).2.2

theorem ageRoom_addr (h : Hall) (i : SegId) (u : UnitId) : (ageRoom h i).addr u = h.addr u := by
  unfold ageRoom; split <;> rfl

/-- The aging of a room that is not frozen leaves a request of another room as it is. -/
theorem mem_ageRoom {j : SegId} {r : Room} (hr : h.room j = some r) {q : Request} (hq : q ∈ h.requests)
    (hs : h.seatedIn r.segs q.unit = false) : q ∈ (ageRoom h j).requests := by
  simp only [ageRoom, hr, mapRequests]
  exact List.mem_map.2 ⟨q, hq, if_neg (by rw [hs]; decide)⟩

theorem ageRoom_units_mem {j : SegId} {q : Request} (hq : q ∈ (ageRoom h j).requests) :
    ∃ p ∈ h.requests, p.unit = q.unit := by
  obtain ⟨p, hp, hu, -⟩ := (ageRoom_fewer h j).old q hq
  exact ⟨p, hp, hu.symm⟩

theorem Served.bystander (s : Served h g) (hs : h.shut i x) (b : Bystander u x l w a o h) :
    Bystander u x l w a o g := by
  cases s with
  | @grant v s =>
    have huv : u ≠ v := fun c => b.not_grantable hs (c ▸ s)
    rcases grantUnit_cases h v none with e | ⟨p, y, t⟩
    · rw [e]; exact b
    · refine ⟨fun q e he hu => ?_, (unit_of_units t.units u).trans b.unit, (t.addr u huv).trans b.addr,
        fun q ho => ?_, fun ho q hq => b.idle ho q (List.mem_of_mem_filter (t.requests ▸ hq))⟩
      · rw [t.entry q] at he
        split at he
        · next e =>
          cases he
          subst e
          exact absurd (Option.some.inj (hu.symm.trans (holderOf_eq_some.2 ⟨t.trunk, t.unit⟩))) huv
        · exact b.slots q e he hu
      · obtain ⟨hq, hu, hseat⟩ := b.filed q ho
        refine ⟨?_, hu, by rwa [seatedIn_of_units t.units]⟩
        rw [t.requests]
        exact List.mem_filter.2 ⟨hq, by simpa [hu] using huv⟩
  | @age j r hr hf =>
    refine ⟨fun q e he => b.slots q e (by rwa [entry_of_pools (ageRoom_pools h j)] at he),
      (unit_of_units (ageRoom_units h j) u).trans b.unit, (ageRoom_addr h j u).trans b.addr, fun q ho => ?_,
      fun ho q hq => ?_⟩
    · obtain ⟨hq, hu, hseat⟩ := b.filed q ho
      exact ⟨mem_ageRoom hr hq (by rw [hu]; exact hs.not_seatedIn hseat hr hf), hu,
        by rwa [seatedIn_of_units (ageRoom_units h j)]⟩
    · obtain ⟨p, hp, hu⟩ := ageRoom_units_mem hq
      exact hu ▸ b.idle ho p hp
  | rotation _ => exact ⟨b.slots, b.unit, b.addr, b.filed, b.idle⟩

theorem Serving.bystander (s : Serving h g) (hs : h.shut i x) (b : Bystander u x l w a o h) :
    Bystander u x l w a o g := by
  induction s with
  | refl => exact b
  | @tail m g before step ih =>
    have before' : Serving h m := before
    exact step.bystander (hs.onward before'.onward) ih

/-- The recall of another unit's entry passes a unit by. -/
theorem refiled_bystander {q : SlotRef} {e : Entry} (he : h.entry q = some e) (hq : q ∉ l)
    (b : Bystander u x l w a o h) : Bystander u x l w a o (refiled h q e) := by
  have other : holderOf q.trunk e ≠ some u := fun c => hq (b.slots q e he c)
  obtain ⟨unit, addr⟩ := refiled_other h q e other
  refine ⟨fun p y hy hu => ?_, unit.trans b.unit, addr.trans b.addr, fun p ho => ?_, fun ho p hp => ?_⟩
  · rw [refiled_entry] at hy
    split at hy
    · cases hy
    · exact b.slots p y hy hu
  · obtain ⟨hp, hu, hseat⟩ := b.filed p ho
    refine ⟨?_, hu, by simpa only [Hall.seatedIn, unit] using hseat⟩
    rcases refiled_requests h q e with r | ⟨p', v, r, -⟩
    · rwa [r]
    · rw [r]; exact List.mem_append_left _ hp
  · rcases refiled_requests h q e with r | ⟨p', v, r, hv, hu, -⟩
    · exact b.idle ho p (r ▸ hp)
    · rw [r, List.mem_append, List.mem_singleton] at hp
      rcases hp with hp | rfl
      · exact b.idle ho p hp
      · exact fun c => other (by rw [hv, ← hu, c])

/-- A recall in a slot is none, or it is that of the GRANTED entry there. -/
theorem recallAt_cases (h : Hall) (q : SlotRef) : recallAt h q = h ∨
    ∃ e, h.entry q = some e ∧ e.state = .granted ∧ recallAt h q = recallEntry h q e := by
  cases he : h.entry q with
  | none => exact .inl (by simp [recallAt, he])
  | some e =>
    by_cases hs : e.state = .granted
    · exact .inr ⟨e, rfl, hs, by simp [recallAt, he, hs]⟩
    · exact .inl (by simp [recallAt, he, hs])

theorem recallAt_onward (h : Hall) (q : SlotRef) : Onward h (recallAt h q) := by
  rcases recallAt_cases h q with e | ⟨y, -, -, e⟩
  · rw [e]; exact .refl h
  · rw [e]; exact recallEntry_onward h q y

theorem recallAt_touched (h : Hall) (q : SlotRef) : Touched [q] h (recallAt h q) := by
  rcases recallAt_cases h q with e | ⟨y, -, -, e⟩
  · rw [e]; exact (Touched.refl h).mono (List.nil_subset _)
  · rw [e]; exact recallEntry_touched h q y

theorem recallAt_bystander {q : SlotRef} (hq : q ∉ l) (hs : h.shut i x) (b : Bystander u x l w a o h) :
    Bystander u x l w a o (recallAt h q) := by
  rcases recallAt_cases h q with e | ⟨y, hy, -, e⟩
  · rw [e]; exact b
  · rw [e]
    exact (recallEntry_serving h q y).bystander (hs.onward (refiled_onward h q y)) (refiled_bystander hy hq b)

theorem recallAll_onward (l : List SlotRef) (h : Hall) : Onward h (l.foldl recallAt h) := .fold recallAt_onward l h

theorem recallAll_touched (l : List SlotRef) (h : Hall) : Touched l h (l.foldl recallAt h) := .fold recallAt_touched l h

theorem recallAll_bystander (qs : List SlotRef) (hq : ∀ q ∈ qs, q ∉ l) (hs : h.shut i x)
    (b : Bystander u x l w a o h) : Bystander u x l w a o (qs.foldl recallAt h) := by
  induction qs generalizing h with
  | nil => exact b
  | cons q qs ih =>
    exact ih (fun p hp => hq p (.tail q hp)) (hs.onward (recallAt_onward h q)) (recallAt_bystander (hq q (.head qs)) hs b)

end

/-! ## The queue of a frozen room -/

section
variable {h g : Hall} {i : SegId} {x : SegSet}

/-- Grant handling leaves the length of a frozen room's queue. -/
theorem Served.queue_length (s : Served h g) (hs : h.shut i x) : (g.queueIn x).length = (h.queueIn x).length := by
  rw [length_queueIn, length_queueIn]
  cases s with
  | @grant v s =>
    rcases grantUnit_cases h v none with e | ⟨r, y, t⟩
    · rw [e]
    · simp only [seatedIn_of_units t.units]
      rw [t.requests, List.countP_filter]
      refine List.countP_congr fun q _ => ?_
      simp only [Bool.and_eq_true, decide_eq_true_eq, and_iff_left_iff_imp]
      exact fun hq c => hs.not_grantable (c ▸ hq) s
  | @age j r hr hf =>
    simp only [seatedIn_of_units (ageRoom_units h j)]
    simp only [ageRoom, hr, mapRequests, List.countP_map]
    refine List.countP_congr fun q _ => ?_
    simp only [Function.comp_apply]
    split <;> simp
  | rotation _ => rfl

theorem Serving.queue_length (s : Serving h g) (hs : h.shut i x) : (g.queueIn x).length = (h.queueIn x).length := by
  induction s with
  | refl => rfl
  | @tail m g before step ih =>
    have before' : Serving h m := before
    exact (step.queue_length (hs.onward before'.onward)).trans ih

/-- A recall files at most one request, and takes none from a queue (R78). -/
theorem refiled_queue (h : Hall) (q : SlotRef) (e : Entry) (x : SegSet) :
    (h.queueIn x).length ≤ ((refiled h q e).queueIn x).length ∧
      ((refiled h q e).queueIn x).length ≤ (h.queueIn x).length + 1 := by
  have seats : ∀ p ∈ (refiled h q e).requests, ((refiled h q e).seatedIn x p.unit = true ↔ h.seatedIn x p.unit = true) :=
    fun p hp => by simp only [Hall.seatedIn, refiled_waiting h q e ⟨p, hp, rfl⟩]
  rw [length_queueIn, length_queueIn, List.countP_congr seats]
  rcases refiled_requests h q e with r | ⟨p, v, r, -⟩
  · rw [r]; omega
  · rw [r, List.countP_append]
    have := List.countP_le_length (l := [p]) (p := fun p => h.seatedIn x p.unit)
    simp only [List.length_singleton] at this
    omega

theorem refiled_pool (h : Hall) (q : SlotRef) (e : Entry) : (refiled h q e).requests.length ≤ h.requests.length + 1 := by
  rcases refiled_requests h q e with r | ⟨p, v, r, -⟩
  · rw [r]; omega
  · rw [r]; simp

theorem recallAt_queue (hs : h.shut i x) (q : SlotRef) :
    (h.queueIn x).length ≤ ((recallAt h q).queueIn x).length ∧
      ((recallAt h q).queueIn x).length ≤ (h.queueIn x).length + 1 := by
  rcases recallAt_cases h q with e | ⟨y, -, -, e⟩
  · rw [e]; omega
  · rw [e, (recallEntry_serving h q y).queue_length (hs.onward (refiled_onward h q y))]
    exact refiled_queue h q y x

theorem Fewer.length_le (w : Fewer h g) : g.requests.length ≤ h.requests.length := by
  simpa using w.units.length_le

theorem recallAt_pool_le (h : Hall) (q : SlotRef) : (recallAt h q).requests.length ≤ h.requests.length + 1 := by
  rcases recallAt_cases h q with e | ⟨y, -, -, e⟩
  · rw [e]; omega
  · rw [e]
    exact (recallEntry_serving h q y).fewer.length_le.trans (refiled_pool h q y)

theorem recallAll_queue (l : List SlotRef) {h : Hall} (hs : h.shut i x) :
    (h.queueIn x).length ≤ ((l.foldl recallAt h).queueIn x).length ∧
      ((l.foldl recallAt h).queueIn x).length ≤ (h.queueIn x).length + l.length := by
  induction l generalizing h with
  | nil => exact ⟨le_rfl, le_rfl⟩
  | cons q l ih =>
    have step := recallAt_queue hs q
    have rest := ih (hs.onward (recallAt_onward h q))
    rw [List.foldl_cons, List.length_cons]
    omega

theorem recallAll_pool (l : List SlotRef) (h : Hall) :
    (l.foldl recallAt h).requests.length ≤ h.requests.length + l.length := by
  induction l generalizing h with
  | nil => exact le_rfl
  | cons q l ih =>
    have step := recallAt_pool_le h q
    have rest := ih (recallAt h q)
    rw [List.foldl_cons, List.length_cons]
    omega

end

/-! ## The unit recalled -/

/-- The floor order left for a unit when order `o` is given for it: a unit that is not PRESENT is given none (R55). -/
def orderGiven (h : Hall) (u : UnitId) (o : FloorOrder) : Option FloorOrder :=
  if (h.unit u).present then some o else (h.addr u).floorOrder

theorem giveFloor_addr (h : Hall) (u : UnitId) (o : FloorOrder) :
    (giveFloor h u o).addr u = { h.addr u with floorOrder := orderGiven h u o } := by
  unfold giveFloor orderGiven
  split <;> simp

theorem withdrawGrant_addr (h : Hall) (u : UnitId) : (withdrawGrant h u).addr u =
    { h.addr u with floorOrder := if h.grantPending u then none else (h.addr u).floorOrder } := by
  unfold withdrawGrant
  split <;> simp

theorem grantPending_of_floorOrder {g h : Hall} {u : UnitId} (e : (g.addr u).floorOrder = (h.addr u).floorOrder) :
    g.grantPending u = h.grantPending u := by
  simp only [Hall.grantPending, e]

section
variable (h : Hall) (q : SlotRef) (e : Entry) (u : UnitId)

theorem stopConfirm_dropEntry_addr :
    (stopConfirm (dropEntry h q e) u).addr u = { h.addr u with confirm := none } := by
  rw [stopConfirm, Hall.setAddr_addr, addr_of_addrs (dropEntry_addrs h q e)]

theorem stopConfirm_dropEntry_unit : (stopConfirm (dropEntry h q e) u).unit u = h.unit u :=
  unit_of_units (dropEntry_units h q e) u

end

section
variable {h : Hall} {q : SlotRef} {e : Entry} {u : UnitId} {rm : Room} (hu : holderOf q.trunk e = some u)
  (hroom : (h.roomOf e.seg).bind h.room = some rm)
include hu hroom

/-- A recalled unit waits again where its queue and the pool have space: what is filed, and the order left (R78). -/
theorem refiled_filed (hs : (h.queueIn rm.segs).length < rm.settings.queueLimit ∧ h.requests.length < Config.poolSize) :
    (refiled h q e).requests = h.requests ++ [refiledRequest h u rm e] ∧ (refiled h q e).unit u = h.unit u ∧
      (refiled h q e).addr u = { h.addr u with
        confirm := none, floorOrder := if h.grantPending u then none else orderGiven h u .release } := by
  let k : Hall :=
    { stopConfirm (dropEntry h q e) u with requests := (stopConfirm (dropEntry h q e) u).requests ++ [refiledRequest h u rm e] }
  have addr : k.addr u = { h.addr u with confirm := none } := stopConfirm_dropEntry_addr h q e u
  have unit : k.unit u = h.unit u := stopConfirm_dropEntry_unit h q e u
  have requests : k.requests = h.requests ++ [refiledRequest h u rm e] := by simp [k]
  have left : refiled h q e = if !h.grantPending u then giveFloor k u .release else withdrawGrant k u := by
    unfold refiled
    simp only [hu, hroom]
    exact if_pos (by simpa using hs)
  rw [left]
  cases hp : h.grantPending u with
  | true =>
    refine ⟨(withdrawGrant_requests _ _).trans requests, (unit_of_units (withdrawGrant_units _ _) u).trans unit,
      (withdrawGrant_addr k u).trans ?_⟩
    have pending : k.grantPending u = true :=
      (grantPending_of_floorOrder (by rw [addr])).trans hp
    simp [pending, addr]
  | false =>
    refine ⟨(giveFloor_requests _ _ _).trans requests, (giveFloor_unit _ _ _ _).trans unit,
      (giveFloor_addr k u _).trans ?_⟩
    simp [orderGiven, addr, unit]

/-- A recalled unit that has no space is denied or released (R78). -/
theorem refiled_denied
    (hs : ¬((h.queueIn rm.segs).length < rm.settings.queueLimit ∧ h.requests.length < Config.poolSize)) :
    (refiled h q e).requests = h.requests ∧ (refiled h q e).addr u = { h.addr u with
      confirm := none, floorOrder := orderGiven h u (if h.grantPending u then .deny else .release) } := by
  have left : refiled h q e =
      alignSeat (giveFloor (stopConfirm (dropEntry h q e) u) u (if !h.grantPending u then .release else .deny)) u := by
    unfold refiled
    simp only [hu, hroom]
    exact if_neg (by simpa using hs)
  have order : (if !h.grantPending u then FloorOrder.release else .deny) = if h.grantPending u then .deny else .release := by
    cases h.grantPending u <;> rfl
  rw [left, order]
  refine ⟨by simp, ?_⟩
  rw [alignSeat_addr, giveFloor_addr]
  simp [orderGiven, stopConfirm_dropEntry_addr, stopConfirm_dropEntry_unit]

end

/-! ## The recall of a unit of a frozen room -/

section
variable {h : Hall} {i : SegId} {rm : Room} {u : UnitId} {r : SlotRef} {e : Entry}

/-- A unit with one entry and no request, before its recall. -/
theorem soleEntry_bystander (x : SegSet) (hs : h.soleEntry u r e) :
    Bystander u x [r] (h.unit u) (h.addr u) none h := by
  obtain ⟨-, -, -, none, sole⟩ := hs
  refine ⟨fun q y hy hq => ?_, rfl, rfl, fun _ ho => (nomatch ho), fun _ q hq hu => ?_⟩
  · obtain ⟨trunk, unit⟩ := holderOf_eq_some.1 hq
    exact List.mem_singleton.2 (sole q y hy trunk unit)
  · have := List.find?_eq_none.1 none q hq
    simp [hu] at this

/-- What the recall of a unit's only entry leaves of it: no slot, and its request where there is space (R78). -/
theorem recallEntry_bystander {w : UnitRec} {a : AddrRec} (hs : h.shut i rm.segs) (hroom : h.roomOf e.seg = some i)
    (hr : h.room i = some rm) (hu : holderOf r.trunk e = some u) (seat : w.seat = some e.seg)
    (hin : inSet rm.segs e.seg = true) (b : Bystander u rm.segs [r] w a none h) :
    let space := (h.queueIn rm.segs).length < rm.settings.queueLimit ∧ h.requests.length < Config.poolSize
    (space → Bystander u rm.segs [] w
      { a with confirm := none, floorOrder := if h.grantPending u then none else orderGiven h u .release }
      (some (refiledRequest h u rm e)) (recallEntry h r e)) ∧
    (¬space → ∃ w', Bystander u rm.segs [] w'
      { a with confirm := none, floorOrder := orderGiven h u (if h.grantPending u then .deny else .release) }
      none (recallEntry h r e)) := by
  have found : (h.roomOf e.seg).bind h.room = some rm := by rw [hroom]; exact hr
  have vacant : ∀ q y, (refiled h r e).entry q = some y → holderOf q.trunk y = some u → q ∈ ([] : List SlotRef) := by
    intro q y hy hq
    rw [refiled_entry] at hy
    split at hy
    · cases hy
    · next hne => exact absurd (List.mem_singleton.1 (b.slots q y hy hq)) hne
  have shut := hs.onward (refiled_onward h r e)
  have serving := recallEntry_serving h r e
  refine ⟨fun space => ?_, fun space => ?_⟩
  · obtain ⟨requests, unit, addr⟩ := refiled_filed hu found space
    refine serving.bystander shut ⟨vacant, unit.trans b.unit, ?_, fun q ho => ?_, fun ho => by cases ho⟩
    · rw [addr, b.addr]
    · cases ho
      refine ⟨by rw [requests]; simp, rfl, ?_⟩
      exact seatedIn_iff.2 ⟨e.seg, by rw [unit, b.unit, seat], hin⟩
  · obtain ⟨requests, addr⟩ := refiled_denied hu found space
    refine ⟨(refiled h r e).unit u, serving.bystander shut ⟨vacant, rfl, ?_, fun _ ho => (nomatch ho), fun _ => ?_⟩⟩
    · rw [addr, b.addr]
    · rw [requests]
      exact b.idle rfl

/-- What the recall of a list of slots leaves of a unit of a frozen room whose only entry is GRANTED in one of them: its
slot holds at most a new grant; its request is filed where the queue and the pool have space for all, and it is
denied or released where the queue is at its limit (R35, R78). -/
structure Recalled (h g : Hall) (u : UnitId) (r : SlotRef) (e : Entry) (rm : Room) (n : Nat) (w : UnitRec) (a : AddrRec)
    (o : Option Request) : Prop where
  granted : g.atMostGranted r
  left    : Bystander u rm.segs [] w a o g
  confirm : a.confirm = none
  filed   : (h.queueIn rm.segs).length + n ≤ rm.settings.queueLimit → h.requests.length + n ≤ Config.poolSize →
    o = some (refiledRequest h u rm e) ∧ a.floorOrder = if h.grantPending u then none else orderGiven h u .release
  denied  : rm.settings.queueLimit ≤ (h.queueIn rm.segs).length →
    o = none ∧ a.floorOrder = orderGiven h u (if h.grantPending u then .deny else .release)

theorem orderGiven_congr {g : Hall} (unit : g.unit u = h.unit u) (addr : g.addr u = h.addr u) (o : FloorOrder) :
    orderGiven g u o = orderGiven h u o := by
  simp only [orderGiven, unit, addr]

theorem refiledRequest_congr {g : Hall} (unit : g.unit u = h.unit u) (addr : g.addr u = h.addr u) {rm' : Room}
    (settings : rm'.settings = rm.settings) : refiledRequest g u rm' e = refiledRequest h u rm e := by
  simp only [refiledRequest, unit, settings, grantPending_of_floorOrder (congrArg AddrRec.floorOrder addr)]

theorem recallAll_recalled {qs : List SlotRef} (hq : r ∈ qs) (hs : h.shut i rm.segs) (hr : h.room i = some rm)
    (sole : h.soleEntry u r e) (granted : e.state = .granted) (hin : inSet rm.segs e.seg = true)
    (seat : (h.unit u).seat = some e.seg) :
    ∃ w a o, Recalled h (qs.foldl recallAt h) u r e rm qs.length w a o := by
  obtain ⟨before, after, rfl, notBefore⟩ := List.eq_append_cons_of_mem hq
  have he := sole.1
  have hu : holderOf r.trunk e = some u := holderOf_eq_some.2 ⟨sole.2.1, sole.2.2.1⟩
  rw [List.foldl_append, List.foldl_cons]
  let k := before.foldl recallAt h
  have onward : Onward h k := recallAll_onward before h
  have entry : k.entry r = some e := (recallAll_touched before h).kept r e notBefore he
  have apart : ∀ q ∈ before, q ∉ [r] := fun q hq c => notBefore (List.mem_singleton.1 c ▸ hq)
  have by_k := recallAll_bystander before apart hs (soleEntry_bystander rm.segs sole)
  obtain ⟨rm', hr', segs, settings⟩ := room_of_core onward.core hr
  have shut : k.shut i rm'.segs := segs ▸ hs.onward onward
  have found : k.roomOf e.seg = some i := roomOf_of_apart shut.1 hr' (segs ▸ hin)
  have queue := recallAll_queue before hs
  have pool := recallAll_pool before h
  have unit : k.unit u = h.unit u := by_k.unit
  have addr : k.addr u = h.addr u := by_k.addr
  have pending : k.grantPending u = h.grantPending u :=
    grantPending_of_floorOrder (congrArg AddrRec.floorOrder addr)
  have recalled : recallAt k r = recallEntry k r e := by simp [recallAt, entry, granted]
  have gone : (recallEntry k r e).atMostGranted r := fun x hx => (recallEntry_entry k r e hx).1
  have step := recallEntry_bystander shut found hr' hu seat (segs ▸ hin) (segs ▸ by_k)
  rw [segs, settings] at step
  have later (w : UnitRec) (a : AddrRec) (o : Option Request) (b : Bystander u rm.segs [] w a o (recallEntry k r e)) :
      Bystander u rm.segs [] w a o (after.foldl recallAt (recallEntry k r e)) :=
    recallAll_bystander after (fun _ _ => List.not_mem_nil) (segs ▸ shut.onward (recallEntry_onward k r e)) b
  have goneLater := (recallAll_touched after _).atMostGranted gone
  simp only [orderGiven_congr unit addr, refiledRequest_congr unit addr settings, pending] at step
  change ∃ w a o, Recalled h (after.foldl recallAt (recallAt k r)) u r e rm (before ++ r :: after).length w a o
  rw [recalled, List.length_append, List.length_cons]
  change _ ≤ (k.queueIn rm.segs).length ∧ (k.queueIn rm.segs).length ≤ _ at queue
  change k.requests.length ≤ _ at pool
  by_cases space : (k.queueIn rm.segs).length < rm.settings.queueLimit ∧ k.requests.length < Config.poolSize
  · exact ⟨_, _, _, goneLater, later _ _ _ (step.1 space), rfl, fun _ _ => ⟨rfl, rfl⟩, fun full => by omega⟩
  · obtain ⟨w', left⟩ := step.2 space
    exact ⟨_, _, _, goneLater, later _ _ _ left, rfl, fun hq hp => absurd ⟨by omega, by omega⟩ space,
      fun _ => ⟨rfl, rfl⟩⟩

end

end Sys2Proof.Machine
end

section
/-! The trimming of the pending rooms (R36), and the beginning of DRAIN (R35 to R37). -/

namespace Sys2Proof.Machine

/-! ## Frozen rooms -/

section
variable {h : Hall}

theorem mem_roomIds {i : SegId} : i ∈ h.roomIds ↔ ∃ r, h.room i = some r := by
  simp [Hall.roomIds, allSegIds, Option.isSome_iff_exists]

theorem frozen_iff {i : SegId} : h.frozen i = true ↔ ∃ r, h.room i = some r ∧ r.frozen = true := by
  unfold Hall.frozen
  cases h.room i <;> simp

theorem mem_frozenRooms {i : SegId} : i ∈ h.frozenRooms ↔ ∃ r, h.room i = some r ∧ r.frozen = true := by
  rw [Hall.frozenRooms, List.mem_filter, frozen_iff, mem_roomIds]
  constructor
  · exact And.right
  · rintro ⟨r, hr, hf⟩
    exact ⟨⟨r, hr⟩, r, hr, hf⟩

theorem frozenRooms_pairwise : h.frozenRooms.Pairwise (· < ·) :=
  ((List.pairwise_lt_finRange 8).filter _).filter _

theorem mem_speaking {i : SegId} {r : Room} (hr : h.room i = some r) {q : SlotRef} {e : Entry} :
    (q, e) ∈ h.speaking i ↔ h.entry q = some e ∧ inSet r.segs e.seg = true := by
  rw [Hall.speaking, segsOf_room hr, mem_entriesIn]

theorem mem_grantedInFrozen {q : SlotRef} : q ∈ grantedInFrozen h ↔ ∃ i r e, h.room i = some r ∧ r.frozen = true ∧
    h.entry q = some e ∧ inSet r.segs e.seg = true ∧ e.state = .granted := by
  simp only [grantedInFrozen, List.mem_flatMap, mem_frozenRooms, List.mem_map, List.mem_filter, decide_eq_true_eq]
  constructor
  · rintro ⟨i, ⟨r, hr, hf⟩, ⟨b, e⟩, ⟨hb, hs⟩, rfl⟩
    obtain ⟨he, hin⟩ := (mem_speaking hr).1 hb
    exact ⟨i, r, e, hr, hf, he, hin, hs⟩
  · rintro ⟨i, r, e, hr, hf, he, hin, hs⟩
    exact ⟨i, ⟨r, hr, hf⟩, (q, e), ⟨(mem_speaking hr).2 ⟨he, hin⟩, hs⟩, rfl⟩

end

/-! ## Closings -/

/-- From `h` to `g` entries on air have been sent to CLOSING, with the warnings of their units taken back. -/
structure Closings (h g : Hall) : Prop where
  onward   : Onward h g
  requests : g.requests = h.requests
  orders   : ∀ u, (g.addr u).floorOrder = (h.addr u).floorOrder
  confirms : ∀ u, (g.addr u).confirm = (h.addr u).confirm
  entry    : ∀ q, g.entry q = h.entry q ∨ ∃ e, h.entry q = some e ∧ e.onAir = true ∧ g.entry q = some e.closed

namespace Closings

theorem refl (h : Hall) : Closings h h := ⟨.refl h, rfl, fun _ => rfl, fun _ => rfl, fun _ => .inl rfl⟩

theorem trans {f g h : Hall} (a : Closings f g) (b : Closings g h) : Closings f h := by
  refine ⟨a.onward.trans b.onward, b.requests.trans a.requests, fun u => (b.orders u).trans (a.orders u),
    fun u => (b.confirms u).trans (a.confirms u), fun q => ?_⟩
  rcases a.entry q with ha | ⟨e, he, ho, ha⟩
  · rw [← ha]
    exact b.entry q
  · rcases b.entry q with hb | ⟨e', he', ho', -⟩
    · exact .inr ⟨e, he, ho, hb.trans ha⟩
    · cases ha.symm.trans he'
      rw [Entry.closed_onAir] at ho'
      cases ho'

theorem fold {γ : Type} {f : Hall → γ → Hall} (hf : ∀ g c, Closings g (f g c)) (l : List γ) (h : Hall) :
    Closings h (l.foldl f h) :=
  foldl_keeps (P := Closings h) (fun _ c w => w.trans (hf _ c)) l h (refl h)

end Closings

section
variable (h : Hall)

theorem giveNotice_orders (u v : UnitId) (n : Notice) : ((giveNotice h u n).addr v).floorOrder = (h.addr v).floorOrder ∧
    ((giveNotice h u n).addr v).confirm = (h.addr v).confirm := by
  unfold giveNotice
  split
  · by_cases huv : u = v
    · subst huv
      simp
    · rw [Hall.setAddr_addr_ne _ _ huv]
      exact ⟨rfl, rfl⟩
  · exact ⟨rfl, rfl⟩

theorem clearWarn_orders (u v : UnitId) : ((clearWarn h u).addr v).floorOrder = (h.addr v).floorOrder ∧
    ((clearWarn h u).addr v).confirm = (h.addr v).confirm := by
  unfold clearWarn
  split
  · rw [Hall.setUnit_addr]
    exact giveNotice_orders h u v _
  · exact ⟨rfl, rfl⟩

theorem closeEntry_orders (q : SlotRef) (v : UnitId) : ((closeEntry h q).addr v).floorOrder = (h.addr v).floorOrder ∧
    ((closeEntry h q).addr v).confirm = (h.addr v).confirm := by
  by_cases ho : ∃ e, h.entry q = some e ∧ e.onAir = true
  · obtain ⟨e, he, ho⟩ := ho
    rw [closeEntry_onAir h he ho, closedPools, addr_of_addrs (raiseAt_addrs _ _ _)]
    cases holderOf q.trunk e with
    | none => simp only [Hall.setEntry_addr, and_self]
    | some u => simpa only [Hall.setEntry_addr, Entry.closed] using clearWarn_orders (h.setEntry q (some e.closed)) u v
  · rw [closeEntry_offAir h fun e he => by simpa using fun c => ho ⟨e, he, c⟩]
    exact ⟨rfl, rfl⟩

theorem closeEntry_closings (q : SlotRef) : Closings h (closeEntry h q) := by
  refine ⟨closeEntry_onward h q, closeEntry_requests h q, fun u => (closeEntry_orders h q u).1,
    fun u => (closeEntry_orders h q u).2, fun b => ?_⟩
  by_cases ho : ∃ e, h.entry q = some e ∧ e.onAir = true
  · obtain ⟨e, he, ho⟩ := ho
    rw [closeEntry_entry h q e he ho b]
    split
    · next hb => exact .inr ⟨e, hb ▸ he, ho, rfl⟩
    · exact .inl rfl
  · rw [closeEntry_offAir h fun e he => by simpa using fun c => ho ⟨e, he, c⟩]
    exact .inl rfl

theorem trimTo_closings (x : SegSet) (n : Nat) : Closings h (trimTo h x n) := .fold closeEntry_closings _ h

/-- The trimming of one pending room to its inherited limit. -/
def trimPendingRoom (sc : Scanner) (h : Hall) (m : MapRoom) : Hall := trimTo h m.segs (inheritedLimit sc h m)

theorem trimPendingRoom_closings (sc : Scanner) (m : MapRoom) : Closings h (trimPendingRoom sc h m) :=
  trimTo_closings h m.segs _

/-- The pending rooms made of affected segments. -/
def Regroup.affectedRooms (rg : Regroup) : List MapRoom := rg.pendingMap.filter fun m => (m.segs &&& rg.affected) ≠ 0

theorem trimPending_eq (sc : Scanner) (rg : Regroup) :
    trimPending sc rg h = rg.affectedRooms.foldl (trimPendingRoom sc) h := rfl

theorem trimAll_closings (sc : Scanner) (ms : List MapRoom) : Closings h (ms.foldl (trimPendingRoom sc) h) :=
  .fold (fun g => trimPendingRoom_closings g sc) ms h

end

/-! ## Trimming (R36) -/

section
variable {h : Hall} {x : SegSet} {q : SlotRef}

theorem mem_openIn : q ∈ openIn h x ↔ ∃ e, h.entry q = some e ∧ inSet x e.seg = true ∧ e.chair = false ∧ e.onAir = true := by
  simp only [openIn, List.mem_map, List.mem_filter, Bool.and_eq_true, Bool.not_eq_true']
  constructor
  · rintro ⟨⟨b, e⟩, ⟨hb, hc⟩, rfl⟩
    obtain ⟨he, hin⟩ := mem_entriesIn.1 hb
    exact ⟨e, he, hin, hc⟩
  · rintro ⟨e, he, hin, hc⟩
    exact ⟨(q, e), ⟨mem_entriesIn.2 ⟨he, hin⟩, hc⟩, rfl⟩

theorem openIn_nodup : (openIn h x).Nodup := entriesIn_nodup.sublist (List.filter_sublist.map _)

theorem openIn_pairwise {base : Stamp} (hb : ∀ q e, h.entry q = some e → (e.grantStamp - base).toNat < 2 ^ 31) :
    (openIn h x).Pairwise fun a b => ∀ ea eb, h.entry a = some ea → h.entry b = some eb →
      (ea.grantStamp - base).toNat ≤ (eb.grantStamp - base).toNat := by
  refine List.pairwise_map.2 (((entriesIn_pairwise hb).filter _).imp_of_mem fun {a b} ha hb' hle ea eb hea heb => ?_)
  obtain ⟨ha, -⟩ := mem_entriesIn.1 (List.mem_of_mem_filter ha)
  obtain ⟨hb', -⟩ := mem_entriesIn.1 (List.mem_of_mem_filter hb')
  cases ha.symm.trans hea
  cases hb'.symm.trans heb
  exact hle

/-- Closing the slots of a list leaves their entries closed and every other slot as it was. -/
theorem closeAll_entry {l : List SlotRef} (hd : l.Nodup) (ho : ∀ b ∈ l, ∃ e, h.entry b = some e ∧ e.onAir = true) :
    (l.foldl closeEntry h).entry q = if q ∈ l then (h.entry q).map Entry.closed else h.entry q := by
  induction l generalizing h with
  | nil => simp
  | cons b l ih =>
    obtain ⟨hb, hd⟩ := List.nodup_cons.1 hd
    obtain ⟨e, he, hair⟩ := ho b (.head l)
    have step (c : SlotRef) : (closeEntry h b).entry c = if c = b then some e.closed else h.entry c :=
      closeEntry_entry h b e he hair c
    have rest : ∀ c ∈ l, ∃ e, (closeEntry h b).entry c = some e ∧ e.onAir = true := fun c hc => by
      rw [step, if_neg (ne_of_mem_of_not_mem hc hb)]
      exact ho c (.tail b hc)
    rw [List.foldl_cons, ih hd rest, step]
    by_cases hq : q = b
    · subst hq
      simp [hb, he]
    · simp [hq]

/-- The entries that trimming to a limit sends to CLOSING: all but the newest. -/
def trimRefs (h : Hall) (x : SegSet) (n : Nat) : List SlotRef := (openIn h x).take ((openIn h x).length - n)

theorem trimTo_entry (n : Nat) : (trimTo h x n).entry q =
    if q ∈ trimRefs h x n then (h.entry q).map Entry.closed else h.entry q := by
  refine closeAll_entry (openIn_nodup.sublist (List.take_sublist _ _)) fun b hb => ?_
  obtain ⟨e, he, -, -, ho⟩ := mem_openIn.1 (List.mem_of_mem_take hb)
  exact ⟨e, he, ho⟩

/-- Trimming leaves an entry filed elsewhere, a chair's and one that is not on air. -/
theorem trimTo_other {n : Nat} {e : Entry} (he : h.entry q = some e)
    (hx : inSet x e.seg = false ∨ e.chair = true ∨ e.onAir = false) : (trimTo h x n).entry q = some e := by
  rw [trimTo_entry, if_neg, he]
  intro c
  obtain ⟨y, hy, hin, hchair, hair⟩ := mem_openIn.1 (List.mem_of_mem_take c)
  cases he.symm.trans hy
  simp [hin, hchair, hair] at hx

/-- Trimming one room leaves what is filed in segments that it does not have. -/
theorem trimTo_filed {n : Nat} {y : SegSet} (hxy : (x &&& y) = 0) : (trimTo h x n).filed y q = h.filed y q := by
  have disjoint (sg : SegId) (hx : inSet x sg = true) : inSet y sg = false := by
    have := inSet_and x y sg
    rw [hxy, hx] at this
    simpa [inSet] using this.symm
  simp only [Hall.filed, trimTo_entry]
  by_cases hq : q ∈ trimRefs h x n
  · obtain ⟨e, he, hin, -⟩ := mem_openIn.1 (List.mem_of_mem_take hq)
    have : inSet y e.closed.seg = false := disjoint e.seg hin
    simp [hq, he, this, disjoint e.seg hin]
  · simp only [if_neg hq]

/-- What is filed in segments stays in its slot where the slots file the same there. -/
theorem entry_of_filed {g : Hall} (w : g.filed x q = h.filed x q) {e : Entry} (he : h.entry q = some e)
    (hin : inSet x e.seg = true) : g.entry q = some e :=
  (filed_eq_some.1 (w.trans (filed_eq_some.2 ⟨rfl, he, hin⟩ : h.filed x q = some (q, e)))).2.1

theorem openIn_congr {g : Hall} (w : ∀ q, g.filed x q = h.filed x q) : openIn g x = openIn h x := by
  simp only [openIn, entriesIn_congr w]

theorem trimAll_filed {sc : Scanner} {ms : List MapRoom} (hd : ∀ m ∈ ms, (m.segs &&& x) = 0) :
    (ms.foldl (trimPendingRoom sc) h).filed x q = h.filed x q := by
  induction ms generalizing h with
  | nil => rfl
  | cons m ms ih =>
    rw [List.foldl_cons, ih fun m' hm => hd m' (.tail m hm)]
    exact trimTo_filed (hd m (.head ms))

theorem trimAll_other {sc : Scanner} {ms : List MapRoom} {e : Entry} (he : h.entry q = some e)
    (hx : ∀ m ∈ ms, inSet m.segs e.seg = false ∨ e.chair = true ∨ e.onAir = false) :
    (ms.foldl (trimPendingRoom sc) h).entry q = some e := by
  induction ms generalizing h with
  | nil => exact he
  | cons m ms ih =>
    exact ih (trimTo_other he (hx m (.head ms))) fun m' hm => hx m' (.tail m hm)

end

/-! ### The inherited limit -/

section
variable {h : Hall} {sc : Scanner} {m : MapRoom}

/-- The room led by the lead of a pending room: the one it continues (R36). -/
theorem continued_eq (h : Hall) (m : MapRoom) : (allSegIds.filterMap h.room).find? (fun r => decide (r.lead = m.lead)) =
    (allSegIds.find? fun i => ((h.room i).map (·.lead)).any fun l => decide (l = m.lead)).bind h.room := by
  rw [List.find?_filterMap]
  congr 2
  funext i
  cases h.room i <;> rfl

theorem inheritedLimit_of_core {g h : Hall} (e : g.core = h.core) (sc : Scanner) (m : MapRoom) :
    inheritedLimit sc g m = inheritedLimit sc h m := by
  have leads (i : SegId) : (g.room i).map (·.lead) = (h.room i).map (·.lead) := by
    have := congrArg (Option.map (·.2.1)) (core_room e i)
    rw [Option.map_map, Option.map_map] at this
    exact this
  unfold inheritedLimit
  rw [continued_eq, continued_eq]
  simp only [leads]
  cases allSegIds.find? fun i => ((h.room i).map (·.lead)).any fun l => decide (l = m.lead) with
  | none => rfl
  | some i =>
    have settings := congrArg (Option.map (·.2.2.2.1)) (core_room e i)
    rw [Option.map_map, Option.map_map] at settings
    simp only [Option.bind_some]
    cases hg : g.room i <;> cases hh : h.room i <;> rw [hg, hh] at settings
    · simp at settings
    · simp at settings
    · exact congrArg Settings.openLimit (Option.some.inj settings)

/-- A pending room inherits the open limit of the one active room with its lead (R36). -/
theorem inheritedLimit_continued {i : SegId} {r : Room} (hr : h.room i = some r) (hl : r.lead = m.lead)
    (one : ∀ j r', h.room j = some r' → r'.lead = m.lead → j = i) : inheritedLimit sc h m = r.settings.openLimit := by
  unfold inheritedLimit
  cases found : (allSegIds.filterMap h.room).find? fun r => decide (r.lead = m.lead) with
  | none =>
    have := List.find?_eq_none.1 found r (List.mem_filterMap.2 ⟨i, List.mem_finRange i, hr⟩)
    simp [hl] at this
  | some r' =>
    obtain ⟨j, -, hj⟩ := List.mem_filterMap.1 (List.mem_of_find?_eq_some found)
    obtain rfl := one j r' hj (by simpa using List.find?_some found)
    cases hr.symm.trans hj
    rfl

/-- Without an active room with its lead a pending room inherits the lead's default (R36). -/
theorem inheritedLimit_fresh (no : ∀ i r, h.room i = some r → r.lead ≠ m.lead) :
    inheritedLimit sc h m = (sc.defaults[m.lead]).settings.openLimit := by
  unfold inheritedLimit
  rw [List.find?_eq_none.2 fun r hr => ?_]
  obtain ⟨i, -, hi⟩ := List.mem_filterMap.1 hr
  simpa using no i r hi

end

/-- What trimming leaves of the entries in OPENING or OPEN of one pending room that is apart from the others (R36). -/
theorem trimAll_room {h : Hall} {sc : Scanner} {ms : List MapRoom} {m : MapRoom} (hm : m ∈ ms) (hd : ms.Nodup)
    (apart : ∀ m' ∈ ms, m' ≠ m → (m'.segs &&& m.segs) = 0) {q : SlotRef} (hq : q ∈ openIn h m.segs) :
    (ms.foldl (trimPendingRoom sc) h).entry q =
      if q ∈ trimRefs h m.segs (inheritedLimit sc h m) then (h.entry q).map Entry.closed else h.entry q := by
  obtain ⟨before, after, rfl⟩ := List.append_of_mem hm
  obtain ⟨hm', -⟩ := List.nodup_cons.1 (List.nodup_middle.1 hd)
  rw [List.mem_append, not_or] at hm'
  have clear (l : List MapRoom) (hl : l ⊆ before ++ m :: after) (hml : m ∉ l) : ∀ m' ∈ l, (m'.segs &&& m.segs) = 0 :=
    fun m' h' => apart m' (hl h') (ne_of_mem_of_not_mem h' hml)
  have first (b : SlotRef) : (before.foldl (trimPendingRoom sc) h).filed m.segs b = h.filed m.segs b :=
    trimAll_filed (clear before (List.subset_append_left _ _) hm'.1)
  have limit : inheritedLimit sc (before.foldl (trimPendingRoom sc) h) m = inheritedLimit sc h m :=
    inheritedLimit_of_core (trimAll_closings h sc before).onward.core sc m
  obtain ⟨e, he, hin, -⟩ := mem_openIn.1 hq
  have kept := entry_of_filed (first q) he hin
  have trimmed : (trimPendingRoom sc (before.foldl (trimPendingRoom sc) h) m).entry q =
      if q ∈ trimRefs h m.segs (inheritedLimit sc h m) then some e.closed else some e := by
    rw [trimPendingRoom, trimTo_entry, limit, kept, trimRefs, openIn_congr first]
    rfl
  have last (y : Entry) (hy : (trimPendingRoom sc (before.foldl (trimPendingRoom sc) h) m).entry q = some y)
      (hs : inSet m.segs y.seg = true) : ((before ++ m :: after).foldl (trimPendingRoom sc) h).entry q = some y := by
    rw [List.foldl_append, List.foldl_cons]
    exact entry_of_filed (trimAll_filed (clear after (fun _ h' => List.mem_append_right _ (.tail m h')) hm'.2)) hy hs
  rw [he]
  split
  · next hc => exact last e.closed (by rw [trimmed, if_pos hc]) hin
  · next hc => exact last e (by rw [trimmed, if_neg hc]) hin

/-! ## DRAIN begins -/

theorem recallAt_entry_iff (h : Hall) (r : SlotRef) {q : SlotRef} {e : Entry} (hs : e.state ≠ .granted) :
    (recallAt h r).entry q = some e ↔ h.entry q = some e := by
  rcases recallAt_cases h r with x | ⟨y, hy, hg, x⟩
  · rw [x]
  · rw [x, (recallEntry_serving h r y).filled.entry_iff hs, refiled_entry]
    split
    · next hq =>
      subst hq
      rw [hy]
      refine iff_of_false (by simp) fun c => ?_
      cases c
      exact hs hg
    · rfl

theorem recallAll_entry_iff (l : List SlotRef) (h : Hall) {q : SlotRef} {e : Entry} (hs : e.state ≠ .granted) :
    (l.foldl recallAt h).entry q = some e ↔ h.entry q = some e := by
  induction l generalizing h with
  | nil => rfl
  | cons r l ih => exact (ih _).trans (recallAt_entry_iff h r hs)

/-- The hall after the recall that begins DRAIN (R35). -/
def recalledHall (h : Hall) : Hall := (grantedInFrozen h).foldl recallAt (raise .regroup allSegs h)

/-- The hall after the recall and the trimming that begin DRAIN (R35, R36). -/
def drainedHall (sc : Scanner) (rg : Regroup) (h : Hall) : Hall :=
  rg.affectedRooms.foldl (trimPendingRoom sc) (recalledHall h)

theorem enterDrain_eq (s : State) : enterDrain s = drainTest
    { s with regroup := { s.regroup with state := .drain }, hall := drainedHall s.scanner s.regroup s.hall } := rfl

section
variable {h : Hall} {sc : Scanner} {rg : Regroup}

theorem recalledHall_onward (h : Hall) : Onward (raise .regroup allSegs h) (recalledHall h) := recallAll_onward _ _

theorem drainedHall_closings (sc : Scanner) (rg : Regroup) (h : Hall) :
    Closings (recalledHall h) (drainedHall sc rg h) := trimAll_closings _ sc _

theorem drainedHall_onward (sc : Scanner) (rg : Regroup) (h : Hall) :
    Onward (raise .regroup allSegs h) (drainedHall sc rg h) :=
  (recalledHall_onward h).trans (drainedHall_closings sc rg h).onward

theorem drainedHall_core (sc : Scanner) (rg : Regroup) (h : Hall) : (drainedHall sc rg h).core = h.core :=
  (drainedHall_onward sc rg h).core.trans (raise_core h _ _)

theorem recalledHall_entry_iff {q : SlotRef} {e : Entry} (hs : e.state ≠ .granted) :
    (recalledHall h).entry q = some e ↔ h.entry q = some e := recallAll_entry_iff _ _ hs

theorem onAir_not_granted {e : Entry} (ho : e.onAir = true) : e.state ≠ .granted := fun c => by
  rw [Entry.onAir_granted c] at ho
  cases ho

theorem mem_openIn_recalled {x : SegSet} {q : SlotRef} : q ∈ openIn (recalledHall h) x ↔
    ∃ e, h.entry q = some e ∧ inSet x e.seg = true ∧ e.chair = false ∧ e.onAir = true := by
  rw [mem_openIn]
  refine exists_congr fun e => and_congr_left fun ⟨_, _, ho⟩ => recalledHall_entry_iff (onAir_not_granted ho)

end

end Sys2Proof.Machine
end

section
/-! DRAIN has begun where it is entered, as `State.drainBegun` says (R33 to R37). -/

namespace Sys2Proof.Machine

section
variable {s t : State}

/-- The recall at the beginning of DRAIN does to the units of frozen rooms what R78 says. -/
theorem recalls_of_closings (w : Closings (recalledHall s.hall) t.hall) : s.recalls t := by
  intro i rm u r e hr hf apart sole granted hin seat undelivered given n
  have hq : r ∈ grantedInFrozen s.hall := mem_grantedInFrozen.2 ⟨i, rm, e, hr, hf, sole.1, hin, granted⟩
  obtain ⟨wu, a, o, gone, left, confirm, filed, denied⟩ := recallAll_recalled (h := raise .regroup allSegs s.hall)
    hq ⟨apart, rm, hr, hf, rfl⟩ hr sole granted hin seat
  have order : (t.hall.addr u).floorOrder = a.floorOrder := (w.orders u).trans (congrArg AddrRec.floorOrder left.addr)
  refine ⟨fun x hx => ?_, (w.confirms u).trans ((congrArg AddrRec.confirm left.addr).trans confirm),
    fun queue pool => ?_, fun full => ?_⟩
  · rcases w.entry r with same | ⟨y, hy, ho, -⟩
    · have hx' : (recalledHall s.hall).entry r = some x := same.symm.trans hx
      refine ⟨gone x hx', fun c => ?_⟩
      cases left.slots r x hx' (holderOf_eq_some.2 ⟨sole.2.1, c⟩)
    · rw [Entry.onAir_granted (gone y hy)] at ho
      cases ho
  · rw [queue_room hr] at queue
    obtain ⟨ho, ha⟩ := filed queue pool
    exact ⟨w.requests ▸ (left.filed _ ho).1, order.trans ha⟩
  · rw [queue_room hr] at full
    obtain ⟨ho, ha⟩ := denied full
    refine ⟨List.find?_eq_none.2 fun q hq => ?_, order.trans ha⟩
    simpa using left.idle ho q (w.requests ▸ hq)

theorem mem_affectedRooms {rg : Regroup} {m : MapRoom} :
    m ∈ rg.affectedRooms ↔ m ∈ rg.pendingMap ∧ (m.segs &&& rg.affected) ≠ 0 := by
  simp [Regroup.affectedRooms]

/-- The trimming at the beginning of DRAIN leaves the entries on air as R36 says. -/
theorem trims_of_drained (nodup : s.regroup.pendingMap.Nodup) (e : t.hall = drainedHall s.scanner s.regroup s.hall) :
    s.trims t := by
  have entry (q : SlotRef) (x : Entry) (ho : x.onAir = true) : (recalledHall s.hall).entry q = some x ↔
      s.hall.entry q = some x := recalledHall_entry_iff (onAir_not_granted ho)
  refine ⟨recalledHall s.hall, entry, fun x q => mem_openIn_recalled, fun x base near => openIn_pairwise near,
    fun m hm hx apart => ?_, fun q x he hs hx => ?_⟩
  · intro refs limit
    have limit_eq : inheritedLimit s.scanner (recalledHall s.hall) m = limit :=
      inheritedLimit_of_core ((recalledHall_onward s.hall).core.trans (raise_core _ _ _)) _ _
    have left {q : SlotRef} (hq : q ∈ refs) : t.hall.entry q =
        if q ∈ refs.take (refs.length - limit) then (s.hall.entry q).map Entry.closed else s.hall.entry q := by
      obtain ⟨x, hx', -, -, ho⟩ := mem_openIn.1 hq
      have same : (recalledHall s.hall).entry q = s.hall.entry q := hx'.trans ((entry q x ho).1 hx').symm
      rw [e, drainedHall, trimAll_room (mem_affectedRooms.2 ⟨hm, hx⟩) (nodup.filter _)
        (fun m' hm' => apart m' (mem_affectedRooms.1 hm').1) hq, limit_eq, same]
      rfl
    have disjoint : List.Disjoint (refs.take (refs.length - limit)) (refs.drop (refs.length - limit)) :=
      List.disjoint_take_drop openIn_nodup le_rfl
    refine ⟨fun i r hr hl one => inheritedLimit_continued hr hl one, inheritedLimit_fresh, fun q hq => ?_, fun q hq => ?_⟩
    · rw [left (List.mem_of_mem_take hq), if_pos hq]
    · rw [left (List.mem_of_mem_drop hq), if_neg fun c => disjoint c hq]
  · rw [e]
    refine trimAll_other ((recalledHall_entry_iff hs).2 he) fun m hm => ?_
    rcases hx with chair | closing | elsewhere
    · exact .inr (.inl chair)
    · exact .inr (.inr (by simp [Entry.onAir, closing]))
    · obtain ⟨hm, hx⟩ := mem_affectedRooms.1 hm
      exact .inl (elsewhere m hm hx)

/-- Every port that is in use takes a REGROUP event (R182). -/
theorem portTakes_regroup {p : Port} (h : p.role ≠ .unused) (x : SegSet) : portTakes p .regroup x = true := by
  unfold portTakes
  cases hr : p.role <;> simp_all

theorem drainTest_regroup (hs : s.regroup.state = .drain) : drainTest s = { s with regroup :=
    { s.regroup with state := if closingInFrozen s.hall then .drain else .commitWait } } := by
  unfold drainTest
  cases closingInFrozen s.hall
  · simp [hs]
  · simp [← hs]

/-- DRAIN has begun where it is entered with the consent set and the deadline cleared. -/
theorem enterDrain_begun (nodup : s.regroup.pendingMap.Nodup) (silent : List PortId) :
    s.drainBegun (enterDrain { s with regroup := { s.regroup with consent := [], deadline := none, silent := silent } })
      silent := by
  have left : enterDrain { s with regroup := { s.regroup with consent := [], deadline := none, silent := silent } } =
      { s with
        hall := drainedHall s.scanner s.regroup s.hall,
        regroup := { s.regroup with
          state := if closingInFrozen (drainedHall s.scanner s.regroup s.hall) then .drain else .commitWait,
          consent := [], deadline := none, silent := silent } } :=
    drainTest_regroup (s := { s with
      regroup := { s.regroup with consent := [], deadline := none, silent := silent, state := .drain },
      hall := drainedHall s.scanner s.regroup s.hall }) rfl
  rw [left]
  have onward := drainedHall_onward s.scanner s.regroup s.hall
  refine ⟨rfl, drainedHall_core _ _ _, rfl, rfl, rfl, rfl, fun p hrole hmask => ?_,
    recalls_of_closings (drainedHall_closings _ _ _), trims_of_drained nodup rfl⟩
  have core := core_port (drainedHall_core s.scanner s.regroup s.hall) p
  simp only [Port.core, Prod.mk.injEq] at core
  obtain ⟨role, -, -, -, mask, -⟩ := core
  refine onward.told (raise_told s.hall .regroup allSegs) p (portTakes_regroup ?_ _) ?_
  · rwa [role]
  · rwa [mask]

end

end Sys2Proof.Machine
end

section
/-! Maps (R21, R22, R26): the computed map divides the segments as passable walls join them; maps that divide the
segments are compared by their sets. -/

namespace Sys2Proof.Machine

/-! ## Sets of segments -/

theorem inSet_or (x y : SegSet) (sg : SegId) : inSet (x ||| y) sg = (inSet x sg || inSet y sg) := BitVec.getLsbD_or

theorem inSet_zero (sg : SegId) : inSet 0 sg = false := BitVec.getLsbD_zero

theorem segSet_ext {x y : SegSet} (h : ∀ sg, inSet x sg = inSet y sg) : x = y :=
  BitVec.eq_of_getLsbD_eq fun i hi => h ⟨i, hi⟩

/-- Two sets of segments meet where they have a segment in common. -/
theorem and_ne_zero_iff {x y : SegSet} : (x &&& y) ≠ 0 ↔ ∃ sg, inSet x sg = true ∧ inSet y sg = true := by
  constructor
  · intro h
    by_contra c
    refine h (segSet_ext fun sg => ?_)
    rw [inSet_and, inSet_zero, ← Bool.not_eq_true, Bool.and_eq_true]
    exact fun both => c ⟨sg, both⟩
  · rintro ⟨sg, hx, hy⟩ h
    have := inSet_and x y sg
    rw [h, hx, hy, inSet_zero] at this
    cases this

theorem inSet_setWhere (f : SegId → Bool) (sg : SegId) : inSet (setWhere f) sg = f sg := by
  have fold (l : List SegId) (x : SegSet) : inSet (l.foldl (fun x s => if f s then x ||| setOf s else x) x) sg =
      (inSet x sg || (decide (sg ∈ l) && f sg)) := by
    induction l generalizing x with
    | nil => simp
    | cons s l ih =>
      rw [List.foldl_cons, ih]
      by_cases hs : sg = s
      · subst hs
        cases f sg <;> simp [inSet_or, inSet_setOf]
      · cases f s <;> simp [inSet_or, inSet_setOf, hs]
  rw [setWhere, fold, inSet_zero]
  simp [allSegIds]

theorem mem_affectedSet (m m' : List MapRoom) (sg : SegId) :
    inSet (affectedSet m m') sg = true ↔ companions m sg ≠ companions m' sg := by
  rw [affectedSet, inSet_setWhere, decide_eq_true_eq]

theorem mem_consolesOf (h : Hall) (x : SegSet) (p : PortId) : p ∈ consolesOf h x ↔
    ((h.ports[p]).role = .console ∧ ∃ sg, inSet x sg = true ∧ inSet (h.ports[p]).scope sg = true) := by
  simp only [consolesOf, List.mem_filter, List.mem_finRange, true_and, Bool.and_eq_true, decide_eq_true_eq,
    and_ne_zero_iff, and_comm (a := inSet x _ = true)]

/-! ## Maps that divide the segments -/

/-- Rooms of a map that divides the segments are the same where they have a segment in common. -/
theorem divides_unique {m : List MapRoom} (hm : dividesSegs m) {y z : MapRoom} (hy : y ∈ m) (hz : z ∈ m) {sg : SegId}
    (hsy : inSet y.segs sg = true) (hsz : inSet z.segs sg = true) : y = z := by
  have symm : Std.Symm fun y z : MapRoom => (y.segs &&& z.segs) = 0 := ⟨fun y z h => by rwa [BitVec.and_comm]⟩
  by_contra c
  exact and_ne_zero_iff.2 ⟨sg, hsy, hsz⟩ ((hm.2.2.imp And.right).forall hy hz c)

theorem companions_of_divides {m : List MapRoom} (hm : dividesSegs m) {y : MapRoom} (hy : y ∈ m) {sg : SegId}
    (hs : inSet y.segs sg = true) : companions m sg = y.segs := by
  unfold companions
  cases found : m.find? fun r => inSet r.segs sg with
  | none => exact absurd hs (List.find?_eq_none.1 found y hy)
  | some z => 
    have hz : inSet z.segs sg = true := List.find?_some (p := fun r : MapRoom => inSet r.segs sg) found
    rw [divides_unique hm (List.mem_of_find?_eq_some found) hy hz hs]

/-- The sets of a map with the ids of their rooms. -/
def idSets (m : List MapRoom) : List (SegId × SegSet) := m.map fun y => (y.id, y.segs)

theorem idSets_pairwise {m : List MapRoom} (hm : dividesSegs m) : (idSets m).Pairwise fun a b => a.1 < b.1 :=
  List.pairwise_map.2 (hm.2.2.imp And.left)

/-- Where two maps divide the segments into the same sets, the rooms of the one have the ids of the other: the lowest
segments (R22). -/
theorem idSets_subset {m m' : List MapRoom} (hm : dividesSegs m) (hm' : dividesSegs m')
    (same : ∀ y, (∃ a ∈ m, a.segs = y) → ∃ b ∈ m', b.segs = y) : idSets m ⊆ idSets m' := by
  intro p hp
  obtain ⟨a, ha, rfl⟩ := List.mem_map.1 hp
  obtain ⟨b, hb, hs⟩ := same a.segs ⟨a, ha, rfl⟩
  obtain ⟨ida, -, lowa⟩ := hm.2.1 a ha
  obtain ⟨idb, -, lowb⟩ := hm'.2.1 b hb
  have hid : a.id = b.id := le_antisymm (lowa b.id (hs ▸ idb)) (lowb a.id (hs ▸ ida))
  exact List.mem_map.2 ⟨b, hb, by rw [hid, hs]⟩

theorem sameMap_iff (m m' : List MapRoom) : sameMap m m' = true ↔ m.map (·.segs) = m'.map (·.segs) :=
  decide_eq_true_iff

theorem sets_of_sameMap {m m' : List MapRoom} (h : sameMap m m' = true) (y : SegSet) :
    (∃ a ∈ m, a.segs = y) ↔ ∃ b ∈ m', b.segs = y := by
  rw [← List.mem_map, ← List.mem_map, (sameMap_iff m m').1 h]

theorem sameMap_of_sets {m m' : List MapRoom} (hm : dividesSegs m) (hm' : dividesSegs m')
    (same : ∀ y, (∃ a ∈ m, a.segs = y) ↔ ∃ b ∈ m', b.segs = y) : sameMap m m' = true := by
  have antisymm : Std.Antisymm fun a b : SegId × SegSet => a.1 < b.1 := ⟨fun _ _ h h' => absurd h (lt_asymm h')⟩
  have irrefl : Std.Irrefl fun a b : SegId × SegSet => a.1 < b.1 := ⟨fun _ => lt_irrefl _⟩
  have sets := List.Subset.antisymm_of_pairwise (idSets_pairwise hm) (idSets_pairwise hm')
    (idSets_subset hm hm' fun y => (same y).1) (idSets_subset hm' hm fun y => (same y).2)
  have segs (l : List MapRoom) : (idSets l).map (·.2) = l.map (·.segs) := by rw [idSets, List.map_map]; rfl
  rw [sameMap_iff, ← segs m, ← segs m', sets]

/-! ## Labels (R21) -/

/-- The label of a segment. -/
def labelOf (lab : Vector SegId 8) (s : SegId) : SegId := lab[s]

/-- The labels name, for each segment, the lowest of those that `R` joins it to, step by step. -/
structure Labels (R : SegId → SegId → Prop) (lab : SegId → SegId) : Prop where
  joined : ∀ s t, lab s = lab t ↔ Relation.ReflTransGen R s t
  low    : ∀ s, lab s ≤ s
  fixed  : ∀ s, lab (lab s) = lab s

/-- `R` with `a` and `b` joined. -/
def withPair (R : SegId → SegId → Prop) (a b : SegId) (s t : SegId) : Prop :=
  R s t ∨ (s = a ∧ t = b) ∨ (s = b ∧ t = a)

/-- The label of a segment after those of `a` and `b` are joined. -/
def joinedLabel (lab : SegId → SegId) (a b s : SegId) : SegId :=
  if lab s = max (lab a) (lab b) then min (lab a) (lab b) else lab s

theorem labelOf_joinLabels (lab : Vector SegId 8) (a b : SegId) :
    labelOf (joinLabels lab a b) = joinedLabel (labelOf lab) a b := funext fun s => tab_get _ s

section
variable {R : SegId → SegId → Prop} {lab : SegId → SegId} (a b : SegId)

/-- Segments get one label by a join exactly where they had one, or had the two labels joined. -/
theorem joinedLabel_eq (lab : SegId → SegId) (a b s t : SegId) : joinedLabel lab a b s = joinedLabel lab a b t ↔
    lab s = lab t ∨ (lab s = lab a ∧ lab t = lab b) ∨ (lab s = lab b ∧ lab t = lab a) := by
  unfold joinedLabel
  generalize lab s = x
  generalize lab t = y
  generalize lab a = p
  generalize lab b = q
  rcases le_total p q with h | h
  · rw [max_eq_right h, min_eq_left h]
    split <;> split <;> grind
  · rw [max_eq_left h, min_eq_right h]
    split <;> split <;> grind

theorem min_label (fixed : ∀ s, lab (lab s) = lab s) : lab (min (lab a) (lab b)) = min (lab a) (lab b) := by
  rcases le_total (lab a) (lab b) with h | h
  · rw [min_eq_left h, fixed]
  · rw [min_eq_right h, fixed]

theorem Labels.join (w : Labels R lab) : Labels (withPair R a b) (joinedLabel lab a b) := by
  have mono {s t : SegId} (h : lab s = lab t) : Relation.ReflTransGen (withPair R a b) s t :=
    Relation.ReflTransGen.mono (p := withPair R a b) (fun _ _ => Or.inl) s t ((w.joined s t).1 h)
  refine ⟨fun s t => ⟨fun h => ?_, fun h => ?_⟩, fun s => ?_, fun s => ?_⟩
  · rcases (joinedLabel_eq lab a b s t).1 h with h | ⟨hs, ht⟩ | ⟨hs, ht⟩
    · exact mono h
    · exact ((mono hs).tail (.inr (.inl ⟨rfl, rfl⟩))).trans (mono ht.symm)
    · exact ((mono hs).tail (.inr (.inr ⟨rfl, rfl⟩))).trans (mono ht.symm)
  · induction h with
    | refl => rfl
    | tail _ step ih =>
      refine ih.trans ((joinedLabel_eq lab a b _ _).2 ?_)
      rcases step with r | ⟨rfl, rfl⟩ | ⟨rfl, rfl⟩
      · exact .inl ((w.joined _ _).2 (.single r))
      · exact .inr (.inl ⟨rfl, rfl⟩)
      · exact .inr (.inr ⟨rfl, rfl⟩)
  · unfold joinedLabel
    split
    · next h => exact min_le_max.trans (h ▸ w.low s)
    · exact w.low s
  · by_cases h : lab s = max (lab a) (lab b)
    · have one : joinedLabel lab a b s = min (lab a) (lab b) := if_pos h
      rw [one, joinedLabel, min_label a b w.fixed]
      split <;> rfl
    · have one : joinedLabel lab a b s = lab s := if_neg h
      rw [one, joinedLabel, w.fixed, if_neg h]

end

theorem labels_fold {S R : SegId → SegId → Prop} (ps : List (SegId × SegId)) {lab : Vector SegId 8}
    (w : Labels R (labelOf lab)) (hS : ∀ s t, S s t ↔ R s t ∨ (s, t) ∈ ps ∨ (t, s) ∈ ps) :
    Labels S (labelOf (ps.foldl (fun l p => joinLabels l p.1 p.2) lab)) := by
  induction ps generalizing R lab with
  | nil =>
    have : S = R := by funext s t; simp [hS]
    exact this ▸ w
  | cons p ps ih =>
    obtain ⟨a, b⟩ := p
    have step := w.join a b
    rw [← labelOf_joinLabels] at step
    refine ih step fun s t => ?_
    rw [hS, withPair]
    simp only [List.mem_cons, Prod.mk.injEq]
    tauto

/-- A passable wall joins two segments (R7). -/
def Scanner.joined (sc : Scanner) (a b : SegId) : Prop := ∃ w : WallId,
  ((sc.walls[w]).pair = some (a, b) ∨ (sc.walls[w]).pair = some (b, a)) ∧
  ((sc.walls[w]).ovr = .forceOpen ∨ ((sc.walls[w]).ovr = .follow ∧ (sc.walls[w]).settled = .opened))

theorem joins_eq_some {w : Wall} {p : SegId × SegId} : joins w = some p ↔
    w.pair = some p ∧ (w.ovr = .forceOpen ∨ (w.ovr = .follow ∧ w.settled = .opened)) := by
  unfold joins
  cases hp : w.pair with
  | none => simp
  | some q =>
    rw [effective_defined (by simp [hp])]
    cases w.ovr <;> simp [and_comm]

theorem single_labels : Labels (fun _ _ => False) id := by
  refine ⟨fun s t => ⟨?_, fun h => ?_⟩, fun _ => le_rfl, fun _ => rfl⟩
  · rintro rfl
    exact .refl
  · cases h with
    | refl => rfl
    | tail _ step => exact step.elim

theorem roomLabels_labels (sc : Scanner) : Labels sc.joined (labelOf (roomLabels sc)) := by
  have start : labelOf (tab id) = id := funext fun s => tab_get _ s
  refine labels_fold _ (start ▸ single_labels) fun s t => ?_
  simp only [List.mem_filterMap, List.mem_finRange, true_and, joins_eq_some, false_or, ← exists_or, ← or_and_right]
  rfl

/-! ## Leads (R14) -/

/-- Segment `l` leads segment `s`: it ranks higher, or as high and stands no later (R14). -/
def leads (ranks : Vector Nat 8) (l s : SegId) : Prop := ranks[s] < ranks[l] ∨ (ranks[s] = ranks[l] ∧ l ≤ s)

/-- The better of two segments, the first of them standing. -/
def betterLead (ranks : Vector Nat 8) (best : Option SegId) (s : SegId) : Option SegId :=
  match best with
  | none => some s
  | some b => if ranks[b] < ranks[s] then some s else some b

theorem betterLead_fold (ranks : Vector Nat 8) (l : List SegId) (b : SegId) (hl : (b :: l).Pairwise (· < ·)) :
    ∃ x, l.foldl (betterLead ranks) (some b) = some x ∧ x ∈ b :: l ∧ ∀ s ∈ b :: l, leads ranks x s := by
  induction l generalizing b with
  | nil => exact ⟨b, rfl, .head _, fun s hs => by rw [List.mem_singleton.1 hs]; exact .inr ⟨rfl, le_rfl⟩⟩
  | cons c l ih =>
    obtain ⟨hb, hcl⟩ := List.pairwise_cons.1 hl
    obtain ⟨hc, hl'⟩ := List.pairwise_cons.1 hcl
    rw [List.foldl_cons]
    by_cases h : ranks[b] < ranks[c]
    · obtain ⟨x, hx, mem, best⟩ := ih c hcl
      refine ⟨x, by rwa [betterLead, if_pos h], .tail b mem, fun s hs => ?_⟩
      rcases List.mem_cons.1 hs with rfl | hs
      · rcases best c (.head l) with lt | ⟨eq, -⟩
        · exact .inl (h.trans lt)
        · exact .inl (eq ▸ h)
      · exact best s hs
    · have hbl : (b :: l).Pairwise (· < ·) := List.pairwise_cons.2 ⟨fun s hs => hb s (.tail c hs), hl'⟩
      obtain ⟨x, hx, mem, best⟩ := ih b hbl
      refine ⟨x, by rwa [betterLead, if_neg h], ?_, fun s hs => ?_⟩
      · rcases List.mem_cons.1 mem with rfl | mem
        · exact .head _
        · exact .tail b (.tail c mem)
      · rcases List.mem_cons.1 hs with rfl | hs
        · exact best s (.head l)
        rcases List.mem_cons.1 hs with rfl | hs
        · rcases best b (.head l) with lt | ⟨eq, le⟩
          · exact .inl ((not_lt.1 h).trans_lt lt)
          · rcases ((not_lt.1 h).trans (le_of_eq eq)).lt_or_eq with lt | eq'
            · exact .inl lt
            · exact .inr ⟨eq', le.trans (hb s (.head l)).le⟩
        · exact best s (.tail b hs)

theorem leadOf_eq (ranks : Vector Nat 8) (x : SegSet) :
    leadOf ranks x = (allSegIds.filter (inSet x)).foldl (betterLead ranks) none := rfl

/-- The lead of a set of segments: none of an empty one, else that of the highest rank, the lowest of equals (R14). -/
theorem leadOf_spec (ranks : Vector Nat 8) (x : SegSet) :
    (leadOf ranks x = none ∧ ∀ s, inSet x s = false) ∨
      ∃ l, leadOf ranks x = some l ∧ inSet x l = true ∧ ∀ s, inSet x s = true → leads ranks l s := by
  have mem (s : SegId) : s ∈ allSegIds.filter (inSet x) ↔ inSet x s = true := by simp [allSegIds]
  have ascends : (allSegIds.filter (inSet x)).Pairwise (· < ·) := (List.pairwise_lt_finRange 8).filter _
  rw [leadOf_eq]
  cases hl : allSegIds.filter (inSet x) with
  | nil =>
    refine .inl ⟨rfl, fun s => ?_⟩
    have := mem s
    rw [hl] at this
    simpa using this
  | cons b l =>
    rw [hl] at mem ascends
    obtain ⟨y, hy, hmem, best⟩ := betterLead_fold ranks l b ascends
    exact .inr ⟨y, hy, (mem y).1 hmem, fun s hs => best s ((mem s).2 hs)⟩

/-! ## The computed map (R21) -/

/-- The segments with label `i`. -/
def labelled (sc : Scanner) (i : SegId) : SegSet := setWhere fun s => labelOf (roomLabels sc) s = i

theorem inSet_labelled (sc : Scanner) (i s : SegId) : inSet (labelled sc i) s = true ↔ labelOf (roomLabels sc) s = i := by
  rw [labelled, inSet_setWhere, decide_eq_true_eq]

theorem computeMap_eq (sc : Scanner) : computeMap sc = allSegIds.filterMap fun i =>
    (leadOf sc.ranks (labelled sc i)).map fun l => { id := i, segs := labelled sc i, lead := l } := rfl

theorem mem_computeMap {sc : Scanner} {y : MapRoom} (hy : y ∈ computeMap sc) :
    y.segs = labelled sc y.id ∧ inSet y.segs y.lead = true ∧ ∀ s, inSet y.segs s = true → leads sc.ranks y.lead s := by
  rw [computeMap_eq] at hy
  obtain ⟨i, -, hi⟩ := List.mem_filterMap.1 hy
  obtain ⟨l, hl, rfl⟩ := Option.map_eq_some_iff.1 hi
  rcases leadOf_spec sc.ranks (labelled sc i) with ⟨none, -⟩ | ⟨l', hl', hin, best⟩
  · rw [hl] at none; cases none
  · cases hl.symm.trans hl'
    exact ⟨rfl, hin, best⟩

theorem computeMap_covers (sc : Scanner) (sg : SegId) : ∃ y ∈ computeMap sc, inSet y.segs sg = true := by
  have hin : inSet (labelled sc (labelOf (roomLabels sc) sg)) sg = true := (inSet_labelled sc _ sg).2 rfl
  rcases leadOf_spec sc.ranks (labelled sc (labelOf (roomLabels sc) sg)) with ⟨-, no⟩ | ⟨l, hl, -⟩
  · rw [no sg] at hin; cases hin
  · refine ⟨{ id := labelOf (roomLabels sc) sg, segs := labelled sc (labelOf (roomLabels sc) sg), lead := l }, ?_, hin⟩
    rw [computeMap_eq]
    exact List.mem_filterMap.2 ⟨labelOf (roomLabels sc) sg, List.mem_finRange _, by rw [hl]; rfl⟩

/-- A room of the computed map holds the segments that passable walls join, one by one, to its lowest segment, which is
its id (R21). -/
theorem computeMap_room {sc : Scanner} {y : MapRoom} (hy : y ∈ computeMap sc) : inSet y.segs y.id = true ∧
    (∀ sg, inSet y.segs sg = true ↔ Relation.ReflTransGen sc.joined y.id sg) ∧
    ∀ sg, inSet y.segs sg = true → y.id ≤ sg := by
  obtain ⟨segs, lead, -⟩ := mem_computeMap hy
  have labels := roomLabels_labels sc
  have mem (sg : SegId) : inSet y.segs sg = true ↔ labelOf (roomLabels sc) sg = y.id := by rw [segs, inSet_labelled]
  have id_label : labelOf (roomLabels sc) y.id = y.id := by
    have := labels.fixed y.lead
    rwa [(mem y.lead).1 lead] at this
  refine ⟨(mem y.id).2 id_label, fun sg => ?_, fun sg hs => ?_⟩
  · rw [mem, ← labels.joined, id_label, eq_comm]
  · exact (mem sg).1 hs ▸ labels.low sg

theorem computeMap_pairwise (sc : Scanner) :
    (computeMap sc).Pairwise fun y z => y.id < z.id ∧ (y.segs &&& z.segs) = 0 := by
  rw [computeMap_eq, List.pairwise_filterMap]
  refine (List.pairwise_lt_finRange 8).imp fun {i j} hij y hy z hz => ?_
  obtain ⟨l, -, rfl⟩ := Option.map_eq_some_iff.1 hy
  obtain ⟨l', -, rfl⟩ := Option.map_eq_some_iff.1 hz
  refine ⟨hij, ?_⟩
  by_contra c
  obtain ⟨sg, hi, hj⟩ := and_ne_zero_iff.1 c
  exact (ne_of_lt hij) (((inSet_labelled sc i sg).1 hi).symm.trans ((inSet_labelled sc j sg).1 hj))

theorem computeMap_divides (sc : Scanner) : dividesSegs (computeMap sc) :=
  ⟨computeMap_covers sc, fun _ hy => ⟨(computeMap_room hy).1, (mem_computeMap hy).2.1, (computeMap_room hy).2.2⟩,
    computeMap_pairwise sc⟩

theorem computeMap_nodup (sc : Scanner) : (computeMap sc).Nodup :=
  (computeMap_pairwise sc).imp fun h => fun e => absurd (congrArg MapRoom.id e) (ne_of_lt h.1)

end Sys2Proof.Machine
end

section
/-! A rest report settles (O26): STEADY, a regroup abandoned, or a consent round, which is DRAIN at once where no console
is concerned (R25 to R27, R35). -/

namespace Sys2Proof.Machine

/-! ## Rooms frozen -/

section
variable (h : Hall)

theorem setFrozen_room (f : SegId → Bool) (i : SegId) :
    (setFrozen h f).room i = (h.room i).map fun r => { r with frozen := f i } := tab_get _ i

/-- A room of the hall after has the segments of the one before, and its freeze. -/
theorem Onward.room_back {h g : Hall} (w : Onward h g) {i : SegId} {r : Room} (hr : g.room i = some r) :
    ∃ r', h.room i = some r' ∧ r'.segs = r.segs ∧ r'.frozen = r.frozen := by
  obtain ⟨r', hr', segs, -⟩ := room_of_core w.core.symm hr
  have := w.frozen i
  rw [hr, hr'] at this
  exact ⟨r', hr', segs, (Option.some.inj this).symm⟩

/-- The rooms that a consent round freezes: those with an affected segment (R26). -/
def hitRooms (x : SegSet) : List SegId := h.roomIds.filter fun i => (h.segsOf i &&& x) ≠ 0

theorem mem_hitRooms {x : SegSet} {i : SegId} {r : Room} (hr : h.room i = some r) :
    (hitRooms h x).contains i = decide ((r.segs &&& x) ≠ 0) := by
  rw [Bool.eq_iff_iff, List.contains_iff_mem, hitRooms, List.mem_filter, mem_roomIds, segsOf_room hr]
  exact and_iff_right ⟨r, hr⟩

/-- The frozen rooms that a fresh round unfreezes. -/
def freedRooms (x : SegSet) : List SegId := h.frozenRooms.filter fun i => !(hitRooms h x).contains i

theorem mem_freedRooms {x : SegSet} {i : SegId} :
    i ∈ freedRooms h x ↔ ∃ r, h.room i = some r ∧ r.frozen = true ∧ (r.segs &&& x) = 0 := by
  rw [freedRooms, List.mem_filter, mem_frozenRooms]
  constructor
  · rintro ⟨⟨r, hr, hf⟩, hx⟩
    rw [mem_hitRooms h hr] at hx
    exact ⟨r, hr, hf, by simpa using hx⟩
  · rintro ⟨r, hr, hf, hx⟩
    exact ⟨⟨r, hr, hf⟩, by rw [mem_hitRooms h hr]; simp [hx]⟩

/-- The hall in which exactly the rooms with an affected segment are frozen. -/
def frozenHall (x : SegSet) : Hall := setFrozen h fun i => (hitRooms h x).contains i

theorem frozenHall_room (x : SegSet) (i : SegId) :
    (frozenHall h x).room i = (h.room i).map fun r => { r with frozen := (r.segs &&& x) ≠ 0 } := by
  rw [frozenHall, setFrozen_room]
  cases hr : h.room i with
  | none => rfl
  | some r => rw [Option.map_some, Option.map_some, mem_hitRooms h hr]

/-- What a round freezes stays frozen, and nothing else is. -/
theorem Onward.frozen_iff {g : Hall} {x : SegSet} (w : Onward (frozenHall h x) g) {i : SegId} {r : Room}
    (hr : g.room i = some r) : r.frozen = true ↔ (r.segs &&& x) ≠ 0 := by
  obtain ⟨r', hr', segs, frozen⟩ := w.room_back hr
  rw [frozenHall_room] at hr'
  obtain ⟨y, -, rfl⟩ := Option.map_eq_some_iff.1 hr'
  rw [← segs, ← frozen]
  exact decide_eq_true_iff

theorem consolesOf_of_core {g h : Hall} (e : g.core = h.core) (x : SegSet) : consolesOf g x = consolesOf h x := by
  refine List.filter_congr fun p _ => ?_
  have := core_port e p
  simp only [Port.core, Prod.mk.injEq] at this
  obtain ⟨role, scope, -⟩ := this
  rw [role, scope]

end

/-! ## The branches -/

/-- The state in which a consent round has been entered for the map `m` and the affected set `x` (R26). -/
def consentRound (s : State) (m : List MapRoom) (x : SegSet) : State :=
  { s with
    regroup := { s.regroup with
      pendingMap := m, state := .consent, isOpen := true, affected := x, consent := consolesOf s.hall x,
      holds := [], silent := [], round := s.regroup.round + 1,
      deadline := some (s.regroup.consentSecs * 1000) },
    hall := raise .regroup 0xFF (unfreeze (frozenHall s.hall x) (freedRooms s.hall x)) }

section
variable (s : State)

theorem frozenHall_onward (h : Hall) (x : SegSet) :
    Onward (frozenHall h x) (raise .regroup 0xFF (unfreeze (frozenHall h x) (freedRooms h x))) :=
  (unfreeze_onward _ _).trans (.raise _ _ _)

theorem frozenHall_core (h : Hall) (x : SegSet) : (frozenHall h x).core = h.core := setFrozen_core h _

theorem consentRound_onward (m : List MapRoom) (x : SegSet) : Onward (frozenHall s.hall x) (consentRound s m x).hall :=
  frozenHall_onward s.hall x

/-- A rest report with a map that differs enters a consent round; without a console concerned, DRAIN (R26, R35). -/
theorem restReport_differs {m : List MapRoom} (hm : computeMap s.scanner = m)
    (hd : sameMap m s.hall.activeMap = false) :
    let x := affectedSet s.hall.activeMap m
    let s1 := consentRound s m x
    restReport s = if (consolesOf s.hall x).isEmpty then
        enterDrain { s1 with regroup := { s1.regroup with deadline := none } }
      else s1 := by
  intro x s1
  subst hm
  have consoles : consolesOf (unfreeze (frozenHall s.hall x) (freedRooms s.hall x)) x = consolesOf s.hall x :=
    consolesOf_of_core ((unfreeze_onward _ _).core.trans (frozenHall_core s.hall x)) x
  have entered : restReport s = enterConsent { s with regroup := { s.regroup with pendingMap := computeMap s.scanner } } :=
    if_neg (by rw [hd]; decide)
  rw [entered, ← consoles]
  have record : s1 = { s with
      regroup := { s.regroup with
        pendingMap := computeMap s.scanner, state := .consent, isOpen := true, affected := x,
        consent := consolesOf (unfreeze (frozenHall s.hall x) (freedRooms s.hall x)) x,
        holds := [], silent := [], round := s.regroup.round + 1,
        deadline := some (s.regroup.consentSecs * 1000) },
      hall := raise .regroup allSegs (unfreeze (frozenHall s.hall x) (freedRooms s.hall x)) } := by
    rw [consoles]
    rfl
  rw [record]
  rfl

theorem restReport_abandon (hm : sameMap (computeMap s.scanner) s.hall.activeMap = true)
    (ho : s.regroup.isOpen = true) : restReport s =
      abandon { s with regroup := { s.regroup with pendingMap := computeMap s.scanner } } :=
  (if_pos hm).trans (if_pos ho)

theorem restReport_steady (hm : sameMap (computeMap s.scanner) s.hall.activeMap = true)
    (ho : s.regroup.isOpen = false) : restReport s =
      { s with regroup := { s.regroup with pendingMap := computeMap s.scanner, state := .steady } } :=
  (if_pos hm).trans (if_neg (by rw [ho]; decide))

/-- A room of the hall after an abandon is not frozen (R27). -/
theorem abandon_frozenRooms (s : State) : (abandon s).hall.frozenRooms = [] := by
  refine List.eq_nil_iff_forall_not_mem.2 fun i hi => ?_
  obtain ⟨r, hr, hf⟩ := mem_frozenRooms.1 hi
  have onward : Onward (setFrozen s.hall fun _ => false) (abandon s).hall :=
    (Onward.raise _ .regroup allSegs).trans (unfreeze_onward _ _)
  obtain ⟨r', hr', -, frozen⟩ := onward.room_back hr
  rw [setFrozen_room] at hr'
  obtain ⟨y, -, rfl⟩ := Option.map_eq_some_iff.1 hr'
  rw [hf] at frozen
  cases frozen

/-- DRAIN has begun where a consent round has no console to ask (R35). -/
theorem consentRound_drains {m : List MapRoom} {x : SegSet} (nodup : m.Nodup) (none : consolesOf s.hall x = []) :
    let s1 := consentRound s m x
    s1.drainBegun (enterDrain { s1 with regroup := { s1.regroup with deadline := Option.none } }) [] := by
  intro s1
  have record : ({ s1 with regroup := { s1.regroup with deadline := Option.none } } : State) =
      { s1 with regroup := { s1.regroup with consent := [], deadline := Option.none, silent := [] } } := by
    simp only [s1, consentRound, none]
  rw [record]
  exact enterDrain_begun nodup []

theorem enterDrain_onward (rg : Regroup) : Onward s.hall (enterDrain { s with regroup := rg }).hall := by
  have drained := (Onward.raise s.hall .regroup allSegs).trans (drainedHall_onward s.scanner rg s.hall)
  rw [enterDrain_eq, drainTest_regroup rfl]
  exact drained

theorem restReport_pendingMap : (restReport s).regroup.pendingMap = computeMap s.scanner := by
  cases hm : sameMap (computeMap s.scanner) s.hall.activeMap with
  | true =>
    cases ho : s.regroup.isOpen with
    | true => rw [restReport_abandon s hm ho]; rfl
    | false => rw [restReport_steady s hm ho]
  | false =>
    rw [restReport_differs s rfl hm]
    split
    · rw [enterDrain_eq, drainTest_regroup rfl]; rfl
    · rfl

/-- After a consent round is entered the rooms with an affected segment are frozen, and no other (R26). -/
theorem restReport_onward (hd : sameMap (computeMap s.scanner) s.hall.activeMap = false) :
    Onward (frozenHall s.hall (affectedSet s.hall.activeMap (computeMap s.scanner))) (restReport s).hall := by
  rw [restReport_differs s rfl hd]
  have round := consentRound_onward s (computeMap s.scanner) (affectedSet s.hall.activeMap (computeMap s.scanner))
  split
  · exact round.trans (enterDrain_onward _ _)
  · exact round

end

/-- Settles O26, from the lemmas on the computed map and on each branch of a rest report. (`restReport` is the name of the
model's own function.) -/
theorem restReport_spec : Obligations.RestReport := by
  refine ⟨mem_consolesOf, fun m m' => ⟨fun h => sets_of_sameMap h, fun hm hm' => sameMap_of_sets hm hm'⟩,
    fun m y sg hm hy hs => companions_of_divides hm hy hs, fun s => ?_⟩
  intro t m x joined frozenBy frozenBefore
  obtain ⟨scanner, trunks, mix, pending, core, -⟩ := restReport_quiet s
  refine ⟨restReport_pendingMap s, scanner, trunks, mix, pending, core, computeMap_covers s.scanner, fun y hy => ?_,
    computeMap_pairwise s.scanner, mem_affectedSet _ _, restReport_steady s, fun hm ho => ?_, fun hd => ?_⟩
  · obtain ⟨hid, hjoined, hlow⟩ := computeMap_room hy
    obtain ⟨-, hlead, hbest⟩ := mem_computeMap hy
    exact ⟨hid, hjoined, hlow, hlead, hbest⟩
  · have left : t = abandon { s with regroup := { s.regroup with pendingMap := m } } := restReport_abandon s hm ho
    rw [left]
    exact ⟨rfl, abandon_frozenRooms _, setFrozen s.hall fun _ => false, s.hall.frozenRooms,
      ⟨rfl, setFrozen_room s.hall _⟩, ⟨frozenRooms_pairwise, fun i => by simp only [mem_frozenRooms, and_true]⟩, rfl⟩
  · have left : t = if (consolesOf s.hall x).isEmpty then
        enterDrain { consentRound s m x with regroup := { (consentRound s m x).regroup with deadline := none } }
        else consentRound s m x := restReport_differs s rfl hd
    refine ⟨fun i r hr => (restReport_onward s hd).frozen_iff _ hr, frozenHall s.hall x, freedRooms s.hall x,
      consentRound s m x, ⟨rfl, frozenHall_room s.hall x⟩, ⟨frozenRooms_pairwise.filter _, fun i => mem_freedRooms _⟩,
      rfl, fun asked => ?_, fun none => ?_⟩
    · rw [left, if_neg (by simpa using asked)]
    · rw [left, if_pos (by rw [none]; rfl)]
      exact consentRound_drains s (computeMap_nodup s.scanner) none

end Sys2Proof.Machine
end

section
/-! CLAIM-SEGMENTS, RELEASE-SEGMENTS and ASSIGN-SCOPE (O29): the scopes, the controlling consoles and their ROOM events
(R19, R173 to R175). -/

namespace Sys2Proof.Machine

/-! ## What an event signals (R182) -/

theorem raise_port (f : Flag) (x : SegSet) (h : Hall) (p : PortId) :
    (raise f x h).ports[p] = if portTakes h.ports[p] f x then portFlagged h.ports[p] f else h.ports[p] := tab_get _ p

/-- Role, scope, mask, modes and answer of a port are its core; flags and pulse are the rest. -/
theorem Port.eq_of_core {x y : Port} (e : y.core = x.core) : y = { x with flags := y.flags, pulse := y.pulse } := by
  simp only [Port.core, Prod.mk.injEq] at e
  obtain ⟨role, scope, answer, reinit, mask, ack, att⟩ := e
  obtain ⟨_, _, _, _, _, _, _, _, _⟩ := y
  cases role; cases scope; cases answer; cases reinit; cases mask; cases ack; cases att
  rfl

theorem portFlagged_flag (p : Port) (f : Flag) : (portFlagged p f).flags &&& flagBit f ≠ 0 ↔
    (p.flags &&& flagBit f ≠ 0 ∨ p.mask &&& flagBit f ≠ 0) := by
  unfold portFlagged
  split
  · next h => simp [h]
  · next h =>
    refine iff_of_true ?_ (.inr h)
    show (p.flags ||| flagBit f) &&& flagBit f ≠ 0
    rw [or_and_self]
    intro c
    exact h (by rw [c]; exact BitVec.and_zero)

theorem portTakes_of_core {p q : Port} (e : q.core = p.core) (f : Flag) (x : SegSet) :
    portTakes q f x = portTakes p f x := by
  rw [Port.eq_of_core e]
  rfl

theorem mask_of_core {p q : Port} (e : q.core = p.core) : q.mask = p.mask := by
  rw [Port.eq_of_core e]

theorem raise_signalled (f : Flag) (x : SegSet) (h : Hall) : h.signalled (raise f x h) f (· = x) := by
  intro p
  have core := core_port (raise_core h f x) p
  simp only [portTakes_of_core core, mask_of_core core, exists_eq_left]
  rw [raise_port]
  split
  · next ht => rw [portFlagged_flag, ht, and_iff_left rfl]
  · next ht => exact (or_iff_left fun c => ht c.2).symm

theorem signalled_refl (h : Hall) (f : Flag) : h.signalled h f fun _ => False := fun p => by simp

theorem signalled_trans {h g k : Hall} {f : Flag} {a b : SegSet → Prop} (hg : h.signalled g f a)
    (gk : g.signalled k f b) (core : ∀ p : PortId, (k.ports[p]).core = (g.ports[p]).core) :
    h.signalled k f fun x => a x ∨ b x := by
  intro p
  rw [gk p, hg p]
  simp only [portTakes_of_core (core p), mask_of_core (core p), or_and_right, exists_or]
  rw [or_assoc, ← and_or_left]

theorem signalled_congr {h g : Hall} {f : Flag} {a b : SegSet → Prop} (w : h.signalled g f a)
    (e : ∀ x, a x ↔ b x) :
    h.signalled g f b := by
  simpa only [Hall.signalled, e] using w

/-- What is signalled depends on the flags that were set before, and not on other fields. -/
theorem signalled_of_flags {h h' g : Hall} {f : Flag} {a : SegSet → Prop} (w : h'.signalled g f a)
    (e : ∀ p : PortId, (h'.ports[p]).flags = (h.ports[p]).flags) : h.signalled g f a := by
  simpa only [Hall.signalled, e] using w

/-! ## Events for a list of rooms -/

/-- An event is raised for each room of a list. -/
def raiseRooms (f : Flag) (l : List SegId) (h : Hall) : Hall := l.foldl (fun g i => raiseRoom f i g) h

section
variable (f : Flag) (l : List SegId) (h : Hall)

theorem raiseRooms_hall : raiseRooms f l h = { h with ports := (raiseRooms f l h).ports } :=
  foldl_keeps (P := fun g : Hall => g = { h with ports := g.ports })
    (fun g i hg => by rw [hg]; rfl) l h rfl

@[simp] theorem raiseRooms_core : (raiseRooms f l h).core = h.core := fold_core h (fun g i => raiseRoom_core g f i) l

@[simp] theorem raiseRooms_room (i : SegId) : (raiseRooms f l h).room i = h.room i := by
  rw [raiseRooms_hall]
  rfl

theorem raiseRooms_signalled : h.signalled (raiseRooms f l h) f fun y => ∃ i ∈ l, y = h.segsOf i := by
  induction l generalizing h with
  | nil => exact signalled_congr (signalled_refl h f) (by simp)
  | cons i l ih =>
    refine signalled_congr (signalled_trans (raise_signalled f (h.segsOf i) h) (ih (raiseRoom f i h))
      fun p => core_port (raiseRooms_core f l _) p) fun y => ?_
    simp only [List.mem_cons, exists_eq_or_imp]
    rfl

end

/-! ## Scopes and controlling consoles (R19) -/

/-- Role and scope of each port. -/
def Hall.scopes (h : Hall) : PortId → Role × SegSet := fun p => ((h.ports[p]).role, (h.ports[p]).scope)

theorem scopes_of_cores {g h : Hall} (e : ∀ p : PortId, (g.ports[p]).core = (h.ports[p]).core) :
    g.scopes = h.scopes := by
  funext p
  simp only [Hall.scopes]
  rw [Port.eq_of_core (e p)]

theorem scopes_of_core {g h : Hall} (e : g.core = h.core) : g.scopes = h.scopes := scopes_of_cores (core_port e)

/-- A console holds a segment. -/
def Hall.holds (h : Hall) (p : PortId) (sg : SegId) : Prop :=
  (h.ports[p]).role = .console ∧ inSet (h.ports[p]).scope sg = true

theorem holds_of_scopes {g h : Hall} (e : g.scopes = h.scopes) (p : PortId) (sg : SegId) :
    g.holds p sg ↔ h.holds p sg := by
  have := congrFun e p
  simp only [Hall.scopes, Prod.mk.injEq] at this
  simp only [Hall.holds, this]

theorem consoleOf_eq_none {h : Hall} {sg : SegId} : consoleOf h sg = none ↔ ∀ p, ¬h.holds p sg := by
  simp [consoleOf, Hall.holds]

theorem consoleOf_eq_some {h : Hall} {sg : SegId} {p : PortId} :
    consoleOf h sg = some p ↔ h.holds p sg ∧ ∀ q, q < p → ¬h.holds q sg := by
  have test (q : PortId) : (decide ((h.ports[q]).role = .console) && inSet (h.ports[q]).scope sg) = true ↔
      h.holds q sg := by
    simp [Hall.holds]
  constructor
  · intro e
    have hp := List.find?_some e
    refine ⟨(test p).1 hp, fun q hq c => ?_⟩
    have := (find?_finRange_eq_some hp).1 e q hq
    rw [(test q).2 c] at this
    cases this
  · rintro ⟨hp, first⟩
    refine (find?_finRange_eq_some ((test p).2 hp)).2 fun q hq => ?_
    rw [← Bool.not_eq_true, test]
    exact first q hq

theorem consoleOf_of_scopes {g h : Hall} (e : g.scopes = h.scopes) (sg : SegId) : consoleOf g sg = consoleOf h sg := by
  ext p
  simp only [consoleOf_eq_some, holds_of_scopes e]

/-- A room whose lead lies in `x` has its controlling console read from the scopes. -/
def Room.consoled (h : Hall) (x : SegSet) (r : Room) : Room :=
  if inSet x r.lead then { r with console := consoleOf h r.lead } else r

theorem setConsoles_eq (h : Hall) (x : SegSet) : setConsoles h x =
    raiseRooms .room (h.roomIds.filter fun i => match h.room i with | some r => inSet x r.lead | none => false)
      { h with rooms := tab fun i => (h.rooms[i]).map (Room.consoled h x) } := rfl

/-- What the controlling consoles for the segments `x` are set to after the scopes have changed (R19): `v` are the ports
with the new scopes. -/
structure Reconsoled (h : Hall) (v : Vector Port 4) (x : SegSet) (g : Hall) : Prop where
  hall   : g = { h with rooms := g.rooms, ports := g.ports }
  ports  : ∀ p : PortId, (g.ports[p]).core = (v[p]).core
  taken  : ∀ i r, h.room i = some r → inSet x r.lead = true →
    g.room i = some { r with console := consoleOf g r.lead }
  kept   : ∀ i r, h.room i = some r → inSet x r.lead = false → g.room i = some r
  absent : ∀ i, h.room i = none → g.room i = none
  events : h.signalled g .room fun y => ∃ i r, h.room i = some r ∧ inSet x r.lead = true ∧ y = r.segs

/-- Setting the controlling consoles reads the new scopes and raises ROOM for the rooms set, and no other. -/
theorem setConsoles_reconsoled (h : Hall) (v : Vector Port 4) (x : SegSet)
    (flags : ∀ p : PortId, (v[p]).flags = (h.ports[p]).flags) :
    Reconsoled h v x (setConsoles { h with ports := v } x) := by
  generalize hg : setConsoles { h with ports := v } x = g
  rw [setConsoles_eq] at hg
  generalize hl : List.filter _ _ = l at hg
  generalize h1_eq : ({ ({ h with ports := v } : Hall) with rooms := _ } : Hall) = h1 at hg
  have rooms (i : SegId) : g.room i = (h.room i).map (Room.consoled { h with ports := v } x) := by
    rw [← hg, raiseRooms_room, ← h1_eq]
    exact tab_get _ i
  have cores (p : PortId) : (g.ports[p]).core = (v[p]).core := by
    rw [← hg, core_port (raiseRooms_core .room l h1) p, ← h1_eq]
  have scopes : g.scopes = ({ h with ports := v } : Hall).scopes := scopes_of_cores cores
  refine ⟨?_, cores, fun i r hr hx => ?_, fun i r hr hx => ?_, fun i hi => by rw [rooms, hi]; rfl, ?_⟩
  · rw [← hg, raiseRooms_hall, ← h1_eq]
  · rw [rooms, hr, Option.map_some, Room.consoled, if_pos hx, consoleOf_of_scopes scopes]
  · rw [rooms, hr, Option.map_some, Room.consoled, if_neg (by simp [hx])]
  · rw [← hg]
    refine signalled_congr (signalled_of_flags (raiseRooms_signalled .room l h1) fun p => ?_) fun y => ?_
    · rw [← h1_eq]
      exact flags p
    · have segs (i : SegId) : h1.segsOf i = h.segsOf i := by
        have : h1.room i = (h.room i).map (Room.consoled { h with ports := v } x) := by
          rw [← h1_eq]
          exact tab_get _ i
        simp only [Hall.segsOf, this]
        cases h.room i with
        | none => rfl
        | some r => simp only [Option.map_some, Room.consoled]; split <;> rfl
      have mem (i : SegId) : i ∈ l ↔ ∃ r, h.room i = some r ∧ inSet x r.lead = true := by
        rw [← hl, List.mem_filter, mem_roomIds]
        show (∃ r, h.room i = some r) ∧ (match h.room i with | some r => inSet x r.lead | none => false) = true ↔ _
        cases h.room i <;> simp
      simp only [mem, segs]
      constructor
      · rintro ⟨i, ⟨r, hr, hx⟩, rfl⟩
        exact ⟨i, r, hr, hx, segsOf_room hr⟩
      · rintro ⟨i, r, hr, hx, rfl⟩
        exact ⟨i, ⟨r, hr, hx⟩, (segsOf_room hr).symm⟩

/-! ## The commands (R173 to R175) -/

section
variable {h g : Hall} {v : Vector Port 4} {x : SegSet}

/-- Beside the scopes, the flags and the pulses every port is as it was. -/
theorem Reconsoled.port (w : Reconsoled h v x g)
    (rest : ∀ p : PortId, v[p] = { h.ports[p] with scope := (v[p]).scope }) (p : PortId) :
    (g.ports[p]).scope = (v[p]).scope ∧ g.ports[p] =
      { h.ports[p] with
        scope := (g.ports[p]).scope, flags := (g.ports[p]).flags, pulse := (g.ports[p]).pulse } := by
  have port := Port.eq_of_core (w.ports p)
  have scope : (g.ports[p]).scope = (v[p]).scope := (congrArg Port.scope port :)
  refine ⟨scope, ?_⟩
  rw [scope]
  refine port.trans ?_
  rw [rest p]

/-- What the statement says of the rooms after a command on scopes, for the segments `moved` that changed hands. -/
theorem Reconsoled.consoles (w : Reconsoled h v x g) {moved : SegId → Prop}
    (hm : ∀ sg, moved sg ↔ inSet x sg = true) :
    (∀ i r, h.room i = some r →
      (moved r.lead → g.room i = some { r with console := consoleOf g r.lead }) ∧
      (¬moved r.lead → g.room i = some r)) ∧
    (∀ i, h.room i = none → g.room i = none) ∧
    h.signalled g .room fun y => ∃ i r, h.room i = some r ∧ moved r.lead ∧ y = r.segs := by
  refine ⟨fun i r hr => ⟨fun c => w.taken i r hr ((hm _).1 c), fun c => w.kept i r hr ?_⟩, w.absent, ?_⟩
  · simpa [hm] using c
  · simpa only [hm] using w.events

end

section
variable (h : Hall) (p : PortId) (x : SegSet)

theorem setScope_port (q : PortId) :
    (setScope h p x).ports[q] = if p = q then { h.ports[p] with scope := x } else h.ports[q] := put_get _ p q _

theorem setScope_rest (q : PortId) :
    (setScope h p x).ports[q] = { h.ports[q] with scope := ((setScope h p x).ports[q]).scope } := by
  rw [setScope_port]
  split
  · next e => subst e; rfl
  · rfl

theorem assignScopes_port (q : PortId) : (assignScopes h p x).ports[q] =
    if q = p then { h.ports[q] with scope := x }
    else if (h.ports[q]).role = .console then { h.ports[q] with scope := (h.ports[q]).scope &&& ~~~x }
    else h.ports[q] := tab_get _ q

theorem assignScopes_rest (q : PortId) :
    (assignScopes h p x).ports[q] = { h.ports[q] with scope := ((assignScopes h p x).ports[q]).scope } := by
  rw [assignScopes_port]
  repeat' split
  all_goals rfl

/-- The hall after the scope of one port is replaced and the consoles of the segments `y` are set. -/
theorem setScope_reconsoled (y : SegSet) :
    Reconsoled h (setScope h p x).ports y (setConsoles (setScope h p x) y) :=
  setConsoles_reconsoled h _ y fun q => (congrArg Port.flags (setScope_rest h p x q) :)

theorem assignScopes_reconsoled (y : SegSet) :
    Reconsoled h (assignScopes h p x).ports y (setConsoles (assignScopes h p x) y) :=
  setConsoles_reconsoled h _ y fun q => (congrArg Port.flags (assignScopes_rest h p x q) :)

theorem heldByOthers_meets : (x &&& heldByOthers h p) ≠ 0 ↔
    ∃ q, q ≠ p ∧ (h.ports[q]).role = .console ∧ (x &&& (h.ports[q]).scope) ≠ 0 := by
  have fold (l : List PortId) (y : SegSet) :
      (x &&& l.foldl (fun y q =>
          if q ≠ p && (h.ports[q]).role = .console then y ||| (h.ports[q]).scope else y) y) ≠ 0 ↔
        (x &&& y) ≠ 0 ∨ ∃ q ∈ l, q ≠ p ∧ (h.ports[q]).role = .console ∧ (x &&& (h.ports[q]).scope) ≠ 0 := by
    induction l generalizing y with
    | nil => simp
    | cons q l ih =>
      rw [List.foldl_cons, ih]
      simp only [List.mem_cons, exists_eq_or_imp, ← or_assoc]
      refine or_congr_left ?_
      by_cases hq : q ≠ p ∧ (h.ports[q]).role = .console
      · rw [if_pos (by simpa using hq)]
        rw [← and_assoc, and_iff_right hq]
        simp only [and_ne_zero_iff, inSet_or, Bool.or_eq_true, and_or_left, exists_or]
      · rw [if_neg (by simpa using hq)]
        exact (or_iff_left fun c => hq ⟨c.1, c.2.1⟩).symm
  rw [heldByOthers, fold]
  simp

end

section
variable {s : State} {p : PortId} {x : Byte}

theorem claimBody_held (held : (x &&& heldByOthers s.hall p) ≠ 0) : claimBody s p x = .refuse .scope := if_pos held

theorem claimBody_done (free : ¬(x &&& heldByOthers s.hall p) ≠ 0) : claimBody s p x = .done false [] (s.withHall
    (setConsoles (setScope s.hall p ((s.hall.ports[p]).scope ||| x)) (x &&& ~~~(s.hall.ports[p]).scope))) := if_neg free

theorem assignScopeBody_range {qb : Byte} (hq : idOf 4 qb = none) : assignScopeBody s (qb, x) = .refuse .range := by
  simp only [assignScopeBody, hq]

theorem assignScopeBody_state {qb : Byte} {q : PortId} (hq : idOf 4 qb = some q)
    (hr : (s.hall.ports[q]).role ≠ .console) : assignScopeBody s (qb, x) = .refuse .state := by
  simp only [assignScopeBody, hq, if_pos hr]

theorem assignScopeBody_done {qb : Byte} {q : PortId} (hq : idOf 4 qb = some q)
    (hr : (s.hall.ports[q]).role = .console) : assignScopeBody s (qb, x) = .done false [] (s.withHall
      (setConsoles (assignScopes s.hall q x) (changedHands s.hall (assignScopes s.hall q x)))) := by
  simp only [assignScopeBody, hq, if_neg (not_not.2 hr)]

end

theorem inSet_not (x : SegSet) (sg : SegId) : inSet (~~~x) sg = !inSet x sg := by
  simp [inSet]

/-- Settles O29: a scope change leaves the hall `Reconsoled`, and each command's clauses read off that. -/
theorem scopeCommands : Obligations.ScopeCommands := by
  refine ⟨fun h sg => ⟨consoleOf_eq_none, fun p => consoleOf_eq_some⟩, fun s p tag x => ?_⟩
  intro scope beside consoles held
  have besides {v : Vector Port 4} {y : SegSet} {g : Hall} (w : Reconsoled s.hall v y g)
      (rest : ∀ q : PortId, v[q] = { s.hall.ports[q] with scope := (v[q]).scope }) : beside (s.withHall g) := by
    have ports := fun q => (w.port rest q).2
    have hall := w.hall
    refine ⟨rfl, rfl, rfl, rfl, rfl, ?_, ?_, ?_, ?_, ?_, ?_, ?_, ?_, ports⟩
    all_goals
      show _ = _
      rw [State.withHall_hall, hall]
  have consoled {v : Vector Port 4} {y : SegSet} {g : Hall} (w : Reconsoled s.hall v y g) {moved : SegId → Prop}
      (hm : ∀ sg, moved sg ↔ inSet y sg = true) : consoles (s.withHall g) moved := w.consoles hm
  have one {y z : SegSet} {q : PortId} : scope (setConsoles (setScope s.hall q y) z) q = y ∧
      ∀ i, i ≠ q → scope (setConsoles (setScope s.hall q y) z) i = scope s.hall i := by
    have port := (setScope_reconsoled s.hall q y z).port (setScope_rest s.hall q y)
    refine ⟨(port q).1.trans ?_, fun i hi => (port i).1.trans ?_⟩
    · rw [setScope_port, if_pos rfl]
    · rw [setScope_port, if_neg hi.symm]
  refine ⟨fun ha => ⟨fun hh => ?_, fun hh => ?_, ?_⟩,
    fun ha qb => ⟨fun hq => ?_, fun q hq => ⟨fun hr => ?_, fun hr => ?_⟩⟩⟩
  · exact congrArg Host.Outcome.next (takeCommand_refused ha (claimBody_held ((heldByOthers_meets s.hall p x).2 hh)))
  · have w := setScope_reconsoled s.hall p ((s.hall.ports[p]).scope ||| x) (x &&& ~~~(s.hall.ports[p]).scope)
    refine ⟨_, congrArg Host.Outcome.next (takeCommand_done ha (claimBody_done fun c =>
      hh ((heldByOthers_meets s.hall p x).1 c))), besides w (setScope_rest _ _ _), one.1, one.2,
      consoled (moved := fun sg => inSet x sg = true ∧ inSet (scope s.hall p) sg = false) w fun sg => ?_⟩
    simp [scope, inSet_and, inSet_not]
  · have w := setScope_reconsoled s.hall p ((s.hall.ports[p]).scope &&& ~~~x) ((s.hall.ports[p]).scope &&& x)
    refine ⟨_, congrArg Host.Outcome.next (takeCommand_done ha rfl), besides w (setScope_rest _ _ _), one.1, one.2,
      consoled (moved := fun sg => inSet x sg = true ∧ inSet (scope s.hall p) sg = true) w fun sg => ?_⟩
    simp [scope, inSet_and, and_comm]
  · exact congrArg Host.Outcome.next (takeCommand_refused ha (assignScopeBody_range hq))
  · exact congrArg Host.Outcome.next (takeCommand_refused ha (assignScopeBody_state hq hr))
  · have w := assignScopes_reconsoled s.hall q x (changedHands s.hall (assignScopes s.hall q x))
    have port := w.port (assignScopes_rest s.hall q x)
    refine ⟨_, congrArg Host.Outcome.next (takeCommand_done ha (assignScopeBody_done hq hr)),
      besides w (assignScopes_rest _ _ _), (port q).1.trans ?_, fun i hi hc => (port i).1.trans ?_,
      fun i hi => (port i).1.trans ?_,
      consoled (moved := fun sg => consoleOf s.hall sg ≠ consoleOf _ sg) w fun sg => ?_⟩
    · rw [assignScopes_port, if_pos rfl]
    · rw [assignScopes_port, if_neg hi, if_pos hc]
    · have hiq : i ≠ q := by
        rintro rfl
        exact hi hr
      rw [assignScopes_port, if_neg hiq, if_neg hi]
    · have after := consoleOf_of_scopes (scopes_of_cores (h := assignScopes s.hall q x) w.ports) sg
      rw [State.withHall_hall, after, changedHands, inSet_setWhere, decide_eq_true_eq]

end Sys2Proof.Machine
end

section
/-! The scopes of the consoles and the course of the regroup, over the commands and events that write neither: all but
the scope commands, those on walls, a full reset and a block start (R19, R22 to R27, R173 to R175). -/

namespace Sys2Proof.Machine

/-! ## What keeps the scopes -/

section
variable (h : Hall)

theorem scopes_of_bare {g h : Hall} (e : g.bare = h.bare) : g.scopes = h.scopes :=
  scopes_of_cores fun p => congrFun (congrArg (·.2.2.2.2) e) p

theorem scopes_of_ports {g h : Hall} (e : g.ports = h.ports) : g.scopes = h.scopes :=
  scopes_of_cores fun p => by rw [e]

/-- A fold of operations that each keep the scopes keeps them. -/
theorem fold_scopes {γ : Type} {f : Hall → γ → Hall} (hf : ∀ g c, (f g c).scopes = g.scopes) (l : List γ) :
    (l.foldl f h).scopes = h.scopes :=
  foldl_keeps (P := fun g => g.scopes = h.scopes) (fun g c hg => (hf g c).trans hg) l h rfl

@[simp] theorem raise_scopes (f : Flag) (x : SegSet) : (raise f x h).scopes = h.scopes := scopes_of_core (raise_core h f x)

@[simp] theorem raiseRoom_scopes (f : Flag) (i : SegId) : (raiseRoom f i h).scopes = h.scopes := raise_scopes h _ _

@[simp] theorem raiseBooth_scopes (b : BoothId) : (raiseBooth h b).scopes = h.scopes := raise_scopes h _ _

@[simp] theorem setRoom_scopes (i : SegId) (r : Option Room) : (h.setRoom i r).scopes = h.scopes := rfl

@[simp] theorem setBooth_scopes (b : BoothId) (x : Booth) : (h.setBooth b x).scopes = h.scopes := rfl

@[simp] theorem setUnit_scopes (u : UnitId) (r : UnitRec) : (h.setUnit u r).scopes = h.scopes := rfl

@[simp] theorem setAddr_scopes (u : UnitId) (r : AddrRec) : (h.setAddr u r).scopes = h.scopes := rfl

@[simp] theorem wake_scopes (i : SegId) : (wake h i).scopes = h.scopes := scopes_of_core (wake_core h i)

@[simp] theorem idleSweep_scopes : (idleSweep h).scopes = h.scopes := scopes_of_core (idleSweep_core h)

@[simp] theorem reevaluate_scopes (i : SegId) : (reevaluate h i).scopes = h.scopes :=
  scopes_of_core (reevaluate_core h i)

@[simp] theorem alignSeat_scopes (u : UnitId) : (alignSeat h u).scopes = h.scopes := scopes_of_core (alignSeat_core h u)

@[simp] theorem raiseSeat_scopes (sg : Option SegId) : (raiseSeat sg h).scopes = h.scopes :=
  scopes_of_core (raiseSeat_core h sg)

/-! ### Trunks -/

@[simp] theorem makeAbsent_scopes (us : List UnitId) : (makeAbsent h us).scopes = h.scopes :=
  scopes_of_bare (makeAbsent_bare h us)

@[simp] theorem raiseUnits_scopes (us : List UnitId) : (raiseUnits h us).scopes = h.scopes :=
  fold_scopes h (fun g u => by split <;> simp) us

@[simp] theorem loseUnits_scopes (us : List UnitId) : (loseUnits h us).scopes = h.scopes := by simp [loseUnits]

@[simp] theorem loseTrunk_scopes (t : TrunkId) : (loseTrunk h t).scopes = h.scopes := by simp [loseTrunk]

@[simp] theorem lowerConfirms_scopes (t : TrunkId) (l : List AddrIx) : (lowerConfirms h t l).scopes = h.scopes := by
  simp only [lowerConfirms, loseUnits_scopes]
  exact fold_scopes h (fun g u => setAddr_scopes g u _) _

@[simp] theorem missUnit_scopes (u : UnitId) : (missUnit h u).scopes = h.scopes := by
  simp only [missUnit]
  repeat' split
  all_goals simp

@[simp] theorem strayStep_scopes (u : UnitId) (r : Report) : (strayStep h u r).scopes = h.scopes := by
  simp only [strayStep]
  split <;> rfl

@[simp] theorem confirmed_scopes (u : UnitId) (r : Report) : (confirmed h u r).scopes = h.scopes := by
  unfold confirmed
  repeat' split
  all_goals rfl

@[simp] theorem foundUnit_scopes (u : UnitId) (r : Report) : (foundUnit h u r).scopes = h.scopes :=
  by simp [foundUnit]

@[simp] theorem deliver_scopes (u : UnitId) (o : Option Order) : (deliver h u o).1.scopes = h.scopes := by
  simp only [deliver]
  repeat' split
  all_goals rfl

@[simp] theorem goodPoll_scopes (u : UnitId) (o : Option Order) : (goodPoll h u o).1.scopes = h.scopes :=
  deliver_scopes _ u o

@[simp] theorem readReply_scopes (u : UnitId) (x : HandOver) : (readReply h u x).scopes = h.scopes :=
  scopes_of_bare (readReply_bare h u x)

/-! ### Rooms, booths, radiators and gains -/

@[simp] theorem storeUnit_scopes (u : UnitId) (r : UnitRec) : (storeUnit h u r).scopes = h.scopes := by
  simp only [storeUnit]
  split <;> simp

@[simp] theorem mapRoom_scopes (i : SegId) (f : Room → Room) : (h.mapRoom i f).scopes = h.scopes := by
  unfold Hall.mapRoom
  split <;> rfl

@[simp] theorem setElevated_scopes (i : SegId) (m : Option UnitId) : (setElevated h i m).scopes = h.scopes := by
  unfold setElevated
  repeat' split
  all_goals simp

@[simp] theorem appendLang_scopes (i : SegId) (code : Nat) : (appendLang h i code).scopes = h.scopes := by
  unfold appendLang
  repeat' split
  all_goals simp

@[simp] theorem settleOutput_scopes (i : SegId) (code : Nat) : (settleOutput h i code).scopes = h.scopes := by
  simp [settleOutput]

@[simp] theorem goLive_scopes (i : SegId) (b : BoothId) : (goLive h i b).scopes = h.scopes := by
  simp only [goLive]
  split <;> simp

@[simp] theorem leaveLive_scopes (i : SegId) (b : BoothId) : (leaveLive h i b).scopes = h.scopes := by
  simp only [leaveLive, raiseRoom_scopes, reevaluate_scopes]
  exact scopes_of_ports rfl

@[simp] theorem storeMic_scopes (b : BoothId) (on : Bool) : (storeMic h b on).scopes = h.scopes := by
  simp only [storeMic]
  repeat' split
  all_goals simp

@[simp] theorem storeRadiators_scopes (l : List (SegId × Bool)) : (storeRadiators h l).scopes = h.scopes :=
  (fold_scopes _ (fun g _ => raise_scopes g _ _) _).trans rfl

@[simp] theorem setRoomHall_scopes {i : SegId} {r : Room} (hr : h.room i = some r) (st : Settings) :
    (setRoomHall h i r st).scopes = h.scopes :=
  (scopes_of_core ((setRoomHall_core h i r st).trans (storeSettings_core h hr st))).trans rfl

@[simp] theorem moveWindow_scopes (i : SegId) (r : Room) (base size : Nat) :
    (moveWindow h i r base size).scopes = h.scopes := by
  simp [moveWindow]

end

/-! ## The course of the regroup -/

/-- A regroup has begun and is not abandoned: CONSENT, DRAIN or COMMIT-WAIT (R23). -/
def Regroup.engaged (rg : Regroup) : Prop := rg.state = .consent ∨ rg.state = .drain ∨ rg.state = .commitWait

/-- From `a` to `b` the regroup goes on: the pending map and the affected set stay, and the state stays, is SETTLING, or
moves on within the regroup. -/
structure Regroup.goesOn (a b : Regroup) : Prop where
  pendingMap : b.pendingMap = a.pendingMap
  affected   : b.affected = a.affected
  state      : b.state = a.state ∨ b.state = .settling ∨ (a.engaged ∧ b.engaged)

namespace Regroup.goesOn

theorem refl (a : Regroup) : a.goesOn a := ⟨rfl, rfl, .inl rfl⟩

/-- A record with the same state, pending map and affected set. -/
theorem same {a b : Regroup} (hm : b.pendingMap = a.pendingMap) (hx : b.affected = a.affected)
    (hs : b.state = a.state) : a.goesOn b := ⟨hm, hx, .inl hs⟩

theorem engaged_of_state {a b : Regroup} (e : b.state = a.state) : b.engaged ↔ a.engaged := by
  rw [engaged, e, engaged]

theorem trans {a b c : Regroup} (ab : a.goesOn b) (bc : b.goesOn c) : a.goesOn c := by
  refine ⟨bc.pendingMap.trans ab.pendingMap, bc.affected.trans ab.affected, ?_⟩
  rcases bc.state with e | e | ⟨eb, ec⟩
  · rcases ab.state with e' | e' | ⟨ea, eb⟩
    · exact .inl (e.trans e')
    · exact .inr (.inl (e.trans e'))
    · exact .inr (.inr ⟨ea, (engaged_of_state e).2 eb⟩)
  · exact .inr (.inl e)
  · rcases ab.state with e' | e' | ⟨ea, -⟩
    · exact .inr (.inr ⟨(engaged_of_state e').1 eb, ec⟩)
    · rw [Regroup.engaged, e'] at eb
      simp at eb
    · exact .inr (.inr ⟨ea, ec⟩)

end Regroup.goesOn

/-- From `s` to `t` the scopes of the ports are kept, and the regroup goes on. -/
structure Ruled (s t : State) : Prop where
  scopes  : t.hall.scopes = s.hall.scopes
  regroup : s.regroup.goesOn t.regroup

namespace Ruled

theorem refl (s : State) : Ruled s s := ⟨rfl, .refl _⟩

theorem trans {s t u : State} (a : Ruled s t) (b : Ruled t u) : Ruled s u :=
  ⟨b.scopes.trans a.scopes, a.regroup.trans b.regroup⟩

theorem withHall {s : State} {h : Hall} (e : h.scopes = s.hall.scopes) : Ruled s (s.withHall h) := ⟨e, .refl _⟩

theorem floorHall {s : State} {h : Hall} (e : h.scopes = s.hall.scopes) : Ruled s (s.floorHall h) :=
  ⟨(idleSweep_scopes h).trans e, .refl _⟩

theorem sweep (s : State) : Ruled s s.sweep := floorHall rfl

theorem raised (s : State) (f : Flag) (x : SegSet) : Ruled s (s.raised f x) := withHall (raise_scopes _ _ _)

theorem setTrunk (s : State) (t : TrunkId) (x : Trunk) : Ruled s (s.setTrunk t x) := ⟨rfl, .refl _⟩

theorem ofScanner (s : State) (sc : Scanner) : Ruled s { s with scanner := sc } := ⟨rfl, .refl _⟩

theorem setPort {s : State} {p : PortId} {x : Port}
    (e : (x.role, x.scope) = ((s.hall.ports[p]).role, (s.hall.ports[p]).scope)) : Ruled s (s.setPort p x) := by
  refine ⟨?_, .refl _⟩
  funext q
  show ((put s.hall.ports p x)[q].role, (put s.hall.ports p x)[q].scope) = _
  rw [put_get]
  split
  · next h => rw [e, h]; rfl
  · rfl

theorem setAnswer (s : State) (p : PortId) (tag : Byte) (st : Status) (l : List Byte) :
    Ruled s (setAnswer s p tag st l) := setPort rfl

/-- A fold of operations that each keep it keeps it. -/
theorem fold {γ : Type} {f : State → γ → State} (hf : ∀ g c, Ruled g (f g c)) (l : List γ) (s : State) :
    Ruled s (l.foldl f s) :=
  foldl_keeps (P := Ruled s) (fun g c hg => hg.trans (hf g c)) l s (refl s)

end Ruled

section
variable {α : Type} {s : State} {p : PortId} {tag : Byte}

theorem takeCommand_ruled {roles : List Role} {args : Option α} {body : α → Reply}
    (hb : ∀ a, (body a).Leaves (Ruled s)) : Yields (Ruled s) (answerNext (takeCommand s p tag roles args body)) :=
  (yields_answerNext _).2 (takeCommand_keeps (fun _ _ _ _ _ h => h.trans (.setAnswer _ _ _ _ _))
    (fun a c l s' _ e => hb a c l s' e) (.refl s))

theorem takeRoomCommand_ruled {args : Option (Option (BitVec 16) × Selector × α)} {body : SegId → α → Reply}
    (hb : ∀ i a, (body i a).Leaves (Ruled s)) : Yields (Ruled s) (answerNext (takeRoomCommand s p tag args body)) :=
  (yields_answerNext _).2 (takeRoomCommand_keeps (fun _ _ _ _ _ h => h.trans (.setAnswer _ _ _ _ _))
    (fun i a c l s' e => hb i a c l s' e) (.refl s))

end

variable (s : State)

/-! ## Regrouping -/

theorem drainTest_ruled : Ruled s (drainTest s) := by
  unfold drainTest
  split
  · next h =>
    simp only [Bool.and_eq_true, decide_eq_true_eq] at h
    exact ⟨rfl, rfl, rfl, .inr (.inr ⟨.inr (.inl h.1), .inr (.inr rfl)⟩)⟩
  · exact .refl s

theorem enterDrain_ruled (h : s.regroup.engaged) : Ruled s (enterDrain s) := by
  have k := drainTest_ruled
    { s with regroup := { s.regroup with state := .drain }, hall := drainedHall s.scanner s.regroup s.hall }
  refine .trans ?_ (enterDrain_eq s ▸ k)
  exact ⟨scopes_of_core (drainedHall_core _ _ _), rfl, rfl, .inr (.inr ⟨h, .inr (.inl rfl)⟩)⟩

/-- DRAIN entered from CONSENT with the consent set, the deadline and the silent list of `rg`. -/
theorem drainFrom_ruled {rg : Regroup} (e : s.regroup.goesOn rg) (h : rg.engaged) :
    Ruled s (enterDrain { s with regroup := rg }).sweep :=
  .trans (t := { s with regroup := rg }) ⟨rfl, e⟩ (.trans (enterDrain_ruled _ h) (.sweep _))

theorem deadlineExpiry_ruled : Yields (Ruled s) (execDeadlineExpiry s) := by
  unfold execDeadlineExpiry
  split
  · next h =>
    simp only [Bool.and_eq_true, decide_eq_true_eq] at h
    exact (yields_next _).2 (drainFrom_ruled s (.same rfl rfl rfl) (.inl h.1))
  · exact (yields_next _).2 (.refl s)

theorem forceRegroup_ruled (a : Unit) : (forceRegroupBody s a).Leaves (Ruled s) := by
  unfold forceRegroupBody
  split
  · next h => exact (Reply.leaves_done _ _ _).2 (drainFrom_ruled s (.same rfl rfl rfl) (.inl h))
  · simp

theorem agree_ruled (p : PortId) (h : s.regroup.state = .consent) : Ruled s (agree s p) := by
  simp only [agree]
  split
  · exact drainFrom_ruled s (.same rfl rfl rfl) (.inl h)
  · exact ⟨rfl, .same rfl rfl rfl⟩

theorem regroupAnswer_ruled (p : PortId) (a : Byte × Option (BitVec 16)) :
    (regroupAnswerBody s p a).Leaves (Ruled s) := by
  unfold regroupAnswerBody
  refine Reply.leaves_ifs (by simp) fun _ => Reply.leaves_ifs (by simp) fun _ => Reply.leaves_ifs (by simp) fun hs =>
    Reply.leaves_ifs (by simp) fun _ => Reply.leaves_ifs ?_ fun _ => Reply.leaves_ifs (by simp) fun _ => ?_
  · exact (Reply.leaves_done _ _ _).2 (agree_ruled s p (not_not.1 hs))
  · exact (Reply.leaves_done _ _ _).2 ⟨rfl, .same rfl rfl rfl⟩

/-! ## Trunks -/

theorem applyPower_ruled (t : TrunkId) : Ruled s (applyPower s t) := .trans (.setTrunk s t _) (.raised _ _ _)

theorem removePower_ruled (t : TrunkId) (st : TrunkState) : Ruled s (removePower s t st) :=
  .trans (.setTrunk s t _) (.withHall (loseTrunk_scopes _ _))

theorem senseLineChange_ruled (t : TrunkId) (chain : Bool) : Yields (Ruled s) (execSenseLineChange t chain s) := by
  simp only [execSenseLineChange]
  repeat' split
  all_goals rw [yields_next]
  · exact .refl s
  · exact .trans (.setTrunk s t _) (applyPower_ruled _ t)
  · exact .trans (.setTrunk s t _) (.trans (removePower_ruled _ t _) (.sweep _))
  · exact .setTrunk s t _
  · exact .setTrunk s t _

theorem overcurrent_ruled (t : TrunkId) : Yields (Ruled s) (execOvercurrent t s) := by
  unfold execOvercurrent
  split
  · exact (yields_next _).2 (.trans (removePower_ruled s t _) (.sweep _))
  · exact (yields_next _).2 (.refl s)

theorem powerAct_ruled (t : TrunkId) : Ruled s (powerAct s t) := by
  have off : ∀ c : Bool, Ruled s (if c then s else (removePower s t .unpowered).sweep) := fun c => by
    split
    · exact .refl s
    · exact .trans (removePower_ruled s t _) (.sweep _)
  simp only [powerAct]
  split
  · split
    · exact applyPower_ruled s t
    · exact .refl s
  · repeat' split
    · exact .refl s
    · exact applyPower_ruled s t
    · exact .trans (.setTrunk s t _) (.raised _ _ _)
  all_goals exact off _

theorem trunkPower_ruled (a : Byte × Byte) : (trunkPowerBody s a).Leaves (Ruled s) := by
  unfold trunkPowerBody
  split
  · rw [Reply.leaves_done]
    refine .trans ?_ (powerAct_ruled _ _)
    split
    · exact .setTrunk s _ _
    · exact .trans (.setTrunk s _ _) (.raised _ _ _)
  · simp

theorem setRollcall_ruled (a : Byte × Byte) : (setRollcallBody s a).Leaves (Ruled s) := by
  unfold setRollcallBody
  split
  · simp
  · exact (Reply.leaves_done _ _ _).2 (.setTrunk s _ _)

theorem endRound_ruled (t : TrunkId) (rd : Round) : Ruled s (endRound s t rd) := by
  simp only [endRound]
  refine .trans (.trans (.setTrunk s t _) (.withHall ?_)) (.sweep _)
  repeat' split
  all_goals simp

theorem roundEnd_ruled (t : TrunkId) : Yields (Ruled s) (execRoundEnd t s) := by
  unfold execRoundEnd
  split
  · exact (yields_next _).2 (endRound_ruled s t _)
  · exact (yields_next _).2 (.refl s)

theorem confirmationCountExpiry_ruled (u : UnitId) : Yields (Ruled s) (execConfirmationCountExpiry u s) := by
  unfold execConfirmationCountExpiry
  split
  · exact (yields_next _).2 (.floorHall (loseUnits_scopes _ _))
  · exact (yields_next _).2 (.refl s)

theorem pollRoundStart_ruled (t : TrunkId) : Yields (Ruled s) (execPollRoundStart t s) := by
  simp only [execPollRoundStart]
  split
  · split
    · exact (yields_next _).2 (.trans (.setTrunk s t _) (endRound_ruled _ t _))
    · exact (yields_next _).2 (.setTrunk s t _)
  · exact (yields_next _).2 (.refl s)

theorem pollSend_ruled (t : TrunkId) : Yields (Ruled s) (execPollSend t s) := by
  simp only [execPollSend]
  repeat' split
  all_goals rw [yields_next]
  · exact .refl s
  · exact .refl s
  all_goals exact .setTrunk s t _

theorem badReply_ruled (t : TrunkId) (x : Sent) (f : Failure) : Ruled s (badReply s t x f) := by
  simp only [badReply]
  repeat' split
  · exact .refl s
  · exact .setTrunk s t _
  · exact .trans (.setTrunk s t _) (.floorHall (missUnit_scopes _ _))

theorem takeReport_ruled (t : TrunkId) (u : UnitId) (r : Report) : Ruled s (takeReport s t u r) := by
  simp only [takeReport]
  split
  · exact .floorHall ((loseUnits_scopes _ _).trans (strayStep_scopes _ _ _))
  · exact .trans (.setTrunk s t _) (.floorHall ((confirmed_scopes _ _ _).trans (strayStep_scopes _ _ _)))

/-- The trunk record of a good reply, with its TRUNK event. -/
theorem heard_ruled (t : TrunkId) (x : Trunk) (c : Prop) [Decidable c] :
    Ruled s (if c then (s.setTrunk t x).raised .trunk allSegs else s.setTrunk t x) := by
  split
  · exact .trans (.setTrunk s t _) (.raised _ _ _)
  · exact .setTrunk s t _

theorem goodReply_ruled (t : TrunkId) (x : Sent) (r : Report) : Ruled s (goodReply s t x r) := by
  simp only [goodReply]
  generalize hs2 : (if (s.trunks[t]).state = .down then _ else _) = s2
  have k2 : Ruled s s2 := hs2 ▸ heard_ruled s t _ _
  repeat' split
  · exact k2.trans (.trans (.withHall (foundUnit_scopes _ _ _)) (takeReport_ruled _ t _ r))
  · exact k2.trans (.trans (.trans (.withHall (goodPoll_scopes _ _ _)) (.setTrunk _ t _)) (takeReport_ruled _ t _ r))
  · exact k2.trans (.trans (.withHall (goodPoll_scopes _ _ _)) (takeReport_ruled _ t _ r))
  · exact k2

theorem pollReply_ruled (t : TrunkId) (rx : List Byte) : Yields (Ruled s) (execPollReply t rx s) := by
  simp only [execPollReply]
  repeat' split
  all_goals rw [yields_next]
  · exact .refl s
  · exact .refl s
  · exact .trans (.setTrunk s t _) (badReply_ruled _ t _ _)
  · exact .trans (.setTrunk s t _) (goodReply_ruled _ t _ _)

theorem handOverTaken_ruled (t : TrunkId) : Yields (Ruled s) (execHandOverTaken t s) := by
  simp only [execHandOverTaken]
  split
  · exact (yields_next _).2 (.refl s)
  · exact (yields_next _).2 (.trans (.setTrunk s t _) (.floorHall (readReply_scopes _ _ _)))

/-! ## The floor and the rooms -/

theorem setUnit_ruled (a : (Byte × Byte) × List (Nat × FieldValue)) : (setUnitBody s a).Leaves (Ruled s) := by
  simp only [setUnitBody]
  repeat' split
  all_goals simp only [Reply.leaves_refuse, Reply.leaves_done]
  exact .withHall (storeUnit_scopes _ _ _)

theorem setRoom_ruled (i : SegId) (fs : List (Nat × FieldValue)) : (setRoomBody s i fs).Leaves (Ruled s) := by
  unfold setRoomBody
  refine Reply.leaves_ifs (by simp) fun _ => ?_
  split
  · simp
  · next r hr => exact (Reply.leaves_done _ _ _).2 (.floorHall (setRoomHall_scopes s.hall hr _))

theorem setWindow_ruled (i : SegId) (a : Nat × Nat) : (setWindowBody s i a).Leaves (Ruled s) := by
  unfold setWindowBody
  repeat' split
  all_goals simp only [Reply.leaves_refuse, Reply.leaves_done]
  · exact .floorHall (wake_scopes _ i)
  · exact .floorHall (moveWindow_scopes _ i _ _ _)

theorem grant_ruled (i : SegId) (a : Byte × Byte × Byte) : (grantBody s i a).Leaves (Ruled s) := by
  simp only [grantBody]
  repeat' split
  all_goals simp only [Reply.leaves_refuse, Reply.leaves_done]
  all_goals exact .floorHall (scopes_of_core (by simp [bumpGrant]))

theorem grantNext_ruled (i : SegId) (a : Unit) : (grantNextBody s i a).Leaves (Ruled s) := by
  simp only [grantNextBody]
  repeat' split
  all_goals simp only [Reply.leaves_refuse, Reply.leaves_done]
  refine .floorHall (scopes_of_core ?_)
  cases e : selectOnce s.hall i with
  | none => rfl
  | some g => exact selectOnce_core e

theorem drop_ruled (i : SegId) (a : Byte × Byte) : (dropBody s i a).Leaves (Ruled s) := by
  unfold dropBody
  repeat' split
  all_goals simp only [Reply.leaves_refuse, Reply.leaves_done]
  · exact .floorHall (scopes_of_core (by simp))
  · exact .floorHall (scopes_of_core (by simp))
  · exact .floorHall (scopes_of_core (by simp))
  · exact .refl s

theorem cancelRequest_ruled (i : SegId) (a : Byte × Byte) : (cancelRequestBody s i a).Leaves (Ruled s) := by
  unfold cancelRequestBody
  repeat' split
  all_goals simp only [Reply.leaves_refuse, Reply.leaves_done]
  exact .floorHall (scopes_of_core (by simp))

theorem elevate_ruled (i : SegId) (a : Option (Byte × Byte)) : (elevateBody s i a).Leaves (Ruled s) := by
  unfold elevateBody
  repeat' split
  all_goals simp only [Reply.leaves_refuse, Reply.leaves_done]
  all_goals exact .withHall (setElevated_scopes _ _ _)

theorem allOff_ruled (i : SegId) (a : Unit) : (allOffBody s i a).Leaves (Ruled s) :=
  (Reply.leaves_done _ _ _).2 (.floorHall (scopes_of_core (allOff_core _ _)))

theorem stageGain_ruled (i : SegId) (a : Byte × Byte × Nat) : (stageGainBody s i a).Leaves (Ruled s) := by
  simp only [stageGainBody]
  repeat' split
  all_goals simp only [Reply.leaves_refuse, Reply.leaves_done]
  exact .withHall rfl

theorem applyGains_ruled (i : SegId) (a : Unit) : (applyGainsBody s i a).Leaves (Ruled s) := by
  unfold applyGainsBody
  repeat' split
  all_goals simp only [Reply.leaves_refuse, Reply.leaves_done]
  exact .withHall rfl

theorem speakLimitWarning_ruled (u : UnitId) : Yields (Ruled s) (execSpeakLimitWarning u s) := by
  unfold execSpeakLimitWarning
  split
  · exact (yields_next _).2 (.withHall (scopes_of_core (by simp)))
  · exact (yields_next _).2 (.refl s)

theorem speakLimitExpiry_ruled (u : UnitId) : Yields (Ruled s) (execSpeakLimitExpiry u s) := by
  unfold execSpeakLimitExpiry
  split
  · exact (yields_next _).2 (.floorHall (scopes_of_core (by simp)))
  · exact (yields_next _).2 (.refl s)

theorem idleTimerExpiry_ruled (i : SegId) : Yields (Ruled s) (execIdleTimerExpiry i s) := by
  unfold execIdleTimerExpiry
  repeat' split
  all_goals rw [yields_next]
  · exact .withHall (by simp)
  · exact .refl s
  · exact .refl s

/-! ## Booths and radiators -/

theorem defineBooth_ruled (a : Byte × BoothDefinition) : (defineBoothBody s a).Leaves (Ruled s) := by
  simp only [defineBoothBody]
  repeat' split
  all_goals simp only [Reply.leaves_refuse, Reply.leaves_done]
  all_goals exact .withHall (by simp [redefineBooth])

theorem boothState_ruled (a : Byte × Byte) : (boothStateBody s a).Leaves (Ruled s) := by
  simp only [boothStateBody]
  repeat' split
  all_goals simp only [Reply.leaves_refuse, Reply.leaves_done]
  · exact .refl s
  · exact .floorHall (goLive_scopes _ _ _)
  · exact .floorHall (leaveLive_scopes _ _ _)
  · exact .refl s

theorem boothOutput_ruled (a : Byte × Byte) : (boothOutputBody s a).Leaves (Ruled s) := by
  simp only [boothOutputBody]
  repeat' split
  all_goals simp only [Reply.leaves_refuse, Reply.leaves_done]
  · exact .refl s
  · exact .floorHall (by simp)
  · exact .withHall (by simp)

theorem boothMic_ruled (a : Byte × Byte) : (boothMicBody s a).Leaves (Ruled s) := by
  unfold boothMicBody
  split
  · exact (Reply.leaves_done _ _ _).2 (.floorHall (storeMic_scopes _ _ _))
  · simp

theorem boothGain_ruled (a : Byte × Nat) : (boothGainBody s a).Leaves (Ruled s) := by
  unfold boothGainBody
  split
  · simp
  · exact (Reply.leaves_done _ _ _).2 (.withHall rfl)

theorem repin_scopes (h : Hall) (i : SegId) (b : BoothId) (x : Booth) : (repin h i b x).scopes = h.scopes :=
  reevaluate_scopes _ _

theorem pinSource_ruled (a : Byte × Byte) : (pinSourceBody s a).Leaves (Ruled s) := by
  simp only [pinSourceBody]
  repeat' split
  all_goals simp only [Reply.leaves_refuse, Reply.leaves_done]
  all_goals first | exact .refl s | exact .withHall (repin_scopes _ _ _ _)

theorem unpinSource_ruled (a : Byte) : (unpinSourceBody s a).Leaves (Ruled s) := by
  simp only [unpinSourceBody]
  repeat' split
  all_goals simp only [Reply.leaves_refuse, Reply.leaves_done]
  · exact .refl s
  · exact .withHall rfl
  · exact .withHall (repin_scopes _ _ _ _)

theorem setRadiators_ruled (a : List (Byte × Byte)) : (setRadiatorsBody s a).Leaves (Ruled s) := by
  unfold setRadiatorsBody
  split
  · simp
  · exact (Reply.leaves_done _ _ _).2 (.withHall (storeRadiators_scopes _ _))

/-! ## The mix engine -/

theorem endRamp_ruled (r : SlotRef) (e : Entry) (rp : Ramp) : Ruled s (endRamp s r e rp) := by
  simp only [endRamp]
  repeat' split
  · exact .withHall rfl
  · exact .withHall rfl
  · exact .floorHall (scopes_of_core (by simp))
  · refine .trans (t := { s with mix := s.mix.entryLeft r e.unit }) ⟨rfl, .refl _⟩ ?_
    exact .trans (.floorHall (scopes_of_core (closingDone_core _ _ _))) (drainTest_ruled _)
  · exact .withHall rfl

theorem rampEnd_ruled (t : TrunkId) (k : SlotIx) : Yields (Ruled s) (execRampEnd t k s) := by
  simp only [execRampEnd]
  repeat' split
  all_goals rw [yields_next]
  · exact endRamp_ruled s _ _ _
  · exact .refl s
  · exact .refl s

@[simp] theorem clipRoom_scopes (h : Hall) (i : SegId) : (clipRoom h i).scopes = h.scopes := by
  simp [clipRoom]

theorem endBlock_ruled : Ruled s (endBlock s) := ⟨fold_scopes _ clipRoom_scopes _, .refl _⟩

theorem mixBlockEnd_ruled : Yields (Ruled s) (execMixBlockEnd s) := by
  unfold execMixBlockEnd
  split
  · exact (yields_next _).2 (endBlock_ruled s)
  · exact (yields_next _).2 (.refl s)

/-! ## Reads, segment defaults and the ports' own commands -/

theorem readWalls_ruled (a : Option Byte) : (readWallsBody s a).Leaves (Ruled s) := by
  unfold readWallsBody
  repeat' split
  all_goals simp only [Reply.leaves_refuse, Reply.leaves_done, Ruled.refl]

theorem readRoom_ruled (a : Byte × Byte) : (readRoomBody s a).Leaves (Ruled s) := by
  unfold readRoomBody
  repeat' split
  all_goals simp only [Reply.leaves_refuse, Reply.leaves_done, Ruled.refl]

theorem readQueue_ruled (a : Byte) : (readQueueBody s a).Leaves (Ruled s) := by
  unfold readQueueBody
  repeat' split
  all_goals simp only [Reply.leaves_refuse, Reply.leaves_done, Ruled.refl]

theorem readUnit_ruled (a : Byte × Byte) : (readUnitBody s a).Leaves (Ruled s) := by
  unfold readUnitBody
  split
  all_goals simp only [Reply.leaves_refuse, Reply.leaves_done, Ruled.refl]

theorem readBooth_ruled (a : Option Byte) : (readBoothBody s a).Leaves (Ruled s) := by
  unfold readBoothBody
  repeat' split
  all_goals simp only [Reply.leaves_refuse, Reply.leaves_done, Ruled.refl]

theorem readTrunk_ruled (a : Byte × Byte) : (readTrunkBody s a).Leaves (Ruled s) := by
  unfold readTrunkBody
  split
  · simp
  · rw [Reply.leaves_done]
    split
    · exact .setTrunk s _ _
    · exact .refl s

theorem setDefaults_ruled (a : Byte × List (Nat × FieldValue)) : (setDefaultsBody s a).Leaves (Ruled s) := by
  simp only [setDefaultsBody]
  repeat' split
  all_goals simp only [Reply.leaves_refuse, Reply.leaves_done]
  · exact ⟨rfl, .refl _⟩
  · exact .trans (.ofScanner s _) (.raised _ _ _)

theorem setLeadRank_ruled (a : Byte × Byte) : (setLeadRankBody s a).Leaves (Ruled s) := by
  simp only [setLeadRankBody]
  repeat' split
  all_goals simp only [Reply.leaves_refuse, Reply.leaves_done]
  · exact ⟨rfl, .refl _⟩
  · exact .trans (.ofScanner s _) (.raised _ _ _)

theorem setTimes_ruled (a : Nat × Nat × Nat) : (setTimesBody s a).Leaves (Ruled s) :=
  (Reply.leaves_done _ _ _).2 ⟨rfl, .same rfl rfl rfl⟩

theorem lockWalls_ruled (a : Unit) : (lockWallsBody s a).Leaves (Ruled s) := by
  unfold lockWallsBody
  split
  · exact (Reply.leaves_done _ _ _).2 (.refl s)
  · exact (Reply.leaves_done _ _ _).2 (.trans (.ofScanner s _) (.raised _ _ _))

theorem readFlags_ruled (p : PortId) (a : Unit) : (readFlagsBody s p a).Leaves (Ruled s) := by
  simp only [readFlagsBody, Reply.leaves_done]
  split
  · exact .setPort rfl
  · exact .refl s

theorem ackFlags_ruled (p : PortId) (a : Byte) : (ackFlagsBody s p a).Leaves (Ruled s) := by
  unfold ackFlagsBody
  split
  · simp
  · exact (Reply.leaves_done _ _ _).2 (.setPort rfl)

theorem setAttention_ruled (p : PortId) (a : Byte × Byte × Byte) : (setAttentionBody s p a).Leaves (Ruled s) := by
  unfold setAttentionBody
  repeat' split
  all_goals simp only [Reply.leaves_refuse, Reply.leaves_done]
  exact .setPort rfl

/-! ## Every command but those that write scopes or maps -/

/-- The commands and events that may write scopes, or the maps and what else decides on a regroup. -/
def mayRule : Instr → Bool
  | .fullReset _ => true
  | .contactEvent _ _ _ => true
  | .settleTimerExpiry _ => true
  | .stuckTimerExpiry _ => true
  | .mixBlockStart => true
  | .defineWall _ _ _ => true
  | .wallOverride _ _ _ => true
  | .assignScope _ _ _ => true
  | .claimSegments _ _ _ => true
  | .releaseSegments _ _ _ => true
  | .wordClockPeriod _ => true
  | _ => false

/-- Every other command and event keeps the scopes and lets the regroup go on. -/
theorem exec_ruled (c : Instr) (hc : mayRule c = false) : Yields (Ruled s) (exec c s) := by
  cases c with
  | fullReset _ | contactEvent _ _ _ | settleTimerExpiry _ | stuckTimerExpiry _ | mixBlockStart | defineWall _ _ _
  | wallOverride _ _ _ | assignScope _ _ _ | claimSegments _ _ _ | releaseSegments _ _ _ | wordClockPeriod _ => cases hc
  | deadlineExpiry => exact deadlineExpiry_ruled s
  | rampEnd t k => exact rampEnd_ruled s t k
  | mixBlockEnd => exact mixBlockEnd_ruled s
  | senseLineChange t b => exact senseLineChange_ruled s t b
  | overcurrent t => exact overcurrent_ruled s t
  | pollRoundStart t => exact pollRoundStart_ruled s t
  | pollReply t rx => exact pollReply_ruled s t rx
  | roundEnd t => exact roundEnd_ruled s t
  | confirmationCountExpiry u => exact confirmationCountExpiry_ruled s u
  | handOverTaken t => exact handOverTaken_ruled s t
  | speakLimitWarning u => exact speakLimitWarning_ruled s u
  | speakLimitExpiry u => exact speakLimitExpiry_ruled s u
  | idleTimerExpiry i => exact idleTimerExpiry_ruled s i
  | attentionPulseEnd p => exact (yields_next _).2 (.setPort rfl)
  | failedFrame p tag => exact (yields_next _).2 (.setAnswer s _ _ _ _)
  | unknownCommand p code tag l => exact (yields_next _).2 (.setAnswer s _ _ _ _)
  | lockWalls p tag l => exact takeCommand_ruled (lockWalls_ruled s)
  | setSegmentDefaults p tag l => exact takeCommand_ruled (setDefaults_ruled s)
  | setLeadRank p tag l => exact takeCommand_ruled (setLeadRank_ruled s)
  | setRegroupTimes p tag l => exact takeCommand_ruled (setTimes_ruled s)
  | forceRegroup p tag l => exact takeCommand_ruled (forceRegroup_ruled s)
  | setUnit p tag l => exact takeCommand_ruled (setUnit_ruled s)
  | trunkPower p tag l => exact takeCommand_ruled (trunkPower_ruled s)
  | setRollcall p tag l => exact takeCommand_ruled (setRollcall_ruled s)
  | setRadiators p tag l => exact takeCommand_ruled (setRadiators_ruled s)
  | reinit p tag l => exact takeCommand_ruled fun _ => (Reply.leaves_done _ _ _).2 (.setPort rfl)
  | setRoom p tag l => exact takeRoomCommand_ruled (setRoom_ruled s)
  | setWindow p tag l => exact takeRoomCommand_ruled (setWindow_ruled s)
  | grant p tag l => exact takeRoomCommand_ruled (grant_ruled s)
  | grantNext p tag l => exact takeRoomCommand_ruled (grantNext_ruled s)
  | drop p tag l => exact takeRoomCommand_ruled (drop_ruled s)
  | cancelRequest p tag l => exact takeRoomCommand_ruled (cancelRequest_ruled s)
  | elevate p tag l => exact takeRoomCommand_ruled (elevate_ruled s)
  | allOff p tag l => exact takeRoomCommand_ruled (allOff_ruled s)
  | stageGain p tag l => exact takeRoomCommand_ruled (stageGain_ruled s)
  | applyGains p tag l => exact takeRoomCommand_ruled (applyGains_ruled s)
  | regroupAnswer p tag l => exact takeCommand_ruled (regroupAnswer_ruled s p)
  | defineBooth p tag l => exact takeCommand_ruled (defineBooth_ruled s)
  | boothState p tag l => exact takeCommand_ruled (boothState_ruled s)
  | boothOutput p tag l => exact takeCommand_ruled (boothOutput_ruled s)
  | boothMic p tag l => exact takeCommand_ruled (boothMic_ruled s)
  | boothGain p tag l => exact takeCommand_ruled (boothGain_ruled s)
  | pinSource p tag l => exact takeCommand_ruled (pinSource_ruled s)
  | unpinSource p tag l => exact takeCommand_ruled (unpinSource_ruled s)
  | readWalls p tag l => exact takeCommand_ruled (readWalls_ruled s)
  | readRegroup p tag l => exact takeCommand_ruled fun _ => (Reply.leaves_done _ _ _).2 (.refl s)
  | readRoom p tag l => exact takeCommand_ruled (readRoom_ruled s)
  | readQueue p tag l => exact takeCommand_ruled (readQueue_ruled s)
  | readUnit p tag l => exact takeCommand_ruled (readUnit_ruled s)
  | readBooth p tag l => exact takeCommand_ruled (readBooth_ruled s)
  | readTrunk p tag l => exact takeCommand_ruled (readTrunk_ruled s)
  | readFlags p tag l => exact takeCommand_ruled (readFlags_ruled s p)
  | ackFlags p tag l => exact takeCommand_ruled (ackFlags_ruled s p)
  | setAttention p tag l => exact takeCommand_ruled (setAttention_ruled s p)
  | linkReset p tag l => exact takeCommand_ruled fun _ => (Reply.leaves_done _ _ _).2 (.setPort rfl)
  | pollSend t => exact pollSend_ruled s t

end Sys2Proof.Machine
end

section
/-! The maps stay sound, and the rooms of the active map stay but at a block start and a full reset (O17; R22, R26, R38,
R46). -/

namespace Sys2Proof.Machine

/-! ## The active map -/

/-- The segments and the lead of every room. -/
def Hall.seating (h : Hall) : SegId → Option (SegSet × SegId) := fun i => (h.room i).map fun r => (r.segs, r.lead)

theorem seating_of_layout {g h : Hall} (e : g.layout = h.layout) : g.seating = h.seating := by
  have proj (k : Hall) (i : SegId) : k.seating i = (k.layout i).map fun c => (c.1, c.2.1) := by
    simp only [Hall.seating, Hall.layout, Option.map_map]
    rfl
  funext i
  rw [proj, proj, e]

theorem activeMap_of_seating {g h : Hall} (e : g.seating = h.seating) : g.activeMap = h.activeMap := by
  have proj (k : Hall) (i : SegId) : ((k.room i).map fun r => ({ id := i, segs := r.segs, lead := r.lead } : MapRoom)) =
      (k.seating i).map fun c => { id := i, segs := c.1, lead := c.2 } := by
    simp only [Hall.seating, Option.map_map]
    rfl
  simp only [Hall.activeMap, proj, e]

theorem activeMap_of_layout {g h : Hall} (e : g.layout = h.layout) : g.activeMap = h.activeMap :=
  activeMap_of_seating (seating_of_layout e)

theorem mem_activeMap {h : Hall} {y : MapRoom} :
    y ∈ h.activeMap ↔ ∃ r, h.room y.id = some r ∧ y.segs = r.segs ∧ y.lead = r.lead := by
  simp only [Hall.activeMap, List.mem_filterMap, Option.map_eq_some_iff]
  constructor
  · rintro ⟨i, -, r, hr, rfl⟩
    exact ⟨r, hr, rfl, rfl⟩
  · rintro ⟨r, hr, segs, lead⟩
    exact ⟨y.id, List.mem_finRange _, r, hr, by rw [← segs, ← lead]⟩

theorem activeMap_pairwise (h : Hall) : h.activeMap.Pairwise fun y z => y.id < z.id := by
  rw [Hall.activeMap, List.pairwise_filterMap]
  refine (List.pairwise_lt_finRange 8).imp fun {i j} hij y hy z hz => ?_
  obtain ⟨r, -, rfl⟩ := Option.map_eq_some_iff.1 hy
  obtain ⟨r', -, rfl⟩ := Option.map_eq_some_iff.1 hz
  exact hij

/-- Lists sorted by a key that have the same members are the same. -/
theorem eq_of_sorted {β : Type} {key : β → SegId} {l l' : List β} (hl : l.Pairwise fun a b => key a < key b)
    (hl' : l'.Pairwise fun a b => key a < key b) (mem : ∀ a, a ∈ l ↔ a ∈ l') : l = l' := by
  have antisymm : Std.Antisymm fun a b : β => key a < key b := ⟨fun _ _ h h' => absurd h (lt_asymm h')⟩
  have irrefl : Std.Irrefl fun a b : β => key a < key b := ⟨fun _ => lt_irrefl _⟩
  exact List.Subset.antisymm_of_pairwise hl hl' (fun a => (mem a).1) fun a => (mem a).2

/-- The rooms of a map with strictly ascending ids are told apart by them. -/
theorem eq_of_ids {p : List MapRoom} (hp : p.Pairwise fun a b => a.id < b.id) {y z : MapRoom} (hy : y ∈ p) (hz : z ∈ p)
    (e : y.id = z.id) : y = z := by
  have symm : Std.Symm fun y z : MapRoom => y.id ≠ z.id := ⟨fun y z h => h.symm⟩
  by_contra c
  exact (hp.imp ne_of_lt).forall hy hz c e

/-! ## Rooms replaced -/

section
variable {h : Hall} {x : SegSet} {p : List MapRoom} {build : MapRoom → Room}

/-- The rooms of a map that have a segment of `x`. -/
def touching (x : SegSet) (p : List MapRoom) : List MapRoom := p.filter fun m => (m.segs &&& x) ≠ 0

theorem mem_touching {m : MapRoom} : m ∈ touching x p ↔ m ∈ p ∧ (m.segs &&& x) ≠ 0 := by
  rw [touching, List.mem_filter, decide_eq_true_eq]

/-- A room built stands in the place of its id. -/
theorem replaceRooms_built {ms : List MapRoom} (hp : (ms.map (·.id)).Nodup) {m : MapRoom} (hm : m ∈ ms) :
    (replaceRooms h x ms build).room m.id = some (build m) := by
  have found : ms.find? (fun y => decide (y.id = m.id)) = some m := by
    cases e : ms.find? fun y => decide (y.id = m.id) with
    | none => exact absurd (decide_eq_true rfl) (List.find?_eq_none.1 e m hm)
    | some y =>
      have hy : y.id = m.id := by simpa using List.find?_some e
      rw [List.inj_on_of_nodup_map hp (List.mem_of_find?_eq_some e) hm hy]
  simp only [replaceRooms, Hall.room, Fin.getElem_fin, tab_getElem, Fin.eta]
  rw [found]

/-- Where no room is built, a room that shares no segment with `x` stays, and any other goes. -/
theorem replaceRooms_kept {ms : List MapRoom} {i : SegId} (hi : ∀ m ∈ ms, m.id ≠ i) :
    (replaceRooms h x ms build).room i = (h.room i).filter fun r => (r.segs &&& x) = 0 := by
  have found : ms.find? (fun y => decide (y.id = i)) = none := by simpa using hi
  simp only [replaceRooms, Hall.room, Fin.getElem_fin, tab_getElem, Fin.eta]
  rw [found]
  cases h.rooms[i.val] with
  | none => rfl
  | some r =>
    by_cases hr : (r.segs &&& x) = 0
    · exact (if_neg (not_not.2 hr)).trans (Option.filter_some_pos (a := r) (decide_eq_true hr)).symm
    · exact (if_pos hr).trans (Option.filter_some_neg (by simpa using hr)).symm

theorem ids_nodup (hp : p.Pairwise fun a b => a.id < b.id) : (p.map (·.id)).Nodup :=
  List.pairwise_map.2 (hp.imp ne_of_lt)

/-- The hall's rooms and the map's agree outside `x`. -/
def Hall.agrees (h : Hall) (x : SegSet) (p : List MapRoom) : Prop := ∀ i y, (y &&& x) = 0 →
  ((∃ r, h.room i = some r ∧ r.segs = y) ↔ ∃ m ∈ p, m.id = i ∧ m.segs = y)

/-- Where the hall and the map agree outside `x`, and the map's rooms with a segment of `x` are built, the rooms are
those of the map (R38). -/
theorem replaceRooms_activeMap (hp : p.Pairwise fun a b => a.id < b.id) (agree : h.agrees x p)
    (hb : ∀ m, (build m).segs = m.segs) :
    idSets (replaceRooms h x (touching x p) build).activeMap = idSets p := by
  refine eq_of_sorted (key := Prod.fst) (List.pairwise_map.2 (activeMap_pairwise _)) (List.pairwise_map.2 hp) fun c => ?_
  simp only [idSets, List.mem_map]
  constructor
  · rintro ⟨y, hy, rfl⟩
    obtain ⟨r, hr, segs, -⟩ := mem_activeMap.1 hy
    rcases replaceRooms_cases hr with ⟨m, hm, hid, rfl⟩ | ⟨hold, hx⟩
    · exact ⟨m, (mem_touching.1 hm).1, by rw [hid, segs, hb]⟩
    · obtain ⟨m, hm, hid, hs⟩ := (agree y.id r.segs hx).1 ⟨r, hold, rfl⟩
      exact ⟨m, hm, by rw [hid, hs, segs]⟩
  · rintro ⟨m, hm, rfl⟩
    by_cases hx : (m.segs &&& x) = 0
    · obtain ⟨r, hr, hs⟩ := (agree m.id m.segs hx).2 ⟨m, hm, rfl, rfl⟩
      have apart : ∀ y ∈ touching x p, y.id ≠ m.id := fun y hy e => by
        obtain ⟨hyp, hyx⟩ := mem_touching.1 hy
        rw [eq_of_ids hp hyp hm e] at hyx
        exact hyx hx
      have stays : (replaceRooms h x (touching x p) build).room m.id = some r := by
        rw [replaceRooms_kept apart, hr, Option.filter_some, if_pos (by rw [hs, hx]; rfl)]
      exact ⟨{ m with lead := r.lead }, mem_activeMap.2 ⟨r, stays, hs.symm, rfl⟩, rfl⟩
    · have built := replaceRooms_built (h := h) (x := x) (build := build) (ids_nodup (hp.filter _))
        (mem_touching.2 ⟨hm, hx⟩)
      exact ⟨{ m with lead := (build m).lead }, mem_activeMap.2 ⟨_, built, (hb m).symm, rfl⟩, rfl⟩

/-- Where every room goes, the rooms are those built (R48). -/
theorem replaceRooms_all (hp : p.Pairwise fun a b => a.id < b.id) (seated : h.seated)
    (hb : ∀ m, (build m).segs = m.segs ∧ (build m).lead = m.lead) :
    (replaceRooms h allSegs p build).activeMap = p := by
  refine eq_of_sorted (key := MapRoom.id) (activeMap_pairwise _) hp fun y => ?_
  rw [mem_activeMap]
  constructor
  · rintro ⟨r, hr, segs, lead⟩
    rcases replaceRooms_cases hr with ⟨m, hm, hid, rfl⟩ | ⟨hold, hx⟩
    · rw [(hb m).1] at segs
      rw [(hb m).2] at lead
      have : y = m := by
        cases y; cases m
        simp_all
      exact this ▸ hm
    · exact absurd ((show r.segs &&& allSegs = r.segs from BitVec.and_allOnes).symm.trans hx) (seated _ r hold)
  · exact fun hy => ⟨_, replaceRooms_built (ids_nodup hp) hy, (hb y).1.symm, (hb y).2.symm⟩

/-- Maps that divide the segments agree outside the affected set (R26). -/
theorem agrees_of_divides (ha : dividesSegs h.activeMap) (hp : dividesSegs p) :
    h.agrees (affectedSet h.activeMap p) p := by
  have same {a b : List MapRoom} (wa : dividesSegs a) (wb : dividesSegs b) {y : MapRoom} (hy : y ∈ a)
      (hs : ∀ sg, inSet y.segs sg = true → companions a sg = companions b sg) :
      ∃ z ∈ b, z.id = y.id ∧ z.segs = y.segs := by
    obtain ⟨idy, -, lowy⟩ := wa.2.1 y hy
    obtain ⟨z, hz, hin⟩ := wb.1 y.id
    have segs : z.segs = y.segs := by
      rw [← companions_of_divides wb hz hin, ← hs _ idy, companions_of_divides wa hy idy]
    obtain ⟨idz, -, lowz⟩ := wb.2.1 z hz
    exact ⟨z, hz, le_antisymm (lowz _ hin) (lowy _ (segs ▸ idz)), segs⟩
  have outside {y : SegSet} (hy : (y &&& affectedSet h.activeMap p) = 0) (sg : SegId) (hs : inSet y sg = true) :
      companions h.activeMap sg = companions p sg := by
    by_contra c
    exact and_ne_zero_iff.2 ⟨sg, hs, (mem_affectedSet _ _ sg).2 c⟩ hy
  intro i y hy
  constructor
  · rintro ⟨r, hr, rfl⟩
    exact same (y := { id := i, segs := r.segs, lead := r.lead }) ha hp (mem_activeMap.2 ⟨r, hr, rfl, rfl⟩)
      (outside hy)
  · rintro ⟨m, hm, rfl, rfl⟩
    obtain ⟨z, hz, hid, segs⟩ := same hp ha hm fun sg hs => (outside hy sg hs).symm
    obtain ⟨r, hr, hs, -⟩ := mem_activeMap.1 hz
    exact ⟨r, hid ▸ hr, hs.symm.trans segs⟩

/-- A map with the ids and sets of one that divides the segments divides them, where the leads are in their sets. -/
theorem divides_of_idSets {a b : List MapRoom} (hb : dividesSegs b) (e : idSets a = idSets b)
    (lead : ∀ y ∈ a, inSet y.segs y.lead = true) : dividesSegs a := by
  have like : ∀ y ∈ a, ∃ z ∈ b, z.id = y.id ∧ z.segs = y.segs := fun y hy => by
    have hm : (y.id, y.segs) ∈ idSets b := e ▸ List.mem_map.2 ⟨y, hy, rfl⟩
    obtain ⟨z, hz, h⟩ := List.mem_map.1 hm
    exact ⟨z, hz, congrArg Prod.fst h, congrArg Prod.snd h⟩
  refine ⟨fun sg => ?_, fun y hy => ?_, ?_⟩
  · obtain ⟨z, hz, hs⟩ := hb.1 sg
    have hm : (z.id, z.segs) ∈ idSets a := e ▸ List.mem_map.2 ⟨z, hz, rfl⟩
    obtain ⟨y, hy, h⟩ := List.mem_map.1 hm
    have segs : y.segs = z.segs := congrArg Prod.snd h
    exact ⟨y, hy, segs ▸ hs⟩
  · obtain ⟨z, hz, hid, hs⟩ := like y hy
    obtain ⟨idz, -, lowz⟩ := hb.2.1 z hz
    exact ⟨hid ▸ hs ▸ idz, lead y hy, hid ▸ hs ▸ lowz⟩
  · have pairs : (idSets b).Pairwise fun c d => c.1 < d.1 ∧ (c.2 &&& d.2) = 0 := List.pairwise_map.2 hb.2.2
    exact List.pairwise_map.1 (e ▸ pairs)

end

end Sys2Proof.Machine
end

section
/-! Every step keeps the scopes of the consoles apart and the maps sound, and the active map changes only at a block start
(O15, O17). -/

namespace Sys2Proof.Machine

/-! ## What the course of the regroup keeps of the maps -/

theorem Regroup.goesOn.engaged {a b : Regroup} (k : a.goesOn b) (h : b.engaged) : a.engaged := by
  rcases k.state with e | e | ⟨ea, -⟩
  · exact (Regroup.goesOn.engaged_of_state e).1 h
  · rw [Regroup.engaged, e] at h
    simp at h
  · exact ea

theorem Regroup.goesOn.steady {a b : Regroup} (k : a.goesOn b) (h : b.state = .steady) : a.state = .steady := by
  rcases k.state with e | e | ⟨-, eb⟩
  · exact e ▸ h
  · rw [e] at h
    cases h
  · rw [Regroup.engaged, h] at eb
    simp at eb

/-- While the regroup goes on and the active map stays, the maps stay sound. -/
theorem Ruled.mapsOk {s t : State} (k : Ruled s t) (e : t.hall.seating = s.hall.seating) (w : s.mapsOk) : t.mapsOk := by
  have map := activeMap_of_seating e
  obtain ⟨active, pending, affected, steady⟩ := w
  refine ⟨map ▸ active, k.regroup.pendingMap ▸ pending, fun h => ?_, fun h => ?_⟩
  · rw [map, k.regroup.pendingMap, k.regroup.affected]
    exact affected (k.regroup.engaged h)
  · rw [map, k.regroup.pendingMap]
    exact steady (k.regroup.steady h)

/-- From `s` to `t` the scopes are kept, and sound maps stay sound. -/
structure Mapped (s t : State) : Prop where
  scopes : t.hall.scopes = s.hall.scopes
  maps   : s.mapsOk → t.mapsOk

namespace Mapped
variable {s t : State}

theorem of_ruled (k : Ruled s t) (e : t.hall.seating = s.hall.seating) : Mapped s t := ⟨k.scopes, k.mapsOk e⟩

theorem refl (s : State) : Mapped s s := ⟨rfl, id⟩

theorem trans {u : State} (a : Mapped s t) (b : Mapped t u) : Mapped s u :=
  ⟨b.scopes.trans a.scopes, fun w => b.maps (a.maps w)⟩

theorem raised (s : State) (f : Flag) (x : SegSet) : Mapped s (s.raised f x) := of_ruled (.raised s f x) rfl

theorem sweep (s : State) : Mapped s s.sweep := of_ruled (.sweep s) (seating_of_layout (idleSweep_layout _))

theorem setWall (s : State) (w : WallId) (x : Wall) : Mapped s (s.setWall w x) := ⟨rfl, id⟩

theorem setAnswer (s : State) (p : PortId) (tag : Byte) (st : Status) (l : List Byte) :
    Mapped s (setAnswer s p tag st l) := of_ruled (.setAnswer s p tag st l) rfl

theorem wallChange (s : State) : Mapped s (wallChange s) := of_ruled ⟨rfl, rfl, rfl, .inr (.inl rfl)⟩ rfl

end Mapped

/-! ## Rest reports -/

section
variable (s : State)

/-- A rest report leaves sound maps, whatever the regroup was (R25 to R27). -/
theorem restReport_mapsOk (w : dividesSegs s.hall.activeMap) : (restReport s).mapsOk := by
  have map : (restReport s).hall.activeMap = s.hall.activeMap :=
    activeMap_of_layout (layout_of_core (restReport_quiet s).core)
  have pending := restReport_pendingMap s
  rw [State.mapsOk, map, pending]
  refine ⟨w, computeMap_divides s.scanner, ?_⟩
  cases hm : sameMap (computeMap s.scanner) s.hall.activeMap with
  | true =>
    have rests : (restReport s).regroup.state = .steady := by
      cases ho : s.regroup.isOpen with
      | true => rw [restReport_abandon s hm ho]; rfl
      | false => rw [restReport_steady s hm ho]
    rw [rests]
    exact ⟨fun h => by simp at h, fun _ => (sameMap_iff _ _).1 hm⟩
  | false =>
    have round : (restReport s).regroup.affected = affectedSet s.hall.activeMap (computeMap s.scanner) ∧
        (restReport s).regroup.state ≠ .steady := by
      rw [restReport_differs s rfl hm]
      split
      · rw [enterDrain_eq, drainTest_regroup rfl]
        exact ⟨rfl, by dsimp only; split <;> simp⟩
      · exact ⟨rfl, by simp [consentRound]⟩
    exact ⟨fun _ => round.1, fun h => absurd h round.2⟩

theorem restIfAtRest_mapped : Mapped s (restIfAtRest s) := by
  refine ⟨scopes_of_core (restIfAtRest_quiet s).core, fun w => ?_⟩
  unfold restIfAtRest
  split
  · exact restReport_mapsOk s w.1
  · exact w

/-! ## Walls -/

theorem settledChanged_mapped (x y : Wall) : Mapped s (settledChanged s x y) := by
  simp only [settledChanged]
  refine .trans ?_ (restIfAtRest_mapped _)
  repeat' split
  · exact .refl s
  · exact .raised s _ _
  · exact .wallChange s
  · exact .trans (.raised s _ _) (.wallChange _)

theorem rewriteWall_mapped (w : WallId) (y : Wall) : Mapped s (rewriteWall s w y) :=
  .trans (.setWall s w y) (.trans (.wallChange _) (.trans (.raised _ _ _) (restIfAtRest_mapped _)))

theorem storeOverride_mapped (w : WallId) (o : Override) : Mapped s (storeOverride s w o) := by
  simp only [storeOverride]
  split
  · exact .refl s
  · refine .trans ?_ (.sweep _)
    split
    · exact .trans (.setWall s w _) (.raised _ _ _)
    · exact .trans (.setWall s w _) (.trans (.raised _ _ _) (.trans (.wallChange _) (restIfAtRest_mapped _)))

theorem contactEvent_mapped (w : WallId) (closed stowed : Bool) :
    Yields (Mapped s) (execContactEvent w closed stowed s) := by
  simp only [execContactEvent]
  repeat' split
  all_goals rw [yields_next]
  · exact .refl s
  · exact .setWall s w _
  · exact .trans (.setWall s w _) (.trans (.wallChange _) (.raised _ _ _))

theorem settleTimerExpiry_mapped (w : WallId) : Yields (Mapped s) (execSettleTimerExpiry w s) := by
  simp only [execSettleTimerExpiry]
  split
  · exact (yields_next _).2 (.trans (.setWall s w _) (.trans (settledChanged_mapped _ _ _) (.sweep _)))
  · exact (yields_next _).2 (.refl s)

theorem stuckTimerExpiry_mapped (w : WallId) : Yields (Mapped s) (execStuckTimerExpiry w s) := by
  simp only [execStuckTimerExpiry]
  split
  · exact (yields_next _).2 (.trans (.setWall s w _) (.trans (settledChanged_mapped _ _ _) (.sweep _)))
  · exact (yields_next _).2 (.refl s)

theorem defineWall_mapped (d : WallDefinition) : (defineWallBody s d).Leaves (Mapped s) := by
  simp only [defineWallBody]
  repeat' split
  all_goals simp only [Reply.leaves_refuse, Reply.leaves_done]
  · exact .refl s
  · exact .trans (rewriteWall_mapped s _ _) (.sweep _)
  · exact .refl s
  · exact .trans (rewriteWall_mapped s _ _) (.sweep _)

theorem wallOverride_mapped (a : Byte × Byte) : (wallOverrideBody s a).Leaves (Mapped s) := by
  unfold wallOverrideBody
  repeat' split
  all_goals simp only [Reply.leaves_refuse, Reply.leaves_done]
  exact storeOverride_mapped s _ _

/-! ## The rooms of the active map, but at a block start -/

theorem setRoom_seating (i : SegId) (fs : List (Nat × FieldValue)) :
    (setRoomBody s i fs).Leaves fun t => t.hall.seating = s.hall.seating := by
  unfold setRoomBody
  refine Reply.leaves_ifs (by simp) fun _ => ?_
  split
  · simp
  · next r hr =>
    rw [Reply.leaves_done]
    refine (seating_of_layout ((idleSweep_layout _).trans
      (layout_of_core ((setRoomHall_core _ _ _ _).trans (storeSettings_core _ hr _))))).trans ?_
    funext j
    by_cases hij : i = j
    · subst hij
      simp [Hall.seating, hr, Room.settled]
    · simp only [Hall.seating, Hall.setRoom_room_ne _ _ hij]

theorem setWindow_seating (i : SegId) (a : Nat × Nat) :
    (setWindowBody s i a).Leaves fun t => t.hall.seating = s.hall.seating := by
  unfold setWindowBody
  split
  · simp
  · next r hr =>
    repeat' split
    all_goals simp only [Reply.leaves_refuse, Reply.leaves_done]
    · exact seating_of_layout ((idleSweep_layout _).trans (wake_layout _ i))
    · refine (seating_of_layout ((idleSweep_layout _).trans (moveWindow_layout r a.1 a.2))).trans ?_
      funext j
      by_cases hij : i = j
      · subst hij
        simp [Hall.seating, hr]
      · simp only [Hall.seating, Hall.setRoom_room_ne _ _ hij]

/-- But for a full reset and a block start, the rooms of the active map keep their segments and leads. -/
theorem exec_seating (c : Instr) (reset : ∀ pins, c ≠ .fullReset pins) (start : c ≠ .mixBlockStart)
    (period : ∀ x, c ≠ .wordClockPeriod x) : Yields (fun t => t.hall.seating = s.hall.seating) (exec c s) := by
  have carried {t u : State} (k : Kept t u) (e : t.hall.seating = s.hall.seating) : u.hall.seating = s.hall.seating :=
    (seating_of_layout k.layout).trans e
  cases hc : mayRewrite c
  · exact fun t e => seating_of_layout (exec_kept s c hc t e).layout
  · rcases exec_ranged s c hc with h | ⟨pins, rfl⟩ | ⟨p, tag, l, rfl⟩ | ⟨p, tag, l, rfl⟩ | rfl | ⟨x, rfl⟩
    · exact fun t e => seating_of_layout (h t e).layout
    · exact absurd rfl (reset pins)
    · exact takeRoomCommand_yields carried rfl (setRoom_seating s)
    · exact takeRoomCommand_yields carried rfl (setWindow_seating s)
    · exact absurd rfl start
    · exact absurd rfl (period x)

/-! ## Scopes written -/

theorem scopesApart_iff {h : Hall} : h.scopesApart ↔ ∀ p q : PortId, p ≠ q → (h.scopes p).1 = .console →
    (h.scopes q).1 = .console → (h.scopes p).2 &&& (h.scopes q).2 = 0 := Iff.rfl

theorem scopesApart_of_scopes {g h : Hall} (e : g.scopes = h.scopes) (w : h.scopesApart) : g.scopesApart := by
  rw [scopesApart_iff, e]
  exact w

/-- The scope of one port is replaced by one that meets no other console's. -/
theorem setScope_apart {h : Hall} {p : PortId} {x : SegSet} (w : h.scopesApart)
    (free : ∀ q, q ≠ p → (h.ports[p]).role = .console → (h.ports[q]).role = .console → x &&& (h.ports[q]).scope = 0) :
    (setScope h p x).scopesApart := by
  intro a b hab
  rw [setScope_port, setScope_port]
  split
  · next ha =>
    subst ha
    rw [if_neg hab]
    exact free b hab.symm
  · split
    · next hb =>
      subst hb
      exact fun ra rb => (BitVec.and_comm _ _).trans (free a hab rb ra)
    · exact w a b hab

theorem and_or_eq_zero {x y z : SegSet} (hx : x &&& z = 0) (hy : y &&& z = 0) : (x ||| y) &&& z = 0 := by
  rw [BitVec.and_comm, BitVec.and_or_distrib_left, BitVec.and_comm, hx, BitVec.and_comm, hy]
  rfl

end

section
variable (s : State)

/-- A property kept by the answer of a command, and by what the command leaves, is kept by the command. -/
theorem takeCommand_leaves {α : Type} {p : PortId} {tag : Byte} {P : State → Prop}
    (answer : ∀ t p tag st l, P t → P (setAnswer t p tag st l)) {roles : List Role} {args : Option α} {body : α → Reply}
    (hs : P s) (hb : ∀ a, (body a).Leaves P) : Yields P (answerNext (takeCommand s p tag roles args body)) :=
  (yields_answerNext _).2 (takeCommand_keeps answer (fun a c l s' _ e => hb a c l s' e) hs)

theorem takeCommand_mapped {α : Type} {p : PortId} {tag : Byte} {roles : List Role} {args : Option α}
    {body : α → Reply} (hb : ∀ a, (body a).Leaves (Mapped s)) :
    Yields (Mapped s) (answerNext (takeCommand s p tag roles args body)) :=
  takeCommand_leaves s (fun _ _ _ _ _ k => k.trans (.setAnswer _ _ _ _ _)) (.refl s) hb

/-- A command on scopes keeps the maps and what decides on a regroup. -/
theorem takeCommand_seated {α : Type} {p : PortId} {tag : Byte} {roles : List Role} {args : Option α}
    {body : α → Reply} (hb : ∀ a, (body a).Leaves fun t => t.regroup = s.regroup ∧ t.hall.seating = s.hall.seating)
    (w : s.mapsOk) : Yields State.mapsOk (answerNext (takeCommand s p tag roles args body)) := by
  intro t e
  obtain ⟨regroup, seating⟩ := takeCommand_leaves s
    (P := fun t => t.regroup = s.regroup ∧ t.hall.seating = s.hall.seating) (fun _ _ _ _ _ k => k) ⟨rfl, rfl⟩ hb t e
  rw [State.mapsOk, regroup, activeMap_of_seating seating]
  exact w

theorem takeCommand_apart {α : Type} {p : PortId} {tag : Byte} {roles : List Role} {args : Option α}
    {body : α → Reply} (w : s.hall.scopesApart) (hb : ∀ a, (body a).Leaves fun t => t.hall.scopesApart) :
    Yields (fun t => t.hall.scopesApart) (answerNext (takeCommand s p tag roles args body)) :=
  takeCommand_leaves s (fun _ _ _ _ _ w => scopesApart_of_scopes (Ruled.setAnswer _ _ _ _ _).scopes w) w hb

theorem claim_seated (p : PortId) (x : Byte) :
    (claimBody s p x).Leaves fun t => t.regroup = s.regroup ∧ t.hall.seating = s.hall.seating := by
  simp only [claimBody]
  refine Reply.leaves_ifs (by simp) fun _ => ?_
  exact (Reply.leaves_done _ _ _).2 ⟨rfl, seating_of_layout (setConsoles_layout _ _)⟩

theorem assignScope_seated (a : Byte × Byte) :
    (assignScopeBody s a).Leaves fun t => t.regroup = s.regroup ∧ t.hall.seating = s.hall.seating := by
  unfold assignScopeBody
  repeat' split
  · simp
  · simp
  · exact (Reply.leaves_done _ _ _).2 ⟨rfl, seating_of_layout (setConsoles_layout _ _)⟩

/-- A claim takes what no other console holds (R173). -/
theorem claim_apart (p : PortId) (x : Byte) (w : s.hall.scopesApart) :
    (claimBody s p x).Leaves fun t => t.hall.scopesApart := by
  by_cases held : (x &&& heldByOthers s.hall p) ≠ 0
  · rw [claimBody_held held]
    simp
  · rw [claimBody_done held, Reply.leaves_done]
    refine scopesApart_of_scopes (scopes_of_cores (setScope_reconsoled _ _ _ _).ports) (setScope_apart w ?_)
    intro q hq hp hr
    refine and_or_eq_zero (w p q hq.symm hp hr) ?_
    by_contra meets
    exact held ((heldByOthers_meets _ _ _).2 ⟨q, hq, hr, meets⟩)

theorem and_inter_eq_zero {x y z : SegSet} (h : x &&& z = 0) : (x &&& y) &&& z = 0 := by
  rw [BitVec.and_assoc, BitVec.and_comm y, ← BitVec.and_assoc, h]
  exact BitVec.zero_and

theorem and_compl_eq_zero (x y : SegSet) : x &&& (y &&& ~~~x) = 0 := by
  rw [BitVec.and_comm y, ← BitVec.and_assoc, BitVec.and_not_self]
  exact BitVec.zero_and

/-- A release leaves a part of the scope (R174). -/
theorem release_apart (p : PortId) (x : Byte) (w : s.hall.scopesApart) :
    (releaseBody s p x).Leaves fun t => t.hall.scopesApart := by
  refine (Reply.leaves_done _ _ _).2 (scopesApart_of_scopes (scopes_of_cores (setScope_reconsoled _ _ _ _).ports)
    (setScope_apart w fun q hq hp hr => ?_))
  exact and_inter_eq_zero (w p q hq.symm hp hr)

/-- The venue's assignment takes the segments from every other console (R175). -/
theorem assignScopes_apart {h : Hall} (p : PortId) (x : SegSet) (w : h.scopesApart) :
    (assignScopes h p x).scopesApart := by
  intro a b hab
  rw [assignScopes_port, assignScopes_port]
  by_cases ha : a = p
  · have hb : b ≠ p := fun e => hab (ha.trans e.symm)
    rw [if_pos ha, if_neg hb]
    intro _
    split
    · exact fun _ => and_compl_eq_zero _ _
    · next hr => exact fun c => absurd c hr
  · rw [if_neg ha]
    by_cases hb : b = p
    · rw [if_pos hb]
      split
      · exact fun _ _ => (BitVec.and_comm _ _).trans (and_compl_eq_zero _ _)
      · next hr => exact fun c => absurd c hr
    · rw [if_neg hb]
      split
      · next ra =>
        split
        · next rb =>
          intro _ _
          refine and_inter_eq_zero ((BitVec.and_comm _ _).trans (and_inter_eq_zero ?_))
          exact (BitVec.and_comm _ _).trans (w a b hab ra rb)
        · next rb => exact fun _ c => absurd c rb
      · next ra => exact fun c => absurd c ra

theorem assignScope_apart (a : Byte × Byte) (w : s.hall.scopesApart) :
    (assignScopeBody s a).Leaves fun t => t.hall.scopesApart := by
  unfold assignScopeBody
  repeat' split
  · simp
  · simp
  · exact (Reply.leaves_done _ _ _).2 (scopesApart_of_scopes (scopes_of_cores (assignScopes_reconsoled _ _ _ _).ports)
      (assignScopes_apart _ _ w))

/-! ## The block start -/

@[simp] theorem settleBooths_scopes (before h : Hall) (i : SegId) : (settleBooths before h i).scopes = h.scopes := by
  simp only [settleBooths]
  repeat' split
  · rfl
  · rfl
  · rw [raiseRoom_scopes]
    exact scopes_of_ports rfl

@[simp] theorem clearLostPins_scopes (h : Hall) (i : SegId) : (clearLostPins h i).scopes = h.scopes := by
  simp only [clearLostPins]
  split
  · rfl
  · rw [raiseRoom_scopes]
    exact scopes_of_ports rfl

@[simp] theorem refileRoom_scopes (h : Hall) (i : SegId) : (refileRoom h i).scopes = h.scopes := by
  unfold refileRoom
  split
  · rfl
  · simp only [raiseRoom_scopes, mapRoom_scopes]
    exact scopes_of_core (by simp)

theorem commit_scopes : (commit s).hall.scopes = s.hall.scopes := by
  simp only [commit]
  refine (scopes_of_core (unfreeze_core _ _)).trans ((raise_scopes _ _ _).trans ?_)
  refine (fold_scopes _ (fun g i => raiseRoom_scopes g _ i) _).trans ((scopes_of_core (setFrozen_core _ _)).trans ?_)
  refine (fold_scopes _ reevaluate_scopes _).trans ((fold_scopes _ clearLostPins_scopes _).trans ?_)
  refine (fold_scopes _ (settleBooths_scopes s.hall) _).trans ((fold_scopes _ refileRoom_scopes _).trans ?_)
  exact scopes_of_ports rfl

theorem reinitFloor_scopes (h : Hall) : (reinitFloor h).scopes = h.scopes := by
  simp only [reinitFloor, raise_scopes]
  exact (scopes_of_core (fold_core _ (reinitUnit_core h) _)).trans (scopes_of_ports rfl)

theorem reinitApply_scopes : (reinitApply s).hall.scopes = s.hall.scopes := by
  simp only [reinitApply, raise_scopes]
  refine Eq.trans ?_ (reinitFloor_scopes s.hall)
  funext p
  simp [Hall.scopes, replaceRooms]

theorem applyRoomGains_scopes (h : Hall) (i : SegId) : (applyRoomGains h i).scopes = h.scopes := by
  unfold applyRoomGains
  repeat' split
  · exact (setRoom_scopes _ _ _).trans (fold_scopes h (fun g _ => setUnit_scopes g _ _) _)
  · rfl
  · rfl

theorem endIfMixed_ruled (r : SlotRef) : Ruled s (endIfMixed s r) := by
  unfold endIfMixed
  repeat' split
  · exact endRamp_ruled s _ _ _
  · exact .refl s
  · exact .refl s
  · exact .refl s

theorem settleBlock_ruled : Ruled s (settleBlock s) := by
  simp only [settleBlock]
  refine .trans (.fold endIfMixed_ruled allSlots s) ?_
  split
  · exact endBlock_ruled _
  · exact .refl _

theorem endSilent_ruled (r : SlotRef) : Ruled s (endSilent s r) := by
  unfold endSilent
  repeat' split
  · exact .trans (.withHall (scopes_of_core (closingDone_core _ _ _))) (drainTest_ruled _)
  · exact .refl s
  · exact .refl s

theorem setEntry_scopes (h : Hall) (r : SlotRef) (e : Option Entry) : (h.setEntry r e).scopes = h.scopes := rfl

theorem startRamps_scopes (h : Hall) (r : LatchedRoom) : (startRamps h r).scopes = h.scopes :=
  fold_scopes h (fun g _ => setEntry_scopes g _ _) r.entries

theorem latch_ruled : Ruled s (latch s) := ⟨fold_scopes _ startRamps_scopes _, .refl _⟩

theorem startBlock_ruled : Ruled (applyPending (settleBlock s)) (startBlock s) := by
  simp only [startBlock]
  refine .trans (.withHall (fold_scopes _ applyRoomGains_scopes allSegIds)) ?_
  exact .trans (.fold endSilent_ruled allSlots _) (.trans (.sweep _) (latch_ruled _))

theorem rebuiltRoom_seat (sc : Scanner) (h : Hall) (m : MapRoom) (p : Plan) :
    (rebuiltRoom sc h m p).segs = m.segs ∧ (rebuiltRoom sc h m p).lead = m.lead := by
  unfold rebuiltRoom
  split <;> exact ⟨rfl, rfl⟩

theorem restState_settled (sc : Scanner) : restState sc = .steady ∨ restState sc = .settling := by
  unfold restState
  split
  · exact .inl rfl
  · exact .inr rfl

/-- At a commit the pending map becomes the active map (R45). -/
theorem commit_pendingMap : (commit s).regroup.pendingMap = (commit s).hall.activeMap :=
  (activeMap_of_layout (layout_of_core (unfreeze_core _ _))).symm

/-- A commit that waits leaves sound maps: the active map is the pending one, but for leads (R38). -/
theorem commit_mapsOk (waits : s.regroup.state = .commitWait) (w : s.mapsOk) : (commit s).mapsOk := by
  obtain ⟨active, pending, affected, -⟩ := w
  have hx := affected (.inr (.inr waits))
  have map := activeMap_of_layout (commit_layout s)
  have divides : dividesSegs (commit s).hall.activeMap := by
    refine divides_of_idSets pending ?_ fun y hy => ?_
    · rw [map, hx]
      exact replaceRooms_activeMap (pending.2.2.imp And.left) (agrees_of_divides active pending)
        fun m => (rebuiltRoom_seat _ _ m _).1
    · rw [map] at hy
      obtain ⟨r, hr, segs, lead⟩ := mem_activeMap.1 hy
      rw [segs, lead]
      rcases replaceRooms_cases hr with ⟨m, hm, -, rfl⟩ | ⟨hold, -⟩
      · rw [(rebuiltRoom_seat _ _ m _).1, (rebuiltRoom_seat _ _ m _).2]
        exact (pending.2.1 m (mem_touching.1 hm).1).2.1
      · exact (active.2.1 { id := y.id, segs := r.segs, lead := r.lead } (mem_activeMap.2 ⟨r, hold, rfl, rfl⟩)).2.1
  rw [State.mapsOk, commit_pendingMap]
  refine ⟨divides, divides, fun h => ?_, fun _ => rfl⟩
  rcases restState_settled s.scanner with e | e <;>
    · rw [show (commit s).regroup.state = _ from e] at h
      simp at h

/-- REINIT leaves sound maps: both are the map of the moment (R48). -/
theorem reinitApply_activeMap (w : s.hall.seated) : (reinitApply s).hall.activeMap = computeMap s.scanner :=
  (activeMap_of_layout (reinitApply_layout s)).trans (replaceRooms_all ((computeMap_pairwise _).imp And.left)
    (seated_of_layout (reinitFloor_layout s.hall) w) fun _ => ⟨rfl, rfl⟩)

theorem reinitApply_mapsOk (w : s.hall.seated) : (reinitApply s).mapsOk := by
  have map := reinitApply_activeMap s w
  refine ⟨map ▸ computeMap_divides _, computeMap_divides _, fun h => ?_, fun _ => by rw [map]; rfl⟩
  rcases restState_settled s.scanner with e | e <;>
    · rw [show (reinitApply s).regroup.state = _ from e] at h
      simp at h

theorem applyPending_mapped : Mapped s (applyPending s) := by
  unfold applyPending
  repeat' split
  · exact ⟨reinitApply_scopes s, fun w => reinitApply_mapsOk s (seated_of_divides w.1)⟩
  · next waits => exact ⟨commit_scopes s, commit_mapsOk s waits⟩
  · exact .refl s

theorem startBlock_mapped : Mapped s (startBlock s) :=
  .trans (.of_ruled (settleBlock_ruled s) (seating_of_layout (settleBlock_kept s).layout))
    (.trans (applyPending_mapped _) (.of_ruled (startBlock_ruled s) (seating_of_layout (startBlock_kept s).layout)))

theorem mixSample_mapped (x : AudioIn) (n : Nat) : Mapped s (mixSample s x n) :=
  .of_ruled ⟨rfl, .same rfl rfl rfl⟩ (seating_of_layout (mixSample_kept s x n).layout)

theorem wordClockPeriod_mapped (x : AudioIn) : Yields (Mapped s) (execWordClockPeriod x s) := by
  obtain ⟨n, e | e⟩ := wordClockPeriod_cases s x
  · rw [e]
    exact (yields_next _).2 (mixSample_mapped s x n)
  · rw [e]
    exact (yields_next _).2 (.trans (startBlock_mapped s) (mixSample_mapped _ x n))

/-! ## Every step -/

/-- The commands on scopes. -/
def onScopes : Instr → Bool
  | .assignScope _ _ _ => true
  | .claimSegments _ _ _ => true
  | .releaseSegments _ _ _ => true
  | _ => false

/-- But for those on scopes and a full reset, every command and event keeps the scopes, and sound maps sound. -/
theorem exec_mapped (c : Instr) (hc : onScopes c = false) (reset : ∀ pins, c ≠ .fullReset pins) :
    Yields (Mapped s) (exec c s) := by
  cases hr : mayRule c with
  | false =>
    have seating := exec_seating s c reset (by rintro rfl; cases hr) (by rintro x rfl; cases hr)
    exact fun t e => .of_ruled (exec_ruled s c hr t e) (seating t e)
  | true =>
    cases c with
    | fullReset pins => exact absurd rfl (reset pins)
    | contactEvent w closed stowed => exact contactEvent_mapped s w closed stowed
    | settleTimerExpiry w => exact settleTimerExpiry_mapped s w
    | stuckTimerExpiry w => exact stuckTimerExpiry_mapped s w
    | mixBlockStart => exact (yields_next _).2 (startBlock_mapped s)
    | defineWall p tag l => exact takeCommand_mapped s (defineWall_mapped s)
    | wallOverride p tag l => exact takeCommand_mapped s (wallOverride_mapped s)
    | assignScope _ _ _ | claimSegments _ _ _ | releaseSegments _ _ _ => cases hc
    | wordClockPeriod x => exact wordClockPeriod_mapped s x
    | _ => cases hr

theorem exec_mapsOk (c : Instr) (w : s.mapsOk) : Yields State.mapsOk (exec c s) := by
  by_cases hc : onScopes c = true
  · cases c with
    | assignScope p tag l => exact takeCommand_seated s (assignScope_seated s) w
    | claimSegments p tag l => exact takeCommand_seated s (claim_seated s p) w
    | releaseSegments p tag l =>
      exact takeCommand_seated s (fun x => (Reply.leaves_done _ _ _).2
        ⟨rfl, seating_of_layout (setConsoles_layout _ _)⟩) w
    | _ => cases hc
  · by_cases reset : ∃ pins, c = .fullReset pins
    · obtain ⟨pins, rfl⟩ := reset
      exact (yields_next _).2 (powerOn_mapsOk pins)
    · exact fun t e => (exec_mapped s c (by simpa using hc) (not_exists.1 reset) t e).maps w

theorem exec_scopesApart (c : Instr) (w : s.hall.scopesApart) : Yields (fun t => t.hall.scopesApart) (exec c s) := by
  by_cases hc : onScopes c = true
  · cases c with
    | assignScope p tag l => exact takeCommand_apart s w fun a => assignScope_apart s a w
    | claimSegments p tag l => exact takeCommand_apart s w fun x => claim_apart s p x w
    | releaseSegments p tag l => exact takeCommand_apart s w fun x => release_apart s p x w
    | _ => cases hc
  · by_cases reset : ∃ pins, c = .fullReset pins
    · obtain ⟨pins, rfl⟩ := reset
      exact (yields_next _).2 (powerOn_scopesApart pins)
    · exact fun t e => scopesApart_of_scopes (exec_mapped s c (by simpa using hc) (not_exists.1 reset) t e).scopes w

theorem tick_mapped : Mapped s (tick s) := by
  refine .of_ruled ⟨?_, .same rfl rfl rfl⟩ (seating_of_layout (tick_layout s))
  exact scopes_of_ports rfl

end

/-- Settles O15: the scope commands keep the scopes apart, and nothing else writes them but a full reset. -/
theorem scopesStayApart : Obligations.ScopesStayApart := by
  intro s t w e
  rcases step_cases e with ⟨c, q, hc⟩ | rfl
  · exact exec_scopesApart { s with pending := q } c w t hc
  · exact scopesApart_of_scopes (tick_mapped s).scopes w

/-- Settles O17: a rest report, a commit and REINIT leave sound maps; beside them the regroup goes on and the rooms of
the active map keep their segments and leads. -/
theorem activeMapOnlyAtBlockStart : Obligations.ActiveMapOnlyAtBlockStart := by
  refine ⟨fun s t w e => ?_, fun c s t reset start period e => ?_⟩
  · rcases step_cases e with ⟨c, q, hc⟩ | rfl
    · exact exec_mapsOk { s with pending := q } c w t hc
    · exact (tick_mapped s).maps w
  · exact congrFun (exec_seating s c reset start period t e)

end Sys2Proof.Machine
end

section
/-! DRAIN begins at the deadline, at FORCE-REGROUP and at the last AGREE (O27, O28; R30 to R37). -/

namespace Sys2Proof.Machine

/-! ## Trimming again (R36) -/

section
variable {h : Hall} {sc : Scanner} {m : MapRoom} {x : SegSet}

/-- Trimming leaves no more entries in OPENING or OPEN than the limit. -/
theorem openIn_trimTo (n : Nat) : (openIn (trimTo h x n) x).length ≤ n := by
  have left : openIn (trimTo h x n) x ⊆ (openIn h x).drop ((openIn h x).length - n) := by
    intro q hq
    obtain ⟨e, he, hin, hchair, hair⟩ := mem_openIn.1 hq
    rw [trimTo_entry] at he
    split at he
    · obtain ⟨y, -, rfl⟩ := Option.map_eq_some_iff.1 he
      cases hair
    · next hc =>
      have all := List.take_append_drop ((openIn h x).length - n) (openIn h x) ▸ mem_openIn.2 ⟨e, he, hin, hchair, hair⟩
      exact (List.mem_append.1 all).resolve_left hc
  calc (openIn (trimTo h x n) x).length
      ≤ ((openIn h x).drop ((openIn h x).length - n)).length := (List.subperm_of_subset openIn_nodup left).length_le
    _ ≤ n := by
      rw [List.length_drop]
      omega

/-- Where no more entries are in OPENING or OPEN than the limit, trimming does nothing. -/
theorem trimTo_within {n : Nat} (hl : (openIn h x).length ≤ n) : trimTo h x n = h := by
  simp [trimTo, Nat.sub_eq_zero_of_le hl]

/-- Where a pending room is within its limit, trimming it and rooms apart from it leaves what is filed in it. -/
theorem trimAll_within {ms : List MapRoom} (apart : ∀ m' ∈ ms, m' ≠ m → (m'.segs &&& m.segs) = 0)
    (hl : (openIn h m.segs).length ≤ inheritedLimit sc h m) (q : SlotRef) :
    (ms.foldl (trimPendingRoom sc) h).filed m.segs q = h.filed m.segs q := by
  induction ms generalizing h with
  | nil => rfl
  | cons m' ms ih =>
    have rest := fun m'' hm => apart m'' (.tail m' hm)
    rw [List.foldl_cons]
    by_cases hm : m' = m
    · subst hm
      rw [trimPendingRoom, trimTo_within hl]
      exact ih rest hl
    · have same (b : SlotRef) : (trimPendingRoom sc h m').filed m.segs b = h.filed m.segs b :=
        trimTo_filed (apart m' (.head ms) hm)
      have limit := inheritedLimit_of_core (trimPendingRoom_closings h sc m').onward.core sc m
      exact (ih rest (by rwa [openIn_congr same, limit])).trans (same q)

/-- What trimming leaves of the entries in OPENING or OPEN of a pending room that is apart from every other, however often
the map names it. -/
theorem trimAll_apart {ms : List MapRoom} (hm : m ∈ ms) (apart : ∀ m' ∈ ms, m' ≠ m → (m'.segs &&& m.segs) = 0)
    {q : SlotRef} (hq : q ∈ openIn h m.segs) : (ms.foldl (trimPendingRoom sc) h).entry q =
      if q ∈ trimRefs h m.segs (inheritedLimit sc h m) then (h.entry q).map Entry.closed else h.entry q := by
  induction ms generalizing h with
  | nil => cases hm
  | cons m' ms ih =>
    have rest := fun m'' hm => apart m'' (.tail m' hm)
    have limit := inheritedLimit_of_core (trimPendingRoom_closings h sc m').onward.core sc m
    obtain ⟨e, he, hin, -⟩ := mem_openIn.1 hq
    rw [List.foldl_cons]
    by_cases hm' : m' = m
    · subst hm'
      have within := trimAll_within rest (h := trimPendingRoom sc h m') (sc := sc) ((openIn_trimTo _).trans limit.ge)
      have trimmed : (trimPendingRoom sc h m').entry q =
          if q ∈ trimRefs h m'.segs (inheritedLimit sc h m') then (h.entry q).map Entry.closed else h.entry q :=
        trimTo_entry _
      rw [he, Option.map_some] at trimmed ⊢
      split
      · next hc => exact entry_of_filed (within q) (trimmed.trans (if_pos hc)) hin
      · next hc => exact entry_of_filed (within q) (trimmed.trans (if_neg hc)) hin
    · have same (b : SlotRef) : (trimPendingRoom sc h m').filed m.segs b = h.filed m.segs b :=
        trimTo_filed (apart m' (.head ms) hm')
      have opens := openIn_congr same
      have kept : (trimPendingRoom sc h m').entry q = h.entry q := (entry_of_filed (same q) he hin).trans he.symm
      rw [ih ((List.mem_cons.1 hm).resolve_left (Ne.symm hm')) rest (opens ▸ hq), limit, kept, trimRefs, opens]
      rfl

end

/-! ## What the end of a floor event leaves -/

section
variable (h : Hall)

theorem idleSweep_onward : Onward h (idleSweep h) := by
  refine ⟨idleSweep_core h, fun p => BitVec.and_self, fun i => ?_, fun i hi => ?_⟩
  all_goals
    simp only [idleSweep, Hall.room, Fin.getElem_fin, tab_getElem, Fin.eta, Option.map_map] at *
  · rfl
  · exact hi

theorem idleSweep_closings : Closings h (idleSweep h) :=
  ⟨idleSweep_onward h, rfl, fun _ => rfl, fun _ => rfl, fun _ => .inl rfl⟩

theorem closingInFrozen_iff : closingInFrozen h = true ↔ ∃ i r q e, h.room i = some r ∧ r.frozen = true ∧
    h.entry q = some e ∧ inSet r.segs e.seg = true ∧ e.state = .closing := by
  simp only [closingInFrozen, List.any_eq_true, mem_frozenRooms, decide_eq_true_eq]
  constructor
  · rintro ⟨i, ⟨r, hr, hf⟩, ⟨q, e⟩, hm, hs⟩
    obtain ⟨he, hin⟩ := (mem_speaking hr).1 hm
    exact ⟨i, r, q, e, hr, hf, he, hin, hs⟩
  · rintro ⟨i, r, q, e, hr, hf, he, hin, hs⟩
    exact ⟨i, ⟨r, hr, hf⟩, (q, e), (mem_speaking hr).2 ⟨he, hin⟩, hs⟩

/-- Whether a frozen room holds a CLOSING entry is told by the slots, the segments and the freeze. -/
theorem closingInFrozen_congr {g : Hall} (entry : ∀ q, g.entry q = h.entry q)
    (rooms : ∀ i, (g.room i).map (fun r => (r.segs, r.frozen)) = (h.room i).map fun r => (r.segs, r.frozen)) :
    closingInFrozen g = closingInFrozen h := by
  have back {g h : Hall} {i : SegId} {r : Room}
      (e : (g.room i).map (fun r => (r.segs, r.frozen)) = (h.room i).map fun r => (r.segs, r.frozen))
      (hr : g.room i = some r) : ∃ r', h.room i = some r' ∧ r'.segs = r.segs ∧ r'.frozen = r.frozen := by
    rw [hr, Option.map_some, eq_comm, Option.map_eq_some_iff] at e
    obtain ⟨r', hr', e⟩ := e
    exact ⟨r', hr', congrArg Prod.fst e, congrArg Prod.snd e⟩
  rw [Bool.eq_iff_iff, closingInFrozen_iff, closingInFrozen_iff]
  constructor
  · rintro ⟨i, r, q, e, hr, hf, he, hin, hs⟩
    obtain ⟨r', hr', segs, frozen⟩ := back (rooms i) hr
    exact ⟨i, r', q, e, hr', frozen ▸ hf, entry q ▸ he, segs ▸ hin, hs⟩
  · rintro ⟨i, r, q, e, hr, hf, he, hin, hs⟩
    obtain ⟨r', hr', segs, frozen⟩ := back (rooms i).symm hr
    exact ⟨i, r', q, e, hr', frozen ▸ hf, entry q ▸ he, segs ▸ hin, hs⟩

@[simp] theorem closingInFrozen_idleSweep : closingInFrozen (idleSweep h) = closingInFrozen h := by
  refine closingInFrozen_congr h (fun q => rfl) fun i => ?_
  simp only [idleSweep, Hall.room, Fin.getElem_fin, tab_getElem, Fin.eta, Option.map_map]
  rfl

end

/-! ## DRAIN has begun -/

section
variable {s t : State}

/-- The trimming at the beginning of DRAIN leaves the entries on air as R36 says, whatever the pending map is. -/
theorem trims_of_entries (e : ∀ q, t.hall.entry q = (drainedHall s.scanner s.regroup s.hall).entry q) : s.trims t := by
  have entry (q : SlotRef) (x : Entry) (ho : x.onAir = true) : (recalledHall s.hall).entry q = some x ↔
      s.hall.entry q = some x := recalledHall_entry_iff (onAir_not_granted ho)
  refine ⟨recalledHall s.hall, entry, fun x q => mem_openIn_recalled, fun x base near => openIn_pairwise near,
    fun m hm hx apart => ?_, fun q x he hs hx => ?_⟩
  · intro refs limit
    have limit_eq : inheritedLimit s.scanner (recalledHall s.hall) m = limit :=
      inheritedLimit_of_core ((recalledHall_onward s.hall).core.trans (raise_core _ _ _)) _ _
    have left {q : SlotRef} (hq : q ∈ refs) : t.hall.entry q =
        if q ∈ refs.take (refs.length - limit) then (s.hall.entry q).map Entry.closed else s.hall.entry q := by
      obtain ⟨x, hx', -, -, ho⟩ := mem_openIn.1 hq
      have same : (recalledHall s.hall).entry q = s.hall.entry q := hx'.trans ((entry q x ho).1 hx').symm
      rw [e, drainedHall, trimAll_apart (mem_affectedRooms.2 ⟨hm, hx⟩)
        (fun m' hm' => apart m' (mem_affectedRooms.1 hm').1) hq, limit_eq, same]
      rfl
    have disjoint : List.Disjoint (refs.take (refs.length - limit)) (refs.drop (refs.length - limit)) :=
      List.disjoint_take_drop openIn_nodup le_rfl
    refine ⟨fun i r hr hl one => inheritedLimit_continued hr hl one, inheritedLimit_fresh, fun q hq => ?_, fun q hq => ?_⟩
    · rw [left (List.mem_of_mem_take hq), if_pos hq]
    · rw [left (List.mem_of_mem_drop hq), if_neg fun c => disjoint c hq]
  · rw [e]
    refine trimAll_other ((recalledHall_entry_iff hs).2 he) fun m hm => ?_
    rcases hx with chair | closing | elsewhere
    · exact .inr (.inl chair)
    · exact .inr (.inr (by simp [Entry.onAir, closing]))
    · obtain ⟨hm, hx⟩ := mem_affectedRooms.1 hm
      exact .inl (elsewhere m hm hx)

/-- DRAIN has begun where it is entered with the consent set and the deadline cleared, and the idle timers brought in
line. -/
theorem enterDrain_swept (s : State) (silent : List PortId) : s.drainBegun
    (enterDrain { s with regroup := { s.regroup with consent := [], deadline := none, silent := silent } }).sweep
    silent := by
  have left : enterDrain { s with regroup := { s.regroup with consent := [], deadline := none, silent := silent } } =
      { s with
        hall := drainedHall s.scanner s.regroup s.hall,
        regroup := { s.regroup with
          state := if closingInFrozen (drainedHall s.scanner s.regroup s.hall) then .drain else .commitWait,
          consent := [], deadline := none, silent := silent } } :=
    drainTest_regroup (s := { s with
      regroup := { s.regroup with consent := [], deadline := none, silent := silent, state := .drain },
      hall := drainedHall s.scanner s.regroup s.hall }) rfl
  rw [left]
  have onward := (drainedHall_onward s.scanner s.regroup s.hall).trans (idleSweep_onward _)
  have hall_core : (idleSweep (drainedHall s.scanner s.regroup s.hall)).core = s.hall.core :=
    (idleSweep_core _).trans (drainedHall_core _ _ _)
  refine ⟨?_, hall_core, rfl, rfl, rfl, rfl, fun p hrole hmask => ?_,
    recalls_of_closings ((drainedHall_closings _ _ _).trans (idleSweep_closings _)), trims_of_entries fun q => rfl⟩
  · rw [State.sweep_hall, closingInFrozen_idleSweep]
    rfl
  · have core := core_port hall_core p
    simp only [Port.core, Prod.mk.injEq] at core
    obtain ⟨role, -, -, -, mask, -⟩ := core
    refine onward.told (raise_told s.hall .regroup allSegs) p (portTakes_regroup ?_ _) ?_
    · rwa [role]
    · rwa [mask]

theorem agree_stays {p : PortId} (h : ∃ q ∈ s.regroup.consent, q ≠ p) : agree s p =
    { s with regroup := { s.regroup with consent := s.regroup.consent.filter fun q => q ≠ p } } := by
  obtain ⟨q, hq, hp⟩ := h
  refine if_neg fun c => ?_
  have : q ∈ s.regroup.consent.filter fun q => q ≠ p := List.mem_filter.2 ⟨hq, by simpa using hp⟩
  exact List.ne_nil_of_mem this (List.isEmpty_iff.1 c)

/-- The last AGREE begins DRAIN (R31). -/
theorem agree_last {p : PortId} (h : ∀ q ∈ s.regroup.consent, q = p) : agree s p = (enterDrain
    { s with regroup := { s.regroup with consent := [], deadline := none, silent := s.regroup.silent } }).sweep := by
  have none_left : s.regroup.consent.filter (fun q => q ≠ p) = [] :=
    List.filter_eq_nil_iff.2 fun q hq => by simpa using h q hq
  simp only [agree, none_left]
  rfl

theorem mem_withPort {l : List PortId} {p q : PortId} : q ∈ withPort l p ↔ q = p ∨ q ∈ l := by
  simp [withPort]

end

/-- Settles O27: the lists of the model have the members that the statement names, and DRAIN is entered as
`enterDrain_swept` says. -/
theorem drainBegins : Obligations.DrainBegins := by
  refine ⟨closingInFrozen_iff, fun h q => mem_grantedInFrozen, fun h i r hr => ?_, fun h x => ⟨fun q e => mem_entriesIn,
    entriesIn_nodup, fun base near => entriesIn_pairwise near, rfl⟩, fun s => ⟨fun hs hd => ?_, fun hn => ?_,
    fun p tag ha => ⟨fun hs => ?_, fun hs => ?_⟩⟩⟩
  · rw [Hall.speaking, segsOf_room hr]
  · exact ⟨_, if_pos (by simp [hs, Option.isSome_iff_ne_none, hd]), enterDrain_swept s _⟩
  · refine if_neg fun c => ?_
    simp only [Bool.and_eq_true, decide_eq_true_eq, Option.isSome_iff_ne_none] at c
    exact hn.elim (fun h => h c.1) fun h => c.2 h
  · exact ⟨_, congrArg Host.Outcome.next (takeCommand_done ha (if_pos hs)), enterDrain_swept s _⟩
  · exact congrArg Host.Outcome.next (takeCommand_refused ha (if_neg hs))

section
variable {s : State} {p : PortId} {a : Byte} {e : Option (BitVec 16)}

/-- The expected consent round of an answer is absent or the present one (R30). -/
def expects (e : Option (BitVec 16)) (s : State) : Prop := e = none ∨ e = some s.regroup.round

theorem stale_iff : (e.isSome && decide (e ≠ some s.regroup.round)) = true ↔ ¬expects e s := by
  cases e <;> simp [expects]

theorem regroupAnswerBody_range (ha : 1 < a.toNat) : regroupAnswerBody s p (a, e) = .refuse .range := if_pos ha

theorem regroupAnswerBody_stale (ha : a.toNat ≤ 1) (he : ¬expects e s) :
    regroupAnswerBody s p (a, e) = .refuse .stale :=
  (if_neg (Nat.not_lt.2 ha)).trans (if_pos (stale_iff.2 he))

/-- An answer that passes the first two checks. -/
theorem regroupAnswerBody_current (ha : a.toNat ≤ 1) (he : expects e s) : regroupAnswerBody s p (a, e) =
    if s.regroup.state ≠ .consent ∨ p ∉ s.regroup.consent then .refuse .state
    else if a = 0 then .done false [] (agree s p)
    else if p ∈ s.regroup.holds then .refuse .state
    else .done false [] (hold s p) := by
  have zero : a.toNat = 0 ↔ a = 0 := ⟨fun h => BitVec.eq_of_toNat_eq h, fun h => by rw [h]; rfl⟩
  unfold regroupAnswerBody
  rw [if_neg (Nat.not_lt.2 ha), if_neg fun c => stale_iff.1 c he]
  by_cases hs : s.regroup.state = .consent <;> by_cases hp : p ∈ s.regroup.consent <;> simp [hs, hp, zero]

end

/-- Settles O28: each check refuses where those before it pass, and AGREE and HOLD do what is said of them.
(`regroupAnswer` is the name of the model's own command.) -/
theorem regroupAnswer : Obligations.RegroupAnswer := by
  intro s p tag a e l ha parsed refused current
  have runs : exec (.regroupAnswer p tag l) s =
      answerNext (takeCommand s p tag [.console] (some (a, e)) (regroupAnswerBody s p)) := by
    rw [← parsed]
    rfl
  have refuse {st : Status} (h : regroupAnswerBody s p (a, e) = .refuse st) : refused st :=
    runs.trans (congrArg Host.Outcome.next (takeCommand_refused ha h))
  have done {t : State} (h : regroupAnswerBody s p (a, e) = .done false [] t) :
      exec (.regroupAnswer p tag l) s = .next (setAnswer t p tag .done []) :=
    runs.trans (congrArg Host.Outcome.next (takeCommand_done ha h))
  refine ⟨fun h => refuse (regroupAnswerBody_range h), fun h he => refuse (regroupAnswerBody_stale h he),
    fun h he hc => refuse ((regroupAnswerBody_current h he).trans (if_pos hc)), fun h he hs hp => ?_⟩
  have body := (regroupAnswerBody_current (p := p) h he).trans (if_neg (by simp [hs, hp]))
  refine ⟨fun h1 hh => refuse ?_, fun h1 hh => ⟨withPort s.regroup.holds p, fun q => mem_withPort, done ?_⟩,
    fun h0 others => done ?_, fun h0 last => ⟨_, done ?_, enterDrain_swept s _⟩⟩
  · rw [body, if_neg (by rw [h1]; decide), if_pos hh]
  · rw [body, if_neg (by rw [h1]; decide), if_neg hh]
    rfl
  · rw [body, if_pos h0, agree_stays others]
  · rw [body, if_pos h0, agree_last last]

end Sys2Proof.Machine
end

section
/-! The end of a ramp and of a mix block, and the handing on of a freed slot (O54; R85, R101, R112 to R114, R157, R160). -/

namespace Sys2Proof.Machine

/-! ## Units without a request in grant handling -/

section
variable {h g : Hall} {u : UnitId}

theorem requestOf_eq_none : h.requestOf u = none ↔ ∀ q ∈ h.requests, q.unit ≠ u := by
  simp [Hall.requestOf]

/-- Grant handling gives nothing to a unit without a request. -/
theorem Served.requestless (w : Served h g) (hu : h.requestOf u = none) :
    g.requestOf u = none ∧ g.addr u = h.addr u := by
  rw [requestOf_eq_none] at hu ⊢
  refine ⟨fun q hq => ?_, ?_⟩
  · obtain ⟨p, hp, e, -⟩ := w.fewer.old q hq
    exact e ▸ hu p hp
  · cases w with
    | @grant v w =>
      obtain ⟨q, hq, hv, -⟩ := w
      rcases grantUnit_cases h v none with e | ⟨r, x, t⟩
      · rw [e]
      · exact t.addr u fun c => hu q hq (hv.trans c.symm)
    | age _ _ => exact addr_of_addrs (by unfold ageRoom; split <;> rfl) u
    | rotation _ => rfl

theorem Serving.requestless (w : Serving h g) (hu : h.requestOf u = none) :
    g.requestOf u = none ∧ g.addr u = h.addr u := by
  induction w with
  | refl => exact ⟨hu, rfl⟩
  | tail _ step ih =>
    obtain ⟨none, addr⟩ := ih
    exact ⟨(step.requestless none).1, (step.requestless none).2.trans addr⟩

end

/-! ## A removed entry -/

section
variable (h : Hall) (r : SlotRef) (e : Entry)

/-- The hall in which an entry has left its slot and its unit is given RELEASE, before the slot is handed on (R76). -/
def releasedHall : Hall :=
  match holderOf r.trunk e with
  | some u => alignSeat (giveFloor (dropEntry h r e) u .release) u
  | none => dropEntry h r e

theorem closingDone_eq : closingDone h r e = handOn (releasedHall h r e) [r.trunk] (h.roomOf e.seg) false := rfl

theorem releasedHall_orphan (hu : e.unit = none) : releasedHall h r e = raiseAt .floor e.seg (h.setEntry r none) := by
  simp [releasedHall, holderOf, hu, dropEntry]

theorem releasedHall_held {a : AddrIx} (hu : e.unit = some a) :
    let u : UnitId := { trunk := r.trunk, addr := a }
    let h1 := raiseAt .floor e.seg (h.setEntry r none)
    releasedHall h r e = alignSeat (if (h.unit u).present then
      h1.setAddr u { h1.addr u with floorOrder := some .release } else h1) u := by
  intro u h1
  have unit : h1.unit u = h.unit u := unit_of_units (raiseAt_units _ _ _) u
  have holder : holderOf r.trunk e = some u := by rw [holderOf, hu]; rfl
  have given : giveFloor h1 u .release = if (h.unit u).present then
      h1.setAddr u { h1.addr u with floorOrder := some .release } else h1 := by
    simp only [giveFloor, unit]
  rw [releasedHall, holder, ← given]
  rfl

theorem releasedHall_pools : (releasedHall h r e).pools = (h.setEntry r none).pools := by
  unfold releasedHall
  split <;> simp [dropEntry]

@[simp] theorem releasedHall_requests : (releasedHall h r e).requests = h.requests := by
  unfold releasedHall
  split <;> simp [dropEntry]

/-- The unit of the removed entry is given RELEASE, where it is PRESENT. -/
theorem releasedHall_order {a : AddrIx} (hu : e.unit = some a)
    (present : (h.unit { trunk := r.trunk, addr := a }).present = true) :
    ((releasedHall h r e).addr { trunk := r.trunk, addr := a }).floorOrder = some .release := by
  rw [releasedHall_held h r e hu, alignSeat_addr, if_pos present, Hall.setAddr_addr]

/-- A closing ramp is complete: the slot is free or newly granted (R76, R101). -/
theorem closingDone_entry {q : SlotRef} {x : Entry} (hx : x.state ≠ .granted) :
    (closingDone h r e).entry q = some x ↔ q ≠ r ∧ h.entry q = some x := by
  rw [closingDone_eq, (handOn_serving _ _ _ _).filled.entry_iff hx, entry_of_pools (releasedHall_pools h r e)]
  by_cases hq : q = r
  · subst hq
    simp
  · rw [Hall.setEntry_entry_ne _ _ fun c => hq c.symm, and_iff_right hq]

end

/-! ## The end of a ramp -/

section
variable {s : State} {r : SlotRef} {e : Entry} {rp : Ramp}

theorem execRampEnd_none (h : ∀ e, s.hall.entry r = some e → e.ramp = none) :
    exec (.rampEnd r.trunk r.slot) s = .next s := by
  show execRampEnd r.trunk r.slot s = _
  unfold execRampEnd
  simp only []
  split
  · next e he =>
    rw [h e he]
  · rfl

theorem execRampEnd_some (he : s.hall.entry r = some e) (hr : e.ramp = some rp) :
    exec (.rampEnd r.trunk r.slot) s = .next (endRamp s r e rp) := by
  show execRampEnd r.trunk r.slot s = _
  unfold execRampEnd
  simp only []
  rw [show s.hall.entry { trunk := r.trunk, slot := r.slot } = some e from he]
  simp only [hr]

/-- A ramp ends at a GRANTED or OPEN entry, or a CLOSING one not at 0: nothing but the ramp ends (R157). -/
theorem endRamp_stays (h : e.state = .granted ∨ e.state = .opened ∨ (e.state = .closing ∧ rp.target ≠ 0)) :
    endRamp s r e rp = s.withHall (s.hall.setEntry r (some (e.rampDone rp))) := by
  unfold endRamp
  rcases h with h | h | ⟨h, ht⟩
  · simp only [h]
  · simp only [h]
  · simp only [h, if_neg ht]

theorem endRamp_opens (h : e.state = .opening) : endRamp s r e rp =
    s.floorHall (raiseAt .floor e.seg (s.hall.setEntry r (some { e.rampDone rp with state := .opened }))) := by
  simp only [endRamp, h]

theorem endRamp_closes (h : e.state = .closing) (ht : rp.target = 0) : endRamp s r e rp =
    drainTest (({ s with mix := s.mix.entryLeft r e.unit } : State).floorHall (closingDone s.hall r (e.rampDone rp))) := by
  simp only [endRamp, h, if_pos ht]

/-- Whether the end of DRAIN is tested, in one record. -/
theorem drainTest_eq (s : State) : drainTest s = { s with regroup := { s.regroup with
    state := if s.regroup.state = .drain ∧ closingInFrozen s.hall = false then .commitWait else s.regroup.state } } := by
  unfold drainTest
  by_cases h : s.regroup.state = .drain ∧ closingInFrozen s.hall = false
  · rw [if_pos (by simpa using h), if_pos h]
  · rw [if_neg (by simpa using h), if_neg h]

end

/-! ## The end of a block -/

section
variable {h : Hall}

theorem clipRoom_room (i j : SegId) : (clipRoom h i).room j =
    (h.room j).map fun r => if j = i then { r with clip := saturate r.clip } else r := by
  unfold clipRoom Hall.mapRoom
  by_cases hij : j = i
  · subst hij
    cases hr : h.room j with
    | none => simpa [raiseRoom] using hr
    | some r => simp [raiseRoom]
  · cases hr : h.room i with
    | none => simp [raiseRoom, hij]
    | some r => simp [raiseRoom, hij, Hall.setRoom_room_ne _ _ (Ne.symm hij)]

/-- Each clipped room's counter rises once. -/
theorem clipRooms_room {l : List SegId} (hl : l.Nodup) (j : SegId) : (l.foldl clipRoom h).room j =
    (h.room j).map fun r => if j ∈ l then { r with clip := saturate r.clip } else r := by
  induction l generalizing h with
  | nil => simp
  | cons i l ih =>
    obtain ⟨hi, hl⟩ := List.nodup_cons.1 hl
    rw [List.foldl_cons, ih hl, clipRoom_room, Option.map_map]
    congr 1
    funext r
    by_cases hj : j = i
    · subst hj
      simp [hi]
    · simp [hj]

theorem mapRoom_ports (i : SegId) (f : Room → Room) : (h.mapRoom i f).ports = h.ports := by
  unfold Hall.mapRoom
  split <;> rfl

theorem clipRoom_core_port (i : SegId) (p : PortId) : ((clipRoom h i).ports[p]).core = (h.ports[p]).core := by
  refine (core_port (raiseRoom_core (h.mapRoom i _) .clip i) p).trans ?_
  rw [mapRoom_ports]

theorem clipRooms_core_port (l : List SegId) (p : PortId) :
    ((l.foldl clipRoom h).ports[p]).core = (h.ports[p]).core :=
  foldl_keeps (P := fun g : Hall => (g.ports[p]).core = (h.ports[p]).core)
    (fun _ i e => (clipRoom_core_port i p).trans e) l h rfl

theorem clipRoom_segsOf (i j : SegId) : (clipRoom h i).segsOf j = h.segsOf j := by
  simp only [Hall.segsOf, clipRoom_room]
  cases h.room j with
  | none => rfl
  | some r =>
    simp only [Option.map_some]
    split <;> rfl

theorem clipRoom_signalled (i : SegId) : h.signalled (clipRoom h i) .clip (· = h.segsOf i) := by
  have same : (h.mapRoom i fun r => { r with clip := saturate r.clip }).segsOf i = h.segsOf i := clipRoom_segsOf i i
  have told := raise_signalled .clip (h.segsOf i) (h.mapRoom i fun r => { r with clip := saturate r.clip })
  rw [← same] at told ⊢
  exact signalled_of_flags told fun p => by rw [mapRoom_ports]

/-- CLIP is raised for each clipped room, and for no other (R160, R182). -/
theorem clipRooms_signalled (l : List SegId) :
    h.signalled (l.foldl clipRoom h) .clip fun x => ∃ i ∈ l, x = h.segsOf i := by
  induction l generalizing h with
  | nil => exact signalled_congr (signalled_refl h .clip) (by simp)
  | cons i l ih =>
    refine signalled_congr (signalled_trans (clipRoom_signalled i) ih fun p => clipRooms_core_port l p) fun x => ?_
    simp only [List.mem_cons, exists_eq_or_imp, clipRoom_segsOf]

/-- The counters and the events of the clips write nothing else. -/
theorem clipRooms_rest (l : List SegId) : l.foldl clipRoom h =
    { h with rooms := (l.foldl clipRoom h).rooms, ports := (l.foldl clipRoom h).ports } := by
  refine foldl_keeps (P := fun g : Hall => g = { h with rooms := g.rooms, ports := g.ports }) (fun g i hg => ?_) l h rfl
  unfold clipRoom Hall.mapRoom
  split <;> (rw [hg]; rfl)

end

/-! ## Chairs and rooms that claim a freed slot -/

section
variable {h : Hall} {t : TrunkId}

/-- A chair's request that a freed slot of trunk `t` may be given to (R85, step 1). -/
def Hall.chairWaits (h : Hall) (t : TrunkId) (q : Request) : Prop :=
  q ∈ h.requests ∧ q.cls = .chair ∧ q.unit.trunk = t ∧ ∃ i, h.unitRoom q.unit = some i ∧ h.frozen i = false

/-- The chair requests for trunk `t`, oldest first. -/
def waitingChairs (h : Hall) (t : TrunkId) : List Request :=
  sortBy (fun a b => older a.stamp b.stamp) (h.requests.filter fun q =>
    q.cls = .chair && q.unit.trunk = t && (match h.unitRoom q.unit with | some i => !h.frozen i | none => false))

theorem chairRequests_eq : chairRequests h t = (waitingChairs h t).map (·.unit) := rfl

theorem mem_waitingChairs {q : Request} : q ∈ waitingChairs h t ↔ h.chairWaits t q := by
  rw [waitingChairs, (sortBy_perm _ _).mem_iff, List.mem_filter]
  simp only [Hall.chairWaits, Bool.and_eq_true, decide_eq_true_eq, and_assoc]
  cases h.unitRoom q.unit <;> simp

theorem mem_chairRequests {u : UnitId} : u ∈ chairRequests h t ↔ u.trunk = t ∧ ∃ q i, q ∈ h.requests ∧ q.unit = u ∧
    q.cls = .chair ∧ h.unitRoom u = some i ∧ h.frozen i = false := by
  rw [chairRequests_eq, List.mem_map]
  constructor
  · rintro ⟨q, hq, rfl⟩
    obtain ⟨hq, chair, trunk, i, room, frozen⟩ := mem_waitingChairs.1 hq
    exact ⟨trunk, q, i, hq, rfl, chair, room, frozen⟩
  · rintro ⟨trunk, q, i, hq, rfl, chair, room, frozen⟩
    exact ⟨q, mem_waitingChairs.2 ⟨hq, chair, trunk, i, room, frozen⟩, rfl⟩

/-- The first of the chairs has the oldest request (R85, step 1). -/
theorem chairRequests_oldest {base : Stamp} (near : ∀ q ∈ h.requests, (q.stamp - base).toNat < 2 ^ 31) {u : UnitId}
    {us : List UnitId} (e : chairRequests h t = u :: us) : ∃ q ∈ h.requests, q.unit = u ∧ q.cls = .chair ∧
      ∀ q' ∈ h.requests, q'.cls = .chair → q'.unit ∈ chairRequests h t →
        (q.stamp - base).toNat ≤ (q'.stamp - base).toNat := by
  have sorted : (waitingChairs h t).Pairwise fun a b => (a.stamp - base).toNat ≤ (b.stamp - base).toNat :=
    sortBy_pairwise _ fun a ha b hb =>
      older_eq (near a (List.mem_of_mem_filter ha)) (near b (List.mem_of_mem_filter hb))
  have waits (q' : Request) (hq' : q' ∈ h.requests) (chair : q'.cls = .chair) (hm : q'.unit ∈ chairRequests h t) :
      q' ∈ waitingChairs h t := by
    obtain ⟨trunk, -, i, -, -, -, room, frozen⟩ := mem_chairRequests.1 hm
    exact mem_waitingChairs.2 ⟨hq', chair, trunk, i, room, frozen⟩
  rw [chairRequests_eq] at e
  obtain ⟨q, qs, hqs, rfl, -⟩ := List.map_eq_cons_iff.1 e
  have first := mem_waitingChairs.1 (hqs ▸ List.mem_cons_self : q ∈ waitingChairs h t)
  refine ⟨q, first.1, rfl, first.2.1, fun q' hq' chair hm => ?_⟩
  have later := waits q' hq' chair hm
  rw [hqs] at later sorted
  rcases List.mem_cons.1 later with rfl | later
  · exact le_rfl
  · exact (List.pairwise_cons.1 sorted).1 q' later

/-- A room may be given a freed slot of trunk `t`: unfrozen, under its limit, with a request there. -/
def Hall.able (h : Hall) (i : SegId) (r : Room) (t : TrunkId) : Prop :=
  r.frozen = false ∧ h.count i < r.settings.openLimit ∧
    ∃ q ∈ h.requests, h.seatedIn r.segs q.unit = true ∧ q.unit.trunk = t

theorem able_iff {i : SegId} {r : Room} (hr : h.room i = some r) :
    h.able i r t ↔ (!r.frozen && h.underLimit i && h.waitsOn i t) = true := by
  simp only [Hall.able, Hall.underLimit, Hall.waitsOn, hr, queue_room hr, Bool.and_eq_true, Bool.not_eq_true',
    decide_eq_true_eq, List.any_eq_true, mem_queueIn, and_assoc]

theorem overrideClaims_iff {i : SegId} {r : Room} (hr : h.room i = some r) :
    overrideClaims h i t = true ↔ r.settings.mode = .override ∧ h.able i r t := by
  rw [able_iff hr]
  simp only [overrideClaims, hr, Bool.and_eq_true, decide_eq_true_eq, and_assoc]

theorem eligible_iff {i : SegId} {r : Room} (hr : h.room i = some r) :
    eligible h i t = true ↔ r.settings.mode = .auto ∧ h.able i r t := by
  rw [able_iff hr]
  simp only [eligible, hr, Bool.and_eq_true, decide_eq_true_eq, and_assoc]

theorem overrideClaims_room {i : SegId} (c : overrideClaims h i t = true) :
    ∃ r, h.room i = some r ∧ r.settings.mode = .override ∧ r.frozen = false := by
  cases hr : h.room i with
  | none => simp [overrideClaims, hr] at c
  | some r =>
    obtain ⟨mode, able⟩ := (overrideClaims_iff hr).1 c
    exact ⟨r, rfl, mode, able.1⟩

theorem eligible_room {i : SegId} (c : eligible h i t = true) :
    ∃ r, h.room i = some r ∧ r.settings.mode = .auto ∧ r.frozen = false := by
  cases hr : h.room i with
  | none => simp [eligible, hr] at c
  | some r =>
    obtain ⟨mode, able⟩ := (eligible_iff hr).1 c
    exact ⟨r, rfl, mode, able.1⟩

/-! ## The handing on of one freed slot (R85, R112 to R114) -/

theorem grantHandling_override {i : SegId} (c : overrideClaims h i t = true) :
    grantHandling h i = overrideService h i := by
  obtain ⟨r, hr, mode, frozen⟩ := overrideClaims_room c
  simp [grantHandling, hr, frozen, mode]

theorem grantHandling_eligible {i : SegId} (c : eligible h i t = true) : grantHandling h i = arbiterRun h i := by
  obtain ⟨r, hr, mode, frozen⟩ := eligible_room c
  simp [grantHandling, hr, frozen, mode]

theorem overrideClaims_of_eligible {i : SegId} (c : eligible h i t = true) : overrideClaims h i t = false := by
  obtain ⟨r, hr, mode, -⟩ := eligible_room c
  simp [overrideClaims, hr, mode]

/-- A room that owns the freed slot, or none, claims it so. -/
def claimsAt (claim : Hall → SegId → TrunkId → Bool) (h : Hall) (owner : Option SegId) (t : TrunkId) : Bool :=
  match owner with
  | some i => claim h i t
  | none => false

/-- One slot of trunk `t`, given to the rotation unless it has gone. -/
def rotatedUnless (gone : Bool) (owner : Option SegId) (h : Hall) (t : TrunkId) : Hall :=
  if gone then h else rotateSlot owner h t

theorem handOn_chair {u : UnitId} {us : List UnitId} (e : chairRequests h t = u :: us) (owner : Option SegId)
    (fell : Bool) : handOn h [t] owner fell =
      if fell then grantHandlingAt (grantUnit h u none) owner else grantUnit h u none := by
  simp [handOn, offerChairs, e, leftOver]

theorem handOn_open (e : chairRequests h t = []) (owner : Option SegId) (fell : Bool) :
    let claims := claimsAt overrideClaims h owner t
    let h2 := if fell || (claims || claimsAt eligible h owner t) then grantHandlingAt h owner else h
    handOn h [t] owner fell = rotatedUnless (claims || h2.freeCount t < h.freeCount t) owner h2 t := by
  intro claims h2
  have whole : handOn h [t] owner fell = (leftOver [t] fun k => max (h.freeCount k - h2.freeCount k)
      (if [t].find? (claimsAt overrideClaims h owner) = some k then 1 else 0)).foldl (rotateSlot owner) h2 := by
    simp only [handOn, offerChairs, e, List.any_cons, List.any_nil, Bool.or_false]
    rfl
  rw [whole]
  have spent : (if [t].find? (claimsAt overrideClaims h owner) = some t then 1 else 0) = if claims then 1 else 0 := by
    cases hc : claims <;> simp [show claimsAt overrideClaims h owner t = _ from hc]
  simp only [leftOver, spent, rotatedUnless]
  cases claims with
  | true => simp
  | false =>
    by_cases hl : h2.freeCount t < h.freeCount t
    · simp [hl, Nat.sub_ne_zero_of_lt hl]
    · simp [hl, Nat.sub_eq_zero_of_le (Nat.not_lt.1 hl)]

end

/-- The rotation goes round from the room after the pointer (R113). -/
theorem rotationOrder_eq (p : SegId) : rotationOrder p = (List.finRange 8).map fun k => p + 1 + k := by
  revert p
  decide

section
variable {s : State} {r : SlotRef} {e : Entry} {rp : Ramp}

/-- The unit whose entry has left is given RELEASE, and keeps it where no request of its waits (R76). -/
theorem closingDone_order (h : Hall) {a : AddrIx} (hu : e.unit = some a)
    (present : (h.unit { trunk := r.trunk, addr := a }).present = true)
    (idle : h.requestOf { trunk := r.trunk, addr := a } = none) :
    ((closingDone h r e).addr { trunk := r.trunk, addr := a }).floorOrder = some .release := by
  have none_left : (releasedHall h r e).requestOf { trunk := r.trunk, addr := a } = none := by
    rw [requestOf_eq_none, releasedHall_requests]
    exact requestOf_eq_none.1 idle
  rw [closingDone_eq, ((handOn_serving _ _ _ _).requestless none_left).2]
  exact releasedHall_order h r e hu present

theorem removed_eq (u : Option AddrIx) : LatchedEntry.removed r u =
    fun x => if x.ref = r ∧ x.left = none then { x with left := some u } else x := by
  funext x
  simp [LatchedEntry.removed]

end

section
variable {h : Hall} {t : TrunkId} {owner : Option SegId} {fell : Bool}

theorem claimsAt_some (claim : Hall → SegId → TrunkId → Bool) {i : SegId} (ho : owner = some i) :
    claimsAt claim h owner t = claim h i t := by
  rw [ho]
  rfl

/-- An OVERRIDE room that claims the slot serves its requests, and the slot is spent (R84; R85, step 2). -/
theorem handOn_override (e : chairRequests h t = []) {i : SegId} (ho : owner = some i)
    (c : overrideClaims h i t = true) : handOn h [t] owner fell = overrideService h i := by
  rw [handOn_open e, claimsAt_some _ ho, c]
  simp only [rotatedUnless, Bool.true_or, Bool.or_true, if_true]
  rw [ho]
  exact grantHandling_override c

/-- What the handing on is where the slot is left to the rotation unless a run has taken it (R113). -/
theorem handOn_rotated (e : chairRequests h t = []) (c : claimsAt overrideClaims h owner t = false) {h2 : Hall}
    (e2 : (if fell || claimsAt eligible h owner t then grantHandlingAt h owner else h) = h2) :
    (h2.freeCount t < h.freeCount t → handOn h [t] owner fell = h2) ∧
      (h.freeCount t ≤ h2.freeCount t → handOn h [t] owner fell = rotateSlot owner h2 t) := by
  rw [handOn_open e, c]
  simp only [Bool.false_or, e2, rotatedUnless, decide_eq_true_eq]
  exact ⟨fun hl => if_pos hl, fun hl => if_neg (Nat.not_lt.2 hl)⟩

end

/-- Settles O54, from the equations of a ramp's end, the clips of a block's end, and the lemmas on freed slots. -/
theorem rampAndBlockEnd : Obligations.RampAndBlockEnd := by
  refine ⟨fun s r => ⟨execRampEnd_none, fun e rp he hr => ?_⟩, fun s => ⟨fun hb => ?_, fun hb => ?_⟩,
    fun h t => ⟨fun u => mem_chairRequests, fun base near u us e => chairRequests_oldest near e,
      fun i r hr => ⟨overrideClaims_iff hr, eligible_iff hr⟩⟩,
    fun h t owner fell => ⟨fun u us e => handOn_chair e owner fell, fun e => ?_⟩, fun h t owner => ⟨rotationOrder_eq _,
      fun hf => if_pos hf, fun hf => if_neg hf, rfl, fun i rest => ⟨fun hn => if_pos ?_, fun ho he => ?_⟩⟩⟩
  · have ends := execRampEnd_some he hr
    refine ⟨fun hs => ends.trans (congrArg _ (endRamp_stays hs)), fun hs => ends.trans (congrArg _ (endRamp_opens hs)),
      fun hs ht => ⟨_, ends.trans (congrArg _ ((endRamp_closes hs ht).trans (drainTest_eq _))), fun x hx => ?_, ?_,
        fun a ha present idle => ?_, ?_, rfl, rfl, fun i => ?_, rfl, rfl, rfl⟩⟩
    · by_contra hg
      exact ((closingDone_entry s.hall r (e.rampDone rp) hg).1 hx).1 rfl
    · exact (idleSweep_core _).trans (closingDone_core _ _ _)
    · exact closingDone_order (e := e.rampDone rp) s.hall ha present idle
    · exact ⟨_, _, rfl, releasedHall_orphan s.hall r (e.rampDone rp),
        fun a ha => releasedHall_held s.hall r (e.rampDone rp) ha, rfl⟩
    · refine (Mix.entryLeft_room _ _ _ i).trans ?_
      simp only [removed_eq]
  · exact if_neg (by rw [hb]; decide)
  · refine ⟨endBlock s, if_pos (Option.isSome_iff_ne_none.2 hb), rfl, fun i => ?_, ?_⟩
    · refine (clipRooms_room ((List.nodup_finRange 8).filter _) i).trans ?_
      simp [saturate]
    · have rest := clipRooms_rest (h := s.hall) (allSegIds.filter fun i => s.mix.clipped[i])
      refine ⟨(congrArg Hall.units rest :), (congrArg Hall.requests rest :), (congrArg Hall.pools rest :),
        (congrArg Hall.booths rest :), clipRooms_core_port _, fun i r q hc hr ht hm => ?_, rfl, rfl, rfl, rfl⟩
      have core := clipRooms_core_port (h := s.hall) (allSegIds.filter fun i => s.mix.clipped[i]) q
      refine (clipRooms_signalled (h := s.hall) (allSegIds.filter fun i => s.mix.clipped[i]) q).2 (.inr ⟨?_, r.segs, ?_, ?_⟩)
      · rw [mask_of_core core]
        exact hm
      · exact ⟨i, List.mem_filter.2 ⟨List.mem_finRange i, hc⟩, (segsOf_room hr).symm⟩
      · rw [portTakes_of_core core]
        exact ht
  · refine ⟨fun i ho c => handOn_override e ho c, fun i ho c => ?_, fun no => ?_⟩
    · refine handOn_rotated e ((claimsAt_some _ ho).trans (overrideClaims_of_eligible c)) ?_
      rw [claimsAt_some _ ho, c, Bool.or_true, if_pos rfl, ho]
      exact grantHandling_eligible c
    · have quiet (claim : Hall → SegId → TrunkId → Bool) (hc : ∀ i, owner = some i → claim h i t = false) :
          claimsAt claim h owner t = false := by
        cases owner with
        | none => rfl
        | some i => exact hc i rfl
      refine handOn_rotated e (quiet _ fun i ho => (no i ho).1) ?_
      rw [quiet eligible fun i ho => (no i ho).2, Bool.or_false]
  · rcases hn with hn | hn <;> simp [hn]
  · have start : rotate t owner (i :: rest) h = if (arbiterRun h i).freeCount t < h.freeCount t then
        { arbiterRun h i with rotation := put (arbiterRun h i).rotation t i }
        else rotate t owner rest (arbiterRun h i) := if_neg (by simp [ho, he])
    exact ⟨fun hl => start.trans (if_pos hl), fun hl => start.trans (if_neg (Nat.not_lt.2 hl))⟩

end Sys2Proof.Machine
end

section
/-! What a block start does with the block before (R157, R160), and what it latches, with the ramps that start (R153 to
R155, R161; O55). -/

namespace Sys2Proof.Machine

/-! ## The block before is ended -/

/-- From `s` to `t` ramps and a block have ended: the records outside the hall stay but for the course of the regroup,
of the mix what a block latches only, and the ports keep their core. -/
structure Ended (s t : State) : Prop where
  scanner    : t.scanner = s.scanner
  trunks     : t.trunks = s.trunks
  pending    : t.pending = s.pending
  blockCount : t.mix.blockCount = s.mix.blockCount
  out        : t.mix.out = s.mix.out
  chStates   : t.mix.chStates = s.mix.chStates
  booths     : t.mix.booths = s.mix.booths
  ports      : ∀ p : PortId, (t.hall.ports[p]).core = (s.hall.ports[p]).core

namespace Ended

theorem refl (s : State) : Ended s s := ⟨rfl, rfl, rfl, rfl, rfl, rfl, rfl, fun _ => rfl⟩

theorem trans {s t u : State} (a : Ended s t) (b : Ended t u) : Ended s u :=
  ⟨b.scanner.trans a.scanner, b.trunks.trans a.trunks, b.pending.trans a.pending, b.blockCount.trans a.blockCount,
    b.out.trans a.out, b.chStates.trans a.chStates, b.booths.trans a.booths, fun p => (b.ports p).trans (a.ports p)⟩

/-- The hall is written, and its core kept. -/
theorem ofHall {s : State} {h : Hall} (e : h.core = s.hall.core) : Ended s (s.withHall h) :=
  ⟨rfl, rfl, rfl, rfl, rfl, rfl, rfl, core_port e⟩

end Ended

section
variable (s : State)

theorem drainTest_ended : Ended s (drainTest s) := by
  rw [drainTest_eq]
  exact ⟨rfl, rfl, rfl, rfl, rfl, rfl, rfl, fun _ => rfl⟩

theorem endRamp_ended (r : SlotRef) (e : Entry) (rp : Ramp) : Ended s (endRamp s r e rp) := by
  unfold endRamp
  simp only []
  repeat' split
  · exact .ofHall rfl
  · exact .ofHall rfl
  · exact .ofHall (by simp)
  · refine .trans (t := ({ s with mix := s.mix.entryLeft r e.unit } : State).floorHall _) ?_ (drainTest_ended _)
    exact ⟨rfl, rfl, rfl, rfl, rfl, rfl, rfl, core_port (h := s.hall) ((idleSweep_core _).trans (closingDone_core _ _ _))⟩
  · exact .ofHall rfl

theorem endIfMixed_ended (r : SlotRef) : Ended s (endIfMixed s r) := by
  unfold endIfMixed
  repeat' split
  · exact endRamp_ended s _ _ _
  all_goals exact .refl s

theorem endBlock_ended : Ended s (endBlock s) :=
  ⟨rfl, rfl, rfl, rfl, rfl, rfl, rfl, clipRooms_core_port _⟩

theorem settleBlock_eq : settleBlock s = if (allSlots.foldl endIfMixed s).mix.block.isSome then
    endBlock (allSlots.foldl endIfMixed s) else allSlots.foldl endIfMixed s := rfl

theorem settleBlock_ended : Ended s (settleBlock s) := by
  unfold settleBlock
  simp only []
  refine .trans (foldl_keeps (P := Ended s) (fun _ r w => w.trans (endIfMixed_ended _ r)) allSlots s (.refl s)) ?_
  split
  · exact endBlock_ended _
  · exact .refl _

theorem endIfMixed_owing {r : SlotRef} (h : ∃ e, s.hall.entry r = some e ∧ e.owesEnd) :
    exec (.rampEnd r.trunk r.slot) s = .next (endIfMixed s r) := by
  obtain ⟨e, he, rp, hr, hl⟩ := h
  rw [execRampEnd_some he hr]
  simp only [endIfMixed, he, hr, if_pos hl]

theorem endIfMixed_idle {r : SlotRef} (h : ∀ e, s.hall.entry r = some e → ¬e.owesEnd) : endIfMixed s r = s := by
  unfold endIfMixed
  split
  · next e he =>
    split
    · next rp hr => exact if_neg fun hl => h e he ⟨rp, hr, hl⟩
    · rfl
  · rfl

/-- Where every step of a fold leaves the state it starts from, the fold does. -/
theorem foldl_fixed {β γ : Type} {f : β → γ → β} {b : β} (h : ∀ c, f b c = b) (l : List γ) : l.foldl f b = b :=
  foldl_keeps (P := (· = b)) (fun _ c e => by rw [e, h c]) l b rfl

theorem settleBlock_settled : s.settled (settleBlock s) := by
  have ended := settleBlock_ended s
  refine ⟨?_, fun x r => endIfMixed_owing x, fun x r => endIfMixed_idle x, fun none_owed none => ?_, ended.scanner,
    ended.trunks, ended.pending, ended.blockCount, ended.out, ended.chStates, ended.booths, ended.ports⟩
  · rw [settleBlock_eq]
    generalize allSlots.foldl endIfMixed s = x
    show execMixBlockEnd x = _
    unfold execMixBlockEnd
    split <;> rfl
  · have still : allSlots.foldl endIfMixed s = s := foldl_fixed (fun r => endIfMixed_idle s (none_owed r)) _
    simp [settleBlock, still, none]

end

/-! ## Ramps that start (R155) -/

theorem Entry.latched_ramped (e : Entry) (target len : Nat) : e.ramped target len (e.latched target len) := by
  unfold Entry.latched
  refine ⟨fun rp hr ht => ?_, fun hn he hs => ?_, fun h => ?_⟩
  · simp [hr, ht]
  · simp [hn, he, hs]
  · rcases h with ⟨rp, hr, ht⟩ | ⟨hn, h⟩
    · simp [hr, ht]
    · simp only [hn]
      exact if_pos (by simpa using h)

/-- A ramp on its way to the target goes on. -/
theorem Entry.latched_underway {e : Entry} {rp : Ramp} {target : Nat} (hr : e.ramp = some rp) (ht : rp.target = target)
    (n : Nat) : e.latched target n = e := by
  simp [Entry.latched, hr, ht]

/-- An entry latched twice with one target starts one ramp. -/
theorem Entry.latched_latched (e : Entry) (target n m : Nat) :
    (e.latched target n).latched target m = e.latched target n := by
  obtain ⟨underway, rests, starts⟩ := e.latched_ramped target n
  obtain ⟨underway', rests', -⟩ := e.latched_ramped target m
  by_cases h : (∃ rp, e.ramp = some rp ∧ rp.target ≠ target) ∨ (e.ramp = none ∧ (e.e ≠ target ∨ e.state = .opening))
  · rw [starts h]
    exact Entry.latched_underway (rp := { start := e.e, target := target, len := n, pos := 0 }) rfl rfl m
  · cases hr : e.ramp with
    | some rp =>
      have ht : rp.target = target := by simpa [hr] using h
      rw [underway rp hr ht, underway' rp hr ht]
    | none =>
      obtain ⟨he, hs⟩ : e.e = target ∧ e.state ≠ .opening := by simpa [hr] using h
      rw [rests hr he hs, rests' hr he hs]

/-- A latched room's entries are those of the hall filed in its segments that are not GRANTED. -/
structure LatchOf (h : Hall) (l : LatchedRoom) : Prop where
  nodup : (l.entries.map (·.ref)).Nodup
  mem   : ∀ y, y ∈ l.entries ↔ ∃ e, h.entry y.ref = some e ∧ inSet l.segs e.seg = true ∧ e.state ≠ .granted ∧
    y.target = targetGain h y.ref.trunk e ∧ y.left = none

section
variable (h : Hall)

theorem latchRoom_of {i : SegId} {r : Room} (hr : h.room i = some r) : LatchOf h (latchRoom h i r) := by
  refine ⟨?_, fun y => ?_⟩
  · have refs : (latchRoom h i r).entries.map (·.ref) =
        ((h.speaking i).filter fun x => x.2.state ≠ .granted).map (·.1) := by
      simp only [latchRoom, List.map_map]
      rfl
    rw [refs]
    exact entriesIn_nodup.sublist (List.filter_sublist.map _)
  · simp only [latchRoom, List.mem_map, List.mem_filter, decide_eq_true_eq]
    constructor
    · rintro ⟨⟨q, e⟩, ⟨hq, hs⟩, rfl⟩
      obtain ⟨he, hin⟩ := (mem_speaking hr).1 hq
      exact ⟨e, he, hin, hs, rfl, rfl⟩
    · rintro ⟨e, he, hin, hs, ht, hl⟩
      exact ⟨(y.ref, e), ⟨(mem_speaking hr).2 ⟨he, hin⟩, hs⟩, by rw [← ht, ← hl]⟩

/-- The ramps of a list of latched entries start, each in its slot. -/
theorem startEntries_entry {l : List LatchedEntry} (hl : (l.map (·.ref)).Nodup) (len : Nat) (q : SlotRef) :
    (∀ y ∈ l, y.ref = q → (l.foldl (fun g x => g.setEntry x.ref ((g.entry x.ref).map fun e => e.latched x.target len))
        h).entry q = (h.entry q).map fun e => e.latched y.target len) ∧
      ((∀ y ∈ l, y.ref ≠ q) → (l.foldl (fun g x => g.setEntry x.ref
        ((g.entry x.ref).map fun e => e.latched x.target len)) h).entry q = h.entry q) := by
  induction l generalizing h with
  | nil => exact ⟨fun y hy => absurd hy List.not_mem_nil, fun _ => rfl⟩
  | cons x l ih =>
    obtain ⟨hx, hl⟩ := List.nodup_cons.1 hl
    obtain ⟨here, there⟩ := ih (h.setEntry x.ref ((h.entry x.ref).map fun e => e.latched x.target len)) hl
    have apart {y : LatchedEntry} (hy : y ∈ l) : x.ref ≠ y.ref := fun e => hx (List.mem_map.2 ⟨y, hy, e.symm⟩)
    refine ⟨fun y hy hq => ?_, fun hn => ?_⟩
    · rcases List.mem_cons.1 hy with rfl | hy
      · refine (there fun z hz => ?_).trans ?_
        · exact hq ▸ (apart hz).symm
        · rw [← hq, Hall.setEntry_entry]
      · rw [List.foldl_cons, here y hy hq, Hall.setEntry_entry_ne _ _ (hq ▸ apart hy)]
    · rw [List.foldl_cons, there fun y hy => hn y (.tail x hy), Hall.setEntry_entry_ne _ _ (hn x (.head l))]

variable {h} {g : Hall} {l : LatchedRoom} {q : SlotRef}

theorem startRamps_entry (w : LatchOf h l) : (startRamps g l).entry q = match h.entry q with
    | some e => if inSet l.segs e.seg = true ∧ e.state ≠ .granted then
        (g.entry q).map fun x => x.latched (targetGain h q.trunk e) l.ramp else g.entry q
    | none => g.entry q := by
  obtain ⟨here, there⟩ := startEntries_entry g w.nodup l.ramp q
  cases he : h.entry q with
  | none =>
    refine there fun y hy hq => ?_
    obtain ⟨e, he', -⟩ := (w.mem y).1 hy
    rw [hq, he] at he'
    cases he'
  | some e =>
    by_cases hc : inSet l.segs e.seg = true ∧ e.state ≠ .granted
    · refine (here ⟨q, targetGain h q.trunk e, none⟩ ((w.mem _).2 ⟨e, he, hc.1, hc.2, rfl, rfl⟩) rfl).trans ?_
      exact (if_pos hc).symm
    · refine (there fun y hy hq => hc ?_).trans (if_neg hc).symm
      obtain ⟨e', he', hin, hs, -⟩ := (w.mem y).1 hy
      rw [hq, he] at he'
      cases he'
      exact ⟨hin, hs⟩

/-- Of the rooms that latch an entry the first starts its ramp. -/
theorem startAll_entry {ls : List LatchedRoom} (w : ∀ l ∈ ls, LatchOf h l) :
    (ls.foldl startRamps g).entry q = match h.entry q with
    | some e => if e.state = .granted then g.entry q else
        match ls.find? fun l => inSet l.segs e.seg with
        | some l => (g.entry q).map fun x => x.latched (targetGain h q.trunk e) l.ramp
        | none => g.entry q
    | none => g.entry q := by
  induction ls generalizing g with
  | nil =>
    cases h.entry q with
    | none => rfl
    | some e => exact (ite_self _).symm
  | cons l ls ih =>
    rw [List.foldl_cons, ih fun l hl => w l (.tail _ hl), startRamps_entry (w l (.head ls))]
    cases h.entry q with
    | none => rfl
    | some e =>
      by_cases hs : e.state = .granted
      · simp [hs]
      · by_cases hin : inSet l.segs e.seg = true
        · simp only [hs, hin, ne_eq, not_false_eq_true, and_self, if_true, if_false, List.find?_cons]
          split
          · simp only [Option.map_map, Function.comp_def, Entry.latched_latched]
          · rfl
        · simp [hs, hin]

/-- The latched rooms, in ascending id. -/
def latchedRooms (h : Hall) : List LatchedRoom := allSegIds.filterMap fun i => (h.room i).map (latchRoom h i)

theorem latchedRooms_of : ∀ l ∈ latchedRooms h, LatchOf h l := by
  intro l hl
  obtain ⟨i, -, hi⟩ := List.mem_filterMap.1 hl
  obtain ⟨r, hr, rfl⟩ := Option.map_eq_some_iff.1 hi
  exact latchRoom_of h hr

theorem latchedRooms_find (sg : SegId) : (latchedRooms h).find? (fun l => inSet l.segs sg) =
    (h.roomOf sg).bind fun i => (h.room i).map (latchRoom h i) := by
  rw [latchedRooms, List.find?_filterMap, Hall.roomOf]
  congr 2
  funext i
  cases h.room i <;> rfl

theorem startAll_hall (ls : List LatchedRoom) (h : Hall) :
    ls.foldl startRamps h = { h with pools := (ls.foldl startRamps h).pools } := by
  refine foldl_keeps (P := fun g : Hall => g = { h with pools := g.pools }) (fun g l hg => ?_) ls h rfl
  exact foldl_keeps (P := fun k : Hall => k = { h with pools := k.pools })
    (fun k x hk => by rw [hk]; rfl) l.entries g hg

end

/-! ## The channels (R161) -/

theorem ChState.toward_sent (c : ChState) (v d len : Nat) : c.sent v d len (c.toward (v, d) len) := by
  unfold ChState.toward
  refine ⟨fun rp hr hv hd => ?_, fun hn hv hd => ?_, fun h => ?_⟩
  · simp [hr, hv, hd]
  · simp [hn, hv, hd]
  · rcases h with ⟨rp, hr, h⟩ | ⟨hn, h⟩
    · simp only [hr]
      exact if_neg (by simpa [Prod.ext_iff, or_iff_not_imp_left] using h)
    · simp only [hn]
      exact if_neg (by simpa [Prod.ext_iff, or_iff_not_imp_left] using h)

section
variable {h : Hall} {b : BoothId}

/-- The channel of a LIVE booth of a latched room goes toward its targets. -/
theorem channelStart_live (hb : (h.booths[b]).state = .live) {rooms : Vector (Option LatchedRoom) 8}
    {l : LatchedRoom} (room : (latchBooth h b).room.bind (fun i => rooms[i]) = some l) (old : LatchedBooth) (c : ChState) :
    channelStart rooms old (latchBooth h b) c =
      (if old.lang = (h.booths[b]).output then c else ChState.reset).toward (channelTargets (latchBooth h b) l.duck)
        l.ramp := by
  unfold channelStart
  refine (if_neg (not_not.2 hb)).trans ?_
  simp only [room]
  rfl

/-- The channel targets of a LIVE booth: it speaks with its mic on, unless its language is the floor's. -/
theorem latched_targets (hb : (h.booths[b]).state = .live) (duck : Nat) : channelTargets (latchBooth h b) duck =
    (if (h.booths[b]).mic && !h.floorMatched b then (h.booths[b]).gain else 0,
      if (h.booths[b]).mic && !h.floorMatched b then duck else 16384) := by
  have air : (latchBooth h b).onAir = (h.booths[b]).mic := by
    show (decide ((h.booths[b]).state = .live) && (h.booths[b]).mic) = _
    rw [hb]
    rfl
  unfold channelTargets
  rw [air]
  show (if (h.booths[b]).mic && !h.floorMatched b then _ else _) = _
  split <;> rfl

end

/-! ## The latch -/

section
variable (s : State)

theorem latch_hall : (latch s).hall = (latchedRooms s.hall).foldl startRamps s.hall := by
  simp only [latch, latchedRooms]
  exact congrArg (List.foldl startRamps s.hall) (List.filterMap_congr fun i _ => tab_get _ i)

theorem latch_room (i : SegId) : (latch s).mix.rooms[i] = (s.hall.room i).map (latchRoom s.hall i) := tab_get _ i

theorem latch_entry (q : SlotRef) : (latch s).hall.entry q = (s.hall.entry q).map fun e =>
    if e.state = .granted then e else
      match (s.hall.roomOf e.seg).bind fun i => (s.hall.room i).map (latchRoom s.hall i) with
      | some l => e.latched (targetGain s.hall q.trunk e) l.ramp
      | none => e := by
  rw [latch_hall, startAll_entry latchedRooms_of]
  cases s.hall.entry q with
  | none => rfl
  | some e =>
    simp only [latchedRooms_find, Option.map_some]
    repeat' split
    all_goals rfl

theorem latch_latched : s.latched (latch s) := by
  refine ⟨rfl, rfl, rfl, rfl, ?_, rfl, rfl, rfl, rfl, fun i hi => ?_, fun i r hr => ?_, fun k e => ⟨fun a ha ho => ?_,
    fun hs => ?_⟩, fun b => ?_, fun c => tab_get _ c, fun q hq => ?_, fun q e he h => ?_,
    fun q e i r he hs hi hr => ?_, fun b => ⟨fun hb => ?_, fun i r hb hi hr => ?_⟩⟩
  · rw [latch_hall]
    exact startAll_hall _ _
  · rw [latch_room, hi]
    rfl
  · have of := latchRoom_of s.hall hr
    refine ⟨_, (latch_room s i).trans (by rw [hr]; rfl), rfl, rfl, rfl, rfl, rfl, of.nodup, of.mem⟩
  · unfold targetGain
    have holder : holderOf k e = some { trunk := k, addr := a } := by rw [holderOf, ha]; rfl
    rw [holder]
    simp only [Entry.onAir, Bool.or_eq_true, decide_eq_true_eq] at ho
    rcases ho with ho | ho <;> rw [ho]
  · simp [targetGain, hs]
  · exact tab_get _ b
  · rw [latch_entry, hq]
    rfl
  · rw [latch_entry, he, Option.map_some]
    rcases h with h | h
    · rw [if_pos h]
    · rw [h]
      simp
  · refine ⟨e.latched (targetGain s.hall q.trunk e) r.settings.ramp, ?_, e.latched_ramped _ _⟩
    rw [latch_entry, he, Option.map_some, if_neg hs, hi, Option.bind_some, hr]
    rfl
  · refine (tab_get _ b).trans (if_pos ?_)
    exact fun c => hb ((congrArg LatchedBooth.state (tab_get (latchBooth s.hall) b)).symm.trans c)
  · intro now speaks
    have start : (latch s).mix.chStates[b] = channelStart (latch s).mix.rooms s.mix.booths[b]
      (latchBooth s.hall b) s.mix.chStates[b] := (tab_get _ b).trans (by rw [tab_get]; rfl)
    have room : (latchBooth s.hall b).room.bind (fun i => (latch s).mix.rooms[i]) = some (latchRoom s.hall i r) := by
      rw [show (latchBooth s.hall b).room = some i from hi, Option.bind_some, latch_room, hr]
      rfl
    rw [start, channelStart_live hb room, latched_targets hb]
    exact ChState.toward_sent _ _ _ _

end

end Sys2Proof.Machine
end

section
/-! What grants and closings leave of booths, of rooms and of requests (R75, R76, R108); and what a block start prepares
before it latches: the gain applies, and the CLOSING entries that end (R157, R165; O55). -/

namespace Sys2Proof.Machine

/-! ## Booths and rooms -/

/-- From `h` to `g` the booths are kept, and of each room the floor language and the most recent speaker; an elevated
mark stays or is cleared. -/
structure Floored (h g : Hall) : Prop where
  booths   : g.booths = h.booths
  spoken   : ∀ i, (g.room i).map (fun r => (r.floorLang, r.lastSpeaker)) =
    (h.room i).map fun r => (r.floorLang, r.lastSpeaker)
  elevated : ∀ i r r', h.room i = some r → g.room i = some r' → r'.elevated = r.elevated ∨ r'.elevated = none

namespace Floored

/-- The rooms and the booths are not written. -/
theorem of_eq {h g : Hall} (rooms : g.rooms = h.rooms) (booths : g.booths = h.booths) : Floored h g := by
  refine ⟨booths, fun i => by simp only [Hall.room, rooms], fun i r r' hr hr' => .inl ?_⟩
  have same : g.room i = h.room i := by simp only [Hall.room, rooms]
  cases hr.symm.trans (same.symm.trans hr')
  rfl

theorem refl (h : Hall) : Floored h h := of_eq rfl rfl

theorem trans {f g h : Hall} (a : Floored f g) (b : Floored g h) : Floored f h := by
  refine ⟨b.booths.trans a.booths, fun i => (b.spoken i).trans (a.spoken i), fun i r r' hr hr' => ?_⟩
  have mid : (g.room i).isSome := by
    have := congrArg Option.isSome (a.spoken i)
    simpa [hr] using this
  obtain ⟨x, hx⟩ := Option.isSome_iff_exists.1 mid
  rcases b.elevated i x r' hx hr' with e | e
  · rw [e]
    exact a.elevated i r x hr hx
  · exact .inr e

theorem mapRooms (h : Hall) (f : SegId → Room → Room) (hl : ∀ i r, (f i r).floorLang = r.floorLang)
    (hs : ∀ i r, (f i r).lastSpeaker = r.lastSpeaker)
    (he : ∀ i r, (f i r).elevated = r.elevated ∨ (f i r).elevated = none) :
    Floored h { h with rooms := tab fun i => (h.rooms[i]).map (f i) } := by
  have room (i : SegId) : ({ h with rooms := tab fun i => (h.rooms[i]).map (f i) } : Hall).room i =
      (h.room i).map (f i) := tab_get _ i
  refine ⟨rfl, fun i => ?_, fun i r r' hr hr' => ?_⟩
  · simp only [room, Option.map_map, Function.comp_def, hl, hs]
  · rw [room, hr] at hr'
    cases hr'
    exact he i r

theorem setRoom {h : Hall} {i : SegId} {r r' : Room} (hr : h.room i = some r) (hl : r'.floorLang = r.floorLang)
    (hs : r'.lastSpeaker = r.lastSpeaker) (he : r'.elevated = r.elevated ∨ r'.elevated = none) :
    Floored h (h.setRoom i (some r')) := by
  refine ⟨rfl, fun j => ?_, fun j x y hx hy => ?_⟩
  · by_cases hij : i = j
    · subst hij; simp [hr, hl, hs]
    · rw [Hall.setRoom_room_ne _ _ hij]
  · rcases setRoom_room_cases hy with ⟨rfl, e⟩ | ⟨-, e⟩
    · cases e
      cases hr.symm.trans hx
      exact he
    · cases hx.symm.trans e
      exact .inl rfl

theorem fold {γ : Type} {f : Hall → γ → Hall} (hf : ∀ g c, Floored g (f g c)) (l : List γ) (h : Hall) :
    Floored h (l.foldl f h) :=
  foldl_keeps (P := Floored h) (fun _ c w => w.trans (hf _ c)) l h (refl h)

end Floored

section
variable (h : Hall)

theorem raiseAt_floored (f : Flag) (sg : SegId) : Floored h (raiseAt f sg h) := by
  unfold raiseAt
  split <;> exact .of_eq rfl rfl

theorem giveFloor_floored (u : UnitId) (o : FloorOrder) : Floored h (giveFloor h u o) := by
  unfold giveFloor
  split <;> exact .of_eq rfl rfl

theorem raiseSeat_floored (sg : Option SegId) : Floored h (raiseSeat sg h) := by
  unfold raiseSeat
  split
  · exact raiseAt_floored h _ _
  · exact .refl h

theorem alignSeat_floored (u : UnitId) : Floored h (alignSeat h u) := by
  unfold alignSeat
  simp only []
  split
  · exact .trans (.of_eq (g := h.setUnit u { h.unit u with seat := (h.unit u).seatCalled }) rfl rfl)
      ((raiseSeat_floored _ _).trans (raiseSeat_floored _ _))
  · exact .refl h

theorem Room.unmarked_cases (u : UnitId) (r : Room) :
    (r.unmarked u).elevated = r.elevated ∨ (r.unmarked u).elevated = none := by
  unfold Room.unmarked
  split
  · exact .inr rfl
  · exact .inl rfl

theorem Room.unmarked_spoken (u : UnitId) (r : Room) :
    (r.unmarked u).floorLang = r.floorLang ∧ (r.unmarked u).lastSpeaker = r.lastSpeaker := by
  unfold Room.unmarked
  split <;> exact ⟨rfl, rfl⟩

theorem setEntry_floored (r : SlotRef) (e : Option Entry) : Floored h (h.setEntry r e) := .of_eq rfl rfl

theorem removeRequest_floored (u : UnitId) : Floored h (removeRequest h u) := by
  have gone : Floored h { h with requests := h.requests.filter fun q => q.unit ≠ u } := .of_eq rfl rfl
  exact gone.trans (.mapRooms _ (fun _ => Room.unmarked u) (fun _ r => (Room.unmarked_spoken u r).1)
    (fun _ r => (Room.unmarked_spoken u r).2) fun _ => Room.unmarked_cases u)

theorem wake_floored (i : SegId) : Floored h (wake h i) := by
  unfold wake
  split
  · exact .refl h
  · next r hr =>
    split
    · exact (Floored.setRoom (r' := { r with dormant := false }) hr rfl rfl (.inl rfl)).trans (.of_eq rfl rfl)
    · split
      · exact .setRoom (r' := { r with idle := some (idleMs r) }) hr rfl rfl (.inl rfl)
      · exact .refl h

theorem grantUnit_floored (u : UnitId) (g : Option Stamp) : Floored h (grantUnit h u g) := by
  unfold grantUnit
  split
  · next k sg _ _ =>
    have taken (e : Option Entry) : Floored h (giveFloor ((removeRequest { h with seq := h.seq + 1 } u).setEntry
        { trunk := u.trunk, slot := k } e) u (.grant k)) := by
      have counted : Floored h { h with seq := h.seq + 1 } := .of_eq rfl rfl
      exact counted.trans ((removeRequest_floored _ u).trans ((setEntry_floored _ _ _).trans (giveFloor_floored _ _ _)))
    simp only []
    split
    · exact (taken _).trans ((raiseAt_floored _ _ _).trans (wake_floored _ _))
    · exact (taken _).trans (raiseAt_floored _ _ _)
  · exact .refl h

variable {h}

theorem Served.floored {g : Hall} (w : Served h g) : Floored h g := by
  cases w with
  | grant _ => exact grantUnit_floored h _ _
  | age _ _ =>
    unfold ageRoom
    split
    · exact .of_eq rfl rfl
    · exact .refl h
  | rotation _ => exact .of_eq rfl rfl

theorem Serving.floored {g : Hall} (w : Serving h g) : Floored h g := by
  induction w with
  | refl => exact .refl h
  | tail _ step ih => exact ih.trans step.floored

/-! ## Requests keep their stamps -/

/-- Each request of `g` was one of `h`, with its unit and stamp. -/
def Stamped (h g : Hall) : Prop := ∀ y ∈ g.requests, ∃ y' ∈ h.requests, y'.unit = y.unit ∧ y'.stamp = y.stamp

theorem Stamped.trans {f g h : Hall} (a : Stamped f g) (b : Stamped g h) : Stamped f h := fun y hy => by
  obtain ⟨y', hy', unit, stamp⟩ := b y hy
  obtain ⟨y'', hy'', unit', stamp'⟩ := a y' hy'
  exact ⟨y'', hy'', unit'.trans unit, stamp'.trans stamp⟩

theorem Stamped.of_subset {h g : Hall} (e : g.requests ⊆ h.requests) : Stamped h g := fun y hy => ⟨y, e hy, rfl, rfl⟩

theorem ageRequest_stamp (s : Settings) (q : Request) : (ageRequest s q).stamp = q.stamp := by
  unfold ageRequest
  split <;> rfl

theorem Served.stamped {g : Hall} (w : Served h g) : Stamped h g := by
  cases w with
  | @grant u _ =>
    rcases grantUnit_cases h u none with e | ⟨r, x, t⟩
    · rw [e]
      exact .of_subset (List.Subset.refl _)
    · exact .of_subset (by rw [t.requests]; exact List.filter_subset_self _)
  | @age i r hr _ =>
    intro y hy
    simp only [ageRoom, hr, mapRequests, List.mem_map] at hy
    obtain ⟨q, hq, rfl⟩ := hy
    refine ⟨q, hq, ?_⟩
    split
    · exact ⟨(ageRequest_unit _ q).symm, (ageRequest_stamp _ q).symm⟩
    · exact ⟨rfl, rfl⟩
  | rotation _ => exact .of_subset (List.Subset.refl _)

theorem Serving.stamped {g : Hall} (w : Serving h g) : Stamped h g := by
  induction w with
  | refl => exact .of_subset (List.Subset.refl _)
  | tail _ step ih => exact ih.trans step.stamped

end

/-! ## Entries that end at a block start (R157) -/

/-- No entry of the unit ends here. -/
def Hall.endless (h : Hall) (u : UnitId) : Prop :=
  ∀ q e, h.entry q = some e → q.trunk = u.trunk → e.unit = some u.addr → ¬e.silentEnd

theorem endsAtStart_iff (e : Entry) : endsAtStart e = true ↔ e.silentEnd := by
  unfold endsAtStart Entry.silentEnd
  cases e.ramp <;> simp [and_assoc]

theorem not_silentEnd_of_granted {e : Entry} (h : e.state = .granted) : ¬e.silentEnd := fun c => by
  rw [c.1] at h
  cases h

/-- From `h` to `g` CLOSING entries that end here have left their slots, and freed slots have been handed on (R76,
R85). -/
structure Silenced (h g : Hall) : Prop where
  onward   : Onward h g
  floored  : Floored h g
  stamped  : Stamped h g
  slots    : ∀ q e, g.entry q = some e → h.entry q = some e ∨ e.state = .granted
  kept     : ∀ q e, h.entry q = some e → ¬e.silentEnd → g.entry q = some e
  idle     : ∀ u, h.requestOf u = none → h.endless u → g.requestOf u = none ∧ g.addr u = h.addr u ∧ g.unit u = h.unit u

namespace Silenced

theorem refl (h : Hall) : Silenced h h :=
  ⟨.refl h, .refl h, .of_subset (List.Subset.refl _), fun _ _ => .inl, fun _ _ he _ => he, fun _ hu _ => ⟨hu, rfl, rfl⟩⟩

theorem endless {h g : Hall} (w : Silenced h g) {u : UnitId} (hu : h.endless u) : g.endless u := by
  intro q e he trunk unit
  rcases w.slots q e he with he | hs
  · exact hu q e he trunk unit
  · exact not_silentEnd_of_granted hs

theorem trans {f g h : Hall} (a : Silenced f g) (b : Silenced g h) : Silenced f h := by
  refine ⟨a.onward.trans b.onward, a.floored.trans b.floored, a.stamped.trans b.stamped, fun q e he => ?_,
    fun q e he hn => b.kept q e (a.kept q e he hn) hn, fun u hu hn => ?_⟩
  · rcases b.slots q e he with he | hs
    · exact a.slots q e he
    · exact .inr hs
  · obtain ⟨none, addr, unit⟩ := a.idle u hu hn
    obtain ⟨none', addr', unit'⟩ := b.idle u none (a.endless hn)
    exact ⟨none', addr'.trans addr, unit'.trans unit⟩

theorem of_serving {h g : Hall} (w : Serving h g) : Silenced h g := by
  refine ⟨w.onward, w.floored, w.stamped, fun q e he => ?_, fun q e he _ => w.filled.held q e he, fun u hu _ => ?_⟩
  · rcases w.filled.new q e he with he | ⟨-, hs, -⟩
    · exact .inl he
    · exact .inr hs
  · exact ⟨(w.requestless hu).1, (w.requestless hu).2, unit_of_units w.units u⟩

end Silenced

section
variable (h : Hall) (r : SlotRef) (e : Entry)

theorem dropEntry_floored : Floored h (dropEntry h r e) :=
  (setEntry_floored h r none).trans (raiseAt_floored _ _ _)

theorem releasedHall_onward : Onward h (releasedHall h r e) := by
  unfold releasedHall
  split
  · exact (dropEntry_onward h r e).trans ((giveFloor_onward _ _ _).trans (alignSeat_onward _ _))
  · exact dropEntry_onward h r e

theorem releasedHall_floored : Floored h (releasedHall h r e) := by
  unfold releasedHall
  split
  · exact (dropEntry_floored h r e).trans ((giveFloor_floored _ _ _).trans (alignSeat_floored _ _))
  · exact dropEntry_floored h r e

theorem releasedHall_entry (q : SlotRef) : (releasedHall h r e).entry q = if q = r then none else h.entry q := by
  rw [entry_of_pools (releasedHall_pools h r e)]
  split
  · next hq => rw [hq, Hall.setEntry_entry]
  · next hq => exact Hall.setEntry_entry_ne _ _ fun c => hq c.symm

/-- The removal of an entry gives nothing to another unit. -/
theorem releasedHall_other {u : UnitId} (hu : holderOf r.trunk e ≠ some u) :
    (releasedHall h r e).addr u = h.addr u ∧ (releasedHall h r e).unit u = h.unit u := by
  unfold releasedHall
  split
  · next v hv =>
    have hne : v ≠ u := fun c => hu (hv.trans (congrArg some c))
    rw [alignSeat_addr, giveFloor_addr_ne _ _ hne, alignSeat_unit _ v u (.inl hne)]
    exact ⟨addr_of_addrs (dropEntry_addrs h r e) u,
      unit_of_units ((giveFloor_units _ _ _).trans (dropEntry_units h r e)) u⟩
  · exact ⟨addr_of_addrs (dropEntry_addrs h r e) u, unit_of_units (dropEntry_units h r e) u⟩

variable {h r e}

/-- An entry that ends leaves its slot, and the slot is handed on. -/
theorem closingDone_silenced (he : h.entry r = some e) (hs : e.silentEnd) : Silenced h (closingDone h r e) := by
  refine Silenced.trans (g := releasedHall h r e) ?_ (.of_serving (handOn_serving _ _ _ _))
  refine ⟨releasedHall_onward h r e, releasedHall_floored h r e, .of_subset (by simp), fun q x hx => ?_,
    fun q x hx hn => ?_, fun u hu hn => ?_⟩
  · rw [releasedHall_entry] at hx
    split at hx
    · cases hx
    · exact .inl hx
  · rw [releasedHall_entry, if_neg, hx]
    rintro rfl
    cases he.symm.trans hx
    exact hn hs
  · have other : holderOf r.trunk e ≠ some u := fun c => by
      obtain ⟨trunk, unit⟩ := holderOf_eq_some.1 c
      exact hn r e he trunk unit hs
    obtain ⟨addr, unit⟩ := releasedHall_other h r e other
    refine ⟨?_, addr, unit⟩
    rw [requestOf_eq_none, releasedHall_requests]
    exact requestOf_eq_none.1 hu

end

/-- From `s` to `t` entries have ended at a block start, and DRAIN perhaps with them (R37, R157). -/
structure SilentEnds (s t : State) : Prop where
  hall    : Silenced s.hall t.hall
  scanner : t.scanner = s.scanner
  trunks  : t.trunks = s.trunks
  mix     : t.mix = s.mix
  pending : t.pending = s.pending
  record  : t.regroup = { s.regroup with state := t.regroup.state }
  state   : t.regroup.state = s.regroup.state ∨ (s.regroup.state = .drain ∧ t.regroup.state = .commitWait)

namespace SilentEnds

theorem refl (s : State) : SilentEnds s s := ⟨.refl _, rfl, rfl, rfl, rfl, rfl, .inl rfl⟩

theorem trans {s t u : State} (a : SilentEnds s t) (b : SilentEnds t u) : SilentEnds s u := by
  refine ⟨a.hall.trans b.hall, b.scanner.trans a.scanner, b.trunks.trans a.trunks, b.mix.trans a.mix,
    b.pending.trans a.pending, ?_, ?_⟩
  · rw [b.record, a.record]
  · rcases b.state with e | ⟨e, e'⟩
    · rw [e]
      exact a.state
    · rcases a.state with f | ⟨-, f⟩
      · exact .inr ⟨f.symm.trans e, e'⟩
      · rw [f] at e
        cases e

end SilentEnds

section
variable {s : State} {r : SlotRef} {e : Entry}

theorem endSilent_ends (he : s.hall.entry r = some e) (hs : e.silentEnd) :
    endSilent s r = drainTest (s.withHall (closingDone s.hall r e)) := by
  simp only [endSilent, he, if_pos ((endsAtStart_iff e).2 hs)]

theorem endSilent_stays (h : ∀ e, s.hall.entry r = some e → ¬e.silentEnd) : endSilent s r = s := by
  unfold endSilent
  split
  · next e he => exact if_neg fun c => h e he ((endsAtStart_iff e).1 c)
  · rfl

theorem endSilent_silentEnds (s : State) (r : SlotRef) : SilentEnds s (endSilent s r) := by
  by_cases h : ∃ e, s.hall.entry r = some e ∧ e.silentEnd
  · obtain ⟨e, he, hs⟩ := h
    rw [endSilent_ends he hs, drainTest_eq]
    refine ⟨closingDone_silenced he hs, rfl, rfl, rfl, rfl, rfl, ?_⟩
    show (if _ then _ else _) = _ ∨ _
    split
    · next c => exact .inr ⟨c.1, rfl⟩
    · exact .inl rfl
  · rw [endSilent_stays fun e he hs => h ⟨e, he, hs⟩]
    exact .refl s

theorem endAll_silentEnds (l : List SlotRef) (s : State) : SilentEnds s (l.foldl endSilent s) :=
  foldl_keeps (P := SilentEnds s) (fun _ r w => w.trans (endSilent_silentEnds _ r)) l s (.refl s)

/-- The slot of an entry that ends is free or newly granted (R157). -/
theorem endAll_freed {l : List SlotRef} (hr : r ∈ l) (he : s.hall.entry r = some e) (hs : e.silentEnd) {x : Entry}
    (hx : (l.foldl endSilent s).hall.entry r = some x) : x.state = .granted := by
  obtain ⟨a, b, rfl⟩ := List.append_of_mem hr
  rw [List.foldl_append, List.foldl_cons] at hx
  have first := endAll_silentEnds a s
  have last := endAll_silentEnds b (endSilent (a.foldl endSilent s) r)
  rcases last.hall.slots r x hx with hx | hg
  · by_contra hg
    by_cases h : ∃ y, (a.foldl endSilent s).hall.entry r = some y ∧ y.silentEnd
    · obtain ⟨y, hy, hys⟩ := h
      rw [endSilent_ends hy hys, drainTest_eq] at hx
      exact ((closingDone_entry _ r y hg).1 hx).1 rfl
    · rw [endSilent_stays fun y hy hys => h ⟨y, hy, hys⟩] at hx
      rcases first.hall.slots r x hx with hx' | hg'
      · cases he.symm.trans hx'
        exact h ⟨_, hx, hs⟩
      · exact hg hg'
  · exact hg

end

end Sys2Proof.Machine
end

section
/-! The gain applies of a block start (R165), and what it prepares before it latches (R149, R157; O55). -/

namespace Sys2Proof.Machine

/-! ## Gain applies (R165) -/

/-- A room once its pending gain apply has been made. -/
def Room.applied (r : Room) : Room := if r.staging.pending then { r with staging := Staging.empty } else r

/-- What a room's pending gain apply writes. -/
def pendingPairs (h : Hall) (i : SegId) : List (UnitId × Nat) :=
  match h.room i with
  | some r => if r.staging.pending then r.staging.pairs else []
  | none => []

theorem mem_pendingPairs {h : Hall} {i : SegId} {y : UnitId × Nat} : y ∈ pendingPairs h i ↔
    ∃ r, h.room i = some r ∧ r.staging.pending = true ∧ y ∈ r.staging.pairs := by
  unfold pendingPairs
  cases h.room i with
  | none => simp
  | some r => cases r.staging.pending <;> simp

namespace Room

variable (r : Room)

theorem applied_applied : r.applied.applied = r.applied := by
  unfold applied
  split
  · rfl
  · rfl

theorem applied_eq : r.applied = { r with
    staging := if r.staging.pending then { pairs := [], pending := false, applied := true } else r.staging } := by
  unfold applied
  split <;> rfl

end Room

section
variable (h : Hall)

theorem writeGains_eq (l : List (UnitId × Nat)) : writeGains h l = { h with units := (writeGains h l).units } :=
  foldl_keeps (P := fun g : Hall => g = { h with units := g.units }) (fun g y e => by rw [e]; rfl) l h rfl

theorem setGain_unit (y : UnitId × Nat) (u : UnitId) : (h.setUnit y.1 { h.unit y.1 with gain := y.2 }).unit u =
    if y.1 = u then { h.unit u with gain := y.2 } else h.unit u := by
  split
  · next e => rw [← e, Hall.setUnit_unit]
  · next e => exact Hall.setUnit_unit_ne h _ e

theorem writeGains_unit (l : List (UnitId × Nat)) (u : UnitId) :
    (writeGains h l).unit u = { h.unit u with gain := ((writeGains h l).unit u).gain } := by
  refine foldl_keeps (P := fun g : Hall => g.unit u = { h.unit u with gain := (g.unit u).gain }) (fun g y e => ?_) l h rfl
  rw [setGain_unit]
  split
  · rw [e]
  · exact e

variable {h} {u : UnitId}

theorem writeGains_unnamed {l : List (UnitId × Nat)} (hl : ∀ y ∈ l, y.1 ≠ u) : (writeGains h l).unit u = h.unit u := by
  induction l generalizing h with
  | nil => rfl
  | cons y l ih =>
    refine (ih fun y hy => hl y (.tail _ hy)).trans ?_
    rw [setGain_unit, if_neg (hl y (.head l))]

theorem writeGains_named {l : List (UnitId × Nat)} {n : Nat} (hu : (u, n) ∈ l) (hl : ∀ y ∈ l, y.1 = u → y.2 = n) :
    ((writeGains h l).unit u).gain = n := by
  induction l generalizing h with
  | nil => cases hu
  | cons y l ih =>
    by_cases later : ∃ z ∈ l, z.1 = u
    · obtain ⟨z, hz, e⟩ := later
      have hu' : (u, n) ∈ l := by
        rw [← e, ← hl z (.tail y hz) e]
        exact hz
      exact ih hu' fun z hz => hl z (.tail y hz)
    · have none : ∀ z ∈ l, z.1 ≠ u := fun z hz e => later ⟨z, hz, e⟩
      have first : y = (u, n) := ((List.mem_cons.1 hu).resolve_right fun hu' => none _ hu' rfl).symm
      show ((writeGains (h.setUnit y.1 { h.unit y.1 with gain := y.2 }) l).unit u).gain = n
      rw [writeGains_unnamed none, setGain_unit, first, if_pos rfl]

variable (h)

theorem applyRoomGains_eq (i : SegId) : applyRoomGains h i =
    { h with units := (writeGains h (pendingPairs h i)).units, rooms := (h.mapRoom i Room.applied).rooms } := by
  unfold applyRoomGains pendingPairs Hall.mapRoom Room.applied
  cases hr : h.room i with
  | none => rfl
  | some r =>
    cases hp : r.staging.pending with
    | true => simp only [if_true, hp]; rw [writeGains_eq]; rfl
    | false =>
      simp only [hp, Bool.false_eq_true, if_false]
      have same : put h.rooms i (some r) = h.rooms := by
        rw [← hr]
        exact put_read h.rooms i
      show h = { h with units := h.units, rooms := put h.rooms i (some r) }
      rw [same]

theorem applyRoomGains_room (i j : SegId) : (applyRoomGains h i).room j =
    if i = j then (h.room j).map Room.applied else h.room j := by
  rw [applyRoomGains_eq]
  show (h.mapRoom i Room.applied).room j = _
  unfold Hall.mapRoom
  split
  · next r hr =>
    split
    · next e => rw [← e, Hall.setRoom_room, hr]; rfl
    · next e => exact Hall.setRoom_room_ne h _ e
  · next hr =>
    split
    · next e => rw [← e, hr]; rfl
    · rfl

theorem applyRoomGains_pairs {i j : SegId} (hij : i ≠ j) : pendingPairs (applyRoomGains h i) j = pendingPairs h j := by
  simp only [pendingPairs, applyRoomGains_room, if_neg hij]

theorem unit_of_applied (i : SegId) (u : UnitId) :
    (applyRoomGains h i).unit u = (writeGains h (pendingPairs h i)).unit u := by
  rw [applyRoomGains_eq]; rfl

/-- The units see nothing of a hall but its unit table in a gain apply. -/
theorem writeGains_congr {g : Hall} (e : ∀ u, g.unit u = h.unit u) (l : List (UnitId × Nat)) (u : UnitId) :
    (writeGains g l).unit u = (writeGains h l).unit u := by
  induction l generalizing g h with
  | nil => exact e u
  | cons y l ih =>
    refine ih _ fun v => ?_
    rw [setGain_unit, setGain_unit, e v]

theorem applyGains_unit {l : List SegId} (hl : l.Nodup) (u : UnitId) :
    (l.foldl applyRoomGains h).unit u = (writeGains h (l.flatMap (pendingPairs h))).unit u := by
  induction l generalizing h with
  | nil => rfl
  | cons i l ih =>
    obtain ⟨hi, hl⟩ := List.nodup_cons.1 hl
    have rest : l.flatMap (pendingPairs (applyRoomGains h i)) = l.flatMap (pendingPairs h) :=
      List.flatMap_congr fun j hj => applyRoomGains_pairs h fun e => hi (e ▸ hj)
    rw [List.foldl_cons, ih _ hl, rest, List.flatMap_cons]
    refine (writeGains_congr (writeGains h (pendingPairs h i)) (fun v => unit_of_applied h i v) _ u).trans ?_
    simp only [writeGains, List.foldl_append]

theorem applyGains_room (l : List SegId) (j : SegId) : (l.foldl applyRoomGains h).room j =
    if j ∈ l then (h.room j).map Room.applied else h.room j := by
  induction l generalizing h with
  | nil => rfl
  | cons i l ih =>
    rw [List.foldl_cons, ih, applyRoomGains_room]
    by_cases hij : i = j
    · subst hij
      simp [Function.comp_def, Room.applied_applied]
    · simp [hij, Ne.symm hij]

/-- The hall once every pending gain apply has been made. -/
@[irreducible] def gainedHall : Hall := allSegIds.foldl applyRoomGains h

theorem gainedHall_eq : gainedHall h = { h with units := (gainedHall h).units, rooms := (gainedHall h).rooms } := by
  unfold gainedHall
  exact foldl_keeps (P := fun g : Hall => g = { h with units := g.units, rooms := g.rooms })
    (fun g i e => by rw [applyRoomGains_eq, e]) _ h rfl

theorem gainedHall_room (i : SegId) : (gainedHall h).room i = (h.room i).map Room.applied := by
  rw [gainedHall, applyGains_room]
  exact if_pos (List.mem_finRange i)

theorem gainedHall_writes (u : UnitId) :
    (gainedHall h).unit u = (writeGains h (allSegIds.flatMap (pendingPairs h))).unit u := by
  unfold gainedHall
  exact applyGains_unit h (List.nodup_finRange 8) u

theorem gainedHall_unit (u : UnitId) : (gainedHall h).unit u = { h.unit u with gain := ((gainedHall h).unit u).gain } := by
  rw [gainedHall_writes]
  exact writeGains_unit h _ u

variable {h}

theorem gainedHall_unnamed (hu : ∀ i r, h.room i = some r → r.staging.pending = true → ∀ y ∈ r.staging.pairs, y.1 ≠ u) :
    ((gainedHall h).unit u).gain = (h.unit u).gain := by
  rw [gainedHall_writes, writeGains_unnamed]
  intro y hy
  obtain ⟨i, -, hy⟩ := List.mem_flatMap.1 hy
  obtain ⟨r, hr, hp, hy⟩ := mem_pendingPairs.1 hy
  exact hu i r hr hp y hy

theorem gainedHall_named {i : SegId} {r : Room} {n : Nat} (hr : h.room i = some r) (hp : r.staging.pending = true)
    (hu : (u, n) ∈ r.staging.pairs) (hn : ∀ y ∈ r.staging.pairs, y.1 = u → y.2 = n)
    (ho : ∀ j r', j ≠ i → h.room j = some r' → r'.staging.pending = true → ∀ y ∈ r'.staging.pairs, y.1 ≠ u) :
    ((gainedHall h).unit u).gain = n := by
  rw [gainedHall_writes]
  refine writeGains_named (List.mem_flatMap.2 ⟨i, List.mem_finRange i, mem_pendingPairs.2 ⟨r, hr, hp, hu⟩⟩) ?_
  intro y hy e
  obtain ⟨j, -, hy⟩ := List.mem_flatMap.1 hy
  obtain ⟨r', hr', hp', hy⟩ := mem_pendingPairs.1 hy
  by_cases hij : j = i
  · subst hij
    cases hr.symm.trans hr'
    exact hn y hy e
  · exact absurd e (ho j r' hij hr' hp' y hy)

end

/-! ## Idle timers (R149) -/

section
variable (h : Hall)

theorem idleSweep_room (i : SegId) : (idleSweep h).room i = (h.room i).map fun r => { r with idle := idleAfter h i r } := by
  simp only [idleSweep, Hall.room, Fin.getElem_fin, tab_getElem]

theorem idleSweep_eq : idleSweep h = { h with rooms := (idleSweep h).rooms } := rfl

theorem idleSweep_floored : Floored h (idleSweep h) :=
  .mapRooms h (fun i r => { r with idle := idleAfter h i r }) (fun _ _ => rfl) (fun _ _ => rfl) fun _ _ => .inl rfl

theorem idleSweep_segsOf (i : SegId) : (idleSweep h).segsOf i = h.segsOf i := by
  unfold Hall.segsOf
  rw [idleSweep_room]
  cases h.room i <;> rfl

theorem idleSweep_roomOf (sg : SegId) : (idleSweep h).roomOf sg = h.roomOf sg := by
  unfold Hall.roomOf
  congr 1
  funext i
  rw [idleSweep_room]
  cases h.room i <;> rfl

theorem idleSweep_liveBooths (i : SegId) : (idleSweep h).liveBooths i = h.liveBooths i := by
  have room (b : BoothId) : (idleSweep h).boothRoom b = h.boothRoom b := by
    unfold Hall.boothRoom
    rw [funext (idleSweep_roomOf h), idleSweep_booths]
  unfold Hall.liveBooths
  rw [funext room]
  rfl

theorem idleSweep_roomIdle (i : SegId) : (idleSweep h).roomIdle i = h.roomIdle i := by
  unfold Hall.roomIdle Hall.speaking Hall.queue
  rw [idleSweep_segsOf, idleSweep_liveBooths]
  rfl

/-- Bringing the idle timers in line twice is bringing them in line once. -/
theorem idleSweep_idleSweep : idleSweep (idleSweep h) = idleSweep h := by
  have rooms : (idleSweep (idleSweep h)).rooms = (idleSweep h).rooms := table_ext fun i => by
    show (idleSweep (idleSweep h)).room i = (idleSweep h).room i
    rw [idleSweep_room, idleSweep_room, Option.map_map]
    cases h.room i with
    | none => rfl
    | some r =>
      simp only [Option.map_some, Function.comp_apply, idleAfter, idleSweep_roomIdle, idleMs]
      by_cases c : (!r.dormant && h.roomIdle i && r.settings.idle ≠ 0) = true
      · simp only [if_pos c, Option.getD_some]
      · simp only [if_neg c]
  rw [idleSweep_eq (idleSweep h), rooms]

theorem setEntry_setEntry (r : SlotRef) (a b : Option Entry) : (h.setEntry r a).setEntry r b = h.setEntry r b := by
  have pools : ((h.setEntry r a).setEntry r b).pools = (h.setEntry r b).pools := table_ext fun t => table_ext fun k => by
    show ((h.setEntry r a).setEntry r b).entry ⟨t, k⟩ = (h.setEntry r b).entry ⟨t, k⟩
    by_cases e : r = ⟨t, k⟩
    · rw [← e, Hall.setEntry_entry, Hall.setEntry_entry]
    · simp only [Hall.setEntry_entry_ne _ _ e]
  show ({ h with pools := ((h.setEntry r a).setEntry r b).pools } : Hall) = _
  rw [pools]
  rfl

end

/-! ## What a block start prepares -/

section
variable {s : State}

theorem endSilent_rampEnd {r : SlotRef} {e : Entry} (he : s.hall.entry r = some e) (hs : e.silentEnd) :
    ∃ y, exec (.rampEnd r.trunk r.slot)
        { s with hall := s.hall.setEntry r (some { e with ramp := some ⟨0, 0, 96, 96⟩ }) } = .next y ∧
      (endSilent s r).sweep.hall = y.hall ∧ (endSilent s r).regroup = y.regroup := by
  refine ⟨_, execRampEnd_some (Hall.setEntry_entry _ _ _) rfl, ?_⟩
  rw [endRamp_closes (e := { e with ramp := some ⟨0, 0, 96, 96⟩ }) hs.1 rfl, endSilent_ends he hs, drainTest_eq, drainTest_eq]
  have ends : closingDone (s.hall.setEntry r (some { e with ramp := some ⟨0, 0, 96, 96⟩ })) r
      (Entry.rampDone { e with ramp := some ⟨0, 0, 96, 96⟩ } ⟨0, 0, 96, 96⟩) = closingDone s.hall r e := by
    unfold closingDone dropEntry
    rw [setEntry_setEntry]
    rfl
  simp only [State.floorHall_hall, ends, closingInFrozen_idleSweep]
  exact ⟨rfl, rfl⟩

/-- Every entry that ends at the block start has left its slot, and the idle timers are in line (R149, R157). -/
@[irreducible] def silentAll (s : State) : State := (allSlots.foldl endSilent s).sweep

theorem sweep_silentEnds (s : State) : SilentEnds s s.sweep :=
  ⟨⟨idleSweep_onward _, idleSweep_floored _, .of_subset (List.Subset.refl _), fun _ _ => .inl, fun _ _ he _ => he,
    fun _ hu _ => ⟨hu, rfl, rfl⟩⟩, rfl, rfl, rfl, rfl, rfl, .inl rfl⟩

theorem silentAll_ends (s : State) : SilentEnds s (silentAll s) := by
  unfold silentAll
  exact (endAll_silentEnds allSlots s).trans (sweep_silentEnds _)

/-- Where no entry ends, the idle timers alone are brought in line. -/
theorem silentAll_still (h : ∀ q e, s.hall.entry q = some e → ¬e.silentEnd) : silentAll s = s.sweep := by
  unfold silentAll
  rw [foldl_fixed (b := s) fun r => endSilent_stays (h r)]

theorem sweep_idle (s : State) : idleSweep s.sweep.hall = s.sweep.hall := idleSweep_idleSweep s.hall

theorem silentAll_idle : idleSweep (silentAll s).hall = (silentAll s).hall := by
  unfold silentAll
  exact sweep_idle _

theorem silentAll_freed {q : SlotRef} {e x : Entry} (he : s.hall.entry q = some e) (hs : e.silentEnd)
    (hx : (silentAll s).hall.entry q = some x) : x.state = .granted := by
  have kept (y : State) : y.sweep.hall.entry q = y.hall.entry q := rfl
  unfold silentAll at hx
  rw [kept] at hx
  exact endAll_freed (mem_allSlots q) he hs hx

end

section
variable (s : State)

/-- The state with the pending gain applies made. -/
def gained : State := s.withHall (gainedHall s.hall)

@[simp] theorem gained_entry (q : SlotRef) : (gained s).hall.entry q = s.hall.entry q := by
  show (gainedHall s.hall).entry q = s.hall.entry q
  rw [gainedHall_eq]
  rfl

theorem gained_room (i : SegId) : (gained s).hall.room i = (s.hall.room i).map Room.applied := gainedHall_room s.hall i

theorem gained_unit (u : UnitId) : (gained s).hall.unit u = { s.hall.unit u with gain := ((gained s).hall.unit u).gain } :=
  gainedHall_unit s.hall u

theorem gained_hall : (gained s).hall = { s.hall with units := (gained s).hall.units, rooms := (gained s).hall.rooms } :=
  gainedHall_eq s.hall

theorem silentAll_gained : silentAll (gained s) =
    (allSlots.foldl endSilent (s.withHall (allSegIds.foldl applyRoomGains s.hall))).sweep := by
  unfold silentAll gained gainedHall
  rfl

variable {s}

theorem Room.applied_kept (r : Room) : r.applied.floorLang = r.floorLang ∧ r.applied.lastSpeaker = r.lastSpeaker ∧
    r.applied.elevated = r.elevated ∧ r.applied.dormant = r.dormant ∧ r.applied.frozen = r.frozen := by
  unfold applied
  split <;> exact ⟨rfl, rfl, rfl, rfl, rfl⟩

theorem preparedState_prepared : s.prepared (silentAll (gained s)) := by
  have ends := silentAll_ends (gained s)
  have idle := silentAll_idle (s := gained s)
  have still := silentAll_still (s := gained s)
  have freed := fun q e x => silentAll_freed (s := gained s) (q := q) (e := e) (x := x)
  have first := silentAll_gained s
  generalize silentAll (gained s) = t at ends idle still freed first ⊢
  have hall := ends.hall
  have unit (u : UnitId) : (t.hall.unit u).core = ((gained s).hall.unit u).core := core_unit hall.onward.core u
  have gain (u : UnitId) : (t.hall.unit u).gain = ((gained s).hall.unit u).gain := congrArg (·.2.2.2.2.1) (unit u)
  have requests : (gained s).hall.requests = s.hall.requests := by rw [gained_hall]
  have addrs : (gained s).hall.addrs = s.hall.addrs := by rw [gained_hall]
  have ports : (gained s).hall.ports = s.hall.ports := by rw [gained_hall]
  simp only [gained_entry] at still freed
  refine ⟨first, fun x r => endSilent_stays, fun x r e => endSilent_rampEnd, fun none => ?_, fun p => ?_, fun q hq e' he' => ?_,
    fun y hy => ?_, fun u hu hn => ?_, ends.scanner, ends.trunks, ends.mix, ends.pending, ends.record, ends.state, ?_, ?_,
    fun p => ?_, idle, fun i hi => ?_, fun i r hr => ?_, fun u => ?_, fun u hu => ?_, fun i r u n hr hp hu hn ho => ?_,
    fun q e he => ⟨fun hn => ?_, fun hs e' he' => ?_⟩⟩
  · rw [still none]
    refine ⟨rfl, requests, addrs, by rw [State.sweep_hall, idleSweep_seq, gained_hall],
      by rw [State.sweep_hall, idleSweep_rotation, gained_hall], by rw [State.sweep_hall, idleSweep_pools, gained_hall],
      ports, fun u => gained_unit s u, fun i r hr => ?_⟩
    obtain ⟨-, -, mark, dormant, -⟩ := r.applied_kept
    exact ⟨{ r.applied with idle := idleAfter (gained s).hall i r.applied }, by rw [State.sweep_hall, idleSweep_room, gained_room, hr]; rfl, mark,
      dormant⟩
  · have kept := hall.onward.flags p
    rw [ports] at kept
    rw [← kept, BitVec.and_assoc, BitVec.and_not_self]
    exact BitVec.and_zero
  · rcases hall.slots q e' he' with he | hs
    · simp [hq] at he
    · exact hs
  · exact requests ▸ hall.stamped y hy
  · obtain ⟨none, addr, same⟩ := hall.idle u (by rw [Hall.requestOf, requests]; exact hu) fun q e he => by
      rw [gained_entry] at he
      exact hn q e he
    exact ⟨none, addr.trans (addr_of_addrs addrs u), by rw [same]; exact gained_unit s u⟩
  · rw [hall.floored.booths, gained_hall]
  · rw [show t.hall.radiators = (gained s).hall.radiators from congrArg (·.2.2.2.1) hall.onward.core, gained_hall]
  · rw [core_port hall.onward.core p, ports]
  · have core := core_room hall.onward.core i
    rw [gained_room, hi] at core
    simpa using core
  · have core := core_room hall.onward.core i
    have spoken := hall.floored.spoken i
    have frozen := hall.onward.frozen i
    have room : (gained s).hall.room i = some r.applied := by rw [gained_room, hr]; rfl
    obtain ⟨lang, last, mark, -, freeze⟩ := r.applied_kept
    rw [room] at core spoken frozen
    obtain ⟨r', hr', core⟩ := Option.map_eq_some_iff.1 core
    rw [hr', Option.map_some, Option.map_some, Option.some_inj, Prod.mk.injEq] at spoken
    rw [hr', Option.map_some, Option.map_some, Option.some_inj] at frozen
    refine ⟨r', hr', spoken.1.trans lang, spoken.2.trans last, frozen.trans freeze, ?_, core.trans ?_⟩
    · rw [← mark]
      exact hall.floored.elevated i _ _ room hr'
    · rw [r.applied_eq]
  · rw [gain, unit, gained_unit]
  · rw [gain]
    exact gainedHall_unnamed hu
  · rw [gain]
    exact gainedHall_named hr hp hu hn ho
  · exact hall.kept q e (by rw [gained_entry, he]) hn
  · exact freed q e e' he hs he'

end

end Sys2Proof.Machine
end

section
/-! What REINIT leaves at a block start (R47, R48, R99, R136, R146, R179; O55). -/

namespace Sys2Proof.Machine

/-! ## The plans of rebuilt rooms -/

theorem placePlan_id (taken : List (Nat × Nat)) (p : Plan) : (placePlan taken p).id = p.id := by
  unfold placePlan
  split
  · rfl
  · split
    · rfl
    · simp only []
      split <;> rfl

theorem placeAll_ids (taken : List (Nat × Nat)) (ps : List Plan) : (placeAll taken ps).map (·.id) = ps.map (·.id) := by
  induction ps generalizing taken with
  | nil => rfl
  | cons p ps ih => simp only [placeAll, List.map_cons, placePlan_id, ih]

/-- A map room whose plan is placed has a plan. -/
theorem planOf_placed (taken : List (Nat × Nat)) {ps : List Plan} {p : Plan} {m : MapRoom} (hp : p ∈ ps) (e : p.id = m.id) :
    planOf (placeWindows taken ps) m ∈ placeWindows taken ps ∧ (planOf (placeWindows taken ps) m).id = m.id := by
  have ids : m.id ∈ (placeWindows taken ps).map (·.id) := by
    rw [placeWindows, placeAll_ids]
    exact List.mem_map.2 ⟨p, (sortBy_perm _ _).mem_iff.2 hp, e⟩
  obtain ⟨q, hq, hid⟩ := List.mem_map.1 ids
  unfold planOf
  split
  · next x hx => exact ⟨List.mem_of_find?_eq_some hx, by simpa using List.find?_some hx⟩
  · next hx => exact absurd (decide_eq_true hid) (List.find?_eq_none.1 hx q hq)

theorem freshPlan_id (sc : Scanner) (m : MapRoom) : (freshPlan sc m).id = m.id := rfl

theorem startPlan_id (sc : Scanner) (h : Hall) (m : MapRoom) : (startPlan sc h m).id = m.id := by
  unfold startPlan
  split
  · rfl
  · simp only []
    split <;> rfl

/-! ## The generation of a rebuilt room (R44) -/

theorem mem_sharing {h : Hall} {x : SegSet} {j : SegId} {r : Room} :
    (j, r) ∈ h.sharing x ↔ h.room j = some r ∧ (r.segs &&& x) ≠ 0 := by
  simp only [Hall.sharing, List.mem_filterMap]
  constructor
  · rintro ⟨i, -, hi⟩
    split at hi
    · next r' hr =>
      split at hi
      · next hs => cases hi; exact ⟨hr, hs⟩
      · cases hi
    · cases hi
  · rintro ⟨hr, hs⟩
    exact ⟨j, List.mem_finRange j, by simp only [hr, if_pos hs]⟩

/-- The highest value of a key among those of a list. -/
theorem foldl_max {β : Type} (f : β → Nat) (l : List β) (n : Nat) : n ≤ l.foldl (fun n y => max n (f y)) n ∧
    (∀ y ∈ l, f y ≤ l.foldl (fun n y => max n (f y)) n) ∧
    ∀ k, n ≤ k → (∀ y ∈ l, f y ≤ k) → l.foldl (fun n y => max n (f y)) n ≤ k := by
  induction l generalizing n with
  | nil => exact ⟨le_rfl, fun y hy => absurd hy List.not_mem_nil, fun k hk _ => hk⟩
  | cons z l ih =>
    obtain ⟨start, upper, least⟩ := ih (max n (f z))
    refine ⟨(le_max_left _ _).trans start, fun y hy => ?_, fun k hn hl => ?_⟩
    · rcases List.mem_cons.1 hy with rfl | hy
      · exact (le_max_right _ _).trans start
      · exact upper y hy
    · exact least k (max_le hn (hl z (.head l))) fun y hy => hl y (.tail z hy)

theorem nextGen_eq {h : Hall} {x : SegSet} {j : SegId} {r : Room} (hr : h.room j = some r) (hs : (r.segs &&& x) ≠ 0)
    (top : ∀ k r', h.room k = some r' → (r'.segs &&& x) ≠ 0 → r'.gen ≤ r.gen) : nextGen h x = r.gen + 1 := by
  obtain ⟨-, upper, least⟩ := foldl_max (fun y : SegId × Room => y.2.gen.toNat) (h.sharing x) 0
  have highest : (h.sharing x).foldl (fun n y => max n y.2.gen.toNat) 0 = r.gen.toNat := by
    refine le_antisymm (least _ (Nat.zero_le _) fun y hy => ?_) (upper (j, r) (mem_sharing.2 ⟨hr, hs⟩))
    obtain ⟨hr', hs'⟩ := mem_sharing.1 hy
    exact BitVec.le_def.1 (top _ _ hr' hs')
  rw [nextGen, highest, BitVec.ofNat_toNat, BitVec.setWidth_eq]

/-- A fresh room is rebuilt from the hall whose generations and consoles it takes. -/
theorem freshRoom_rebuiltFrom (sc : Scanner) (h : Hall) (m : MapRoom) (p : Plan) :
    (freshRoom sc h m p).rebuiltFrom h m p :=
  ⟨rfl, rfl, rfl, rfl, rfl, rfl, rfl, rfl, rfl, rfl, rfl, fun _ _ hr hs top => nextGen_eq hr hs top⟩

theorem Room.rebuiltFrom_of_core {g h : Hall} (e : g.core = h.core) {r : Room} {m : MapRoom} {p : Plan}
    (w : r.rebuiltFrom g m p) : r.rebuiltFrom h m p := by
  obtain ⟨segs, lead, frozen, dormant, staging, console, base, size, langs, placement, dropped, gen⟩ := w
  have room {g h : Hall} (e : g.core = h.core) {k : SegId} {x : Room} (hx : h.room k = some x) :
      ∃ y, g.room k = some y ∧ y.segs = x.segs ∧ y.gen = x.gen := by
    have core := core_room e k
    rw [hx] at core
    obtain ⟨y, hy, core⟩ := Option.map_eq_some_iff.1 core
    exact ⟨y, hy, congrArg (·.1) core, congrArg (·.2.2.1) core⟩
  refine ⟨segs, lead, frozen, dormant, staging, console.trans (consoleOf_of_scopes (scopes_of_core e) _), base, size, langs,
    placement, dropped, fun j x hx hs top => ?_⟩
  obtain ⟨y, hy, ys, yg⟩ := room e hx
  rw [← yg]
  refine gen j y hy (ys ▸ hs) fun k z hz hzs => ?_
  obtain ⟨w, hw, ws, wg⟩ := room e.symm hz
  rw [yg, ← wg]
  exact top k w hw (ws ▸ hzs)

/-! ## Units at REINIT (R99) -/

section
variable (h : Hall)

theorem raiseAt_eq (f : Flag) (sg : SegId) : raiseAt f sg h = { h with ports := (raiseAt f sg h).ports } := by
  unfold raiseAt
  split <;> rfl

theorem raiseSeat_eq (sg : Option SegId) : raiseSeat sg h = { h with ports := (raiseSeat sg h).ports } := by
  unfold raiseSeat
  split
  · exact raiseAt_eq h _ _
  · rfl

theorem alignSeat_eq (u : UnitId) :
    alignSeat h u = { h with units := (alignSeat h u).units, ports := (alignSeat h u).ports } := by
  unfold alignSeat
  simp only []
  split
  · rw [raiseSeat_eq, raiseSeat_eq]
    rfl
  · rfl

theorem giveFloor_eq (u : UnitId) (o : FloorOrder) : giveFloor h u o = { h with addrs := (giveFloor h u o).addrs } := by
  unfold giveFloor
  split <;> rfl

theorem giveNotice_eq (u : UnitId) (n : Notice) : giveNotice h u n = { h with addrs := (giveNotice h u n).addrs } := by
  unfold giveNotice
  split <;> rfl

theorem alignSeat_idle {u : UnitId} (idle : h.floorState u = .idle) :
    (alignSeat h u).unit u = { h.unit u with seat := (h.unit u).seatCalled } := by
  unfold alignSeat
  simp only []
  split
  · rw [unit_of_units ((raiseSeat_units _ _).trans (raiseSeat_units _ _)), Hall.setUnit_unit]
  · next c =>
    have same : (h.unit u).seatCalled = (h.unit u).seat := by simpa [idle] using c
    rw [same]

/-- No request waits and no slot is held. -/
structure Hall.Cleared (h : Hall) : Prop where
  requests : h.requests = []
  entries  : ∀ q, h.entry q = none

variable {h}

theorem Hall.Cleared.idle (w : h.Cleared) (u : UnitId) : h.floorState u = .idle := by
  have entry : h.entryOf u = none := by simp [Hall.entryOf, w.entries]
  simp [Hall.floorState, Hall.requestOf, w.requests, entry]

theorem Hall.Cleared.of_eq {g : Hall} (w : h.Cleared) (requests : g.requests = h.requests) (pools : g.pools = h.pools) :
    g.Cleared :=
  ⟨requests.trans w.requests, fun q => (entry_of_pools pools q).trans (w.entries q)⟩

variable (h)

theorem giveNotice_addr (u : UnitId) (n : Notice) : (giveNotice h u n).addr u =
    { h.addr u with notice := if (h.unit u).present then some n else (h.addr u).notice } := by
  unfold giveNotice
  split <;> simp

theorem giveNotice_addr_ne {u v : UnitId} (n : Notice) (huv : u ≠ v) : (giveNotice h u n).addr v = h.addr v := by
  unfold giveNotice
  split
  · exact Hall.setAddr_addr_ne _ _ huv
  · rfl

variable (before : Hall) (u : UnitId)

/-- The orders of a unit at REINIT (R99). -/
def reinitOrders : Hall :=
  if (before.requestOf u).isSome then giveFloor h u .deny
  else if (before.entryOf u).isSome then
    if (before.unit u).warned then giveNotice (giveFloor (stopConfirm h u) u .release) u .clearWarn
    else giveFloor (stopConfirm h u) u .release
  else h

theorem reinitUnit_eq : reinitUnit before h u = alignSeat ((reinitOrders h before u).setUnit u
    { (reinitOrders h before u).unit u with warned := false }) u := by
  unfold reinitUnit reinitOrders
  rfl

theorem reinitOrders_rest : reinitOrders h before u = { h with addrs := (reinitOrders h before u).addrs } := by
  unfold reinitOrders
  split
  · exact giveFloor_eq h u _
  · split
    · split
      · rw [giveNotice_eq, giveFloor_eq]
        rfl
      · rw [giveFloor_eq]
        rfl
    · rfl

theorem reinitUnit_rest : reinitUnit before h u = { h with
    units := (reinitUnit before h u).units, addrs := (reinitUnit before h u).addrs,
    ports := (reinitUnit before h u).ports } := by
  rw [reinitUnit_eq, alignSeat_eq, reinitOrders_rest]
  rfl

theorem reinitUnit_other {v : UnitId} (huv : u ≠ v) :
    (reinitUnit before h u).unit v = h.unit v ∧ (reinitUnit before h u).addr v = h.addr v := by
  rw [reinitUnit_eq, alignSeat_unit _ _ _ (.inl huv), alignSeat_addr, Hall.setUnit_unit_ne _ _ huv, Hall.setUnit_addr]
  constructor
  · rw [reinitOrders_rest]
    rfl
  · unfold reinitOrders
    repeat' split
    · exact giveFloor_addr_ne _ _ huv
    · rw [giveNotice_addr_ne _ _ huv, giveFloor_addr_ne _ _ huv]
      exact stopConfirm_addr_ne h huv
    · rw [giveFloor_addr_ne _ _ huv]
      exact stopConfirm_addr_ne h huv
    · rfl

variable {h} in
theorem reinitUnit_unit (w : h.Cleared) : (reinitUnit before h u).unit u =
    { h.unit u with warned := false, seat := (h.unit u).seatCalled } := by
  have unit : (reinitOrders h before u).unit u = h.unit u := by
    rw [reinitOrders_rest]
    rfl
  have clear : ((reinitOrders h before u).setUnit u
      { (reinitOrders h before u).unit u with warned := false }).Cleared := by
    rw [reinitOrders_rest]
    exact w.of_eq rfl rfl
  rw [reinitUnit_eq, alignSeat_idle _ (clear.idle u), Hall.setUnit_unit, unit]
  rfl

/-- The address record that REINIT leaves of a unit with the record `a` (R99). -/
def reinitAddr (before : Hall) (u : UnitId) (a : AddrRec) : AddrRec :=
  if (before.requestOf u).isSome then
    { a with floorOrder := if (before.unit u).present then some .deny else a.floorOrder }
  else if (before.entryOf u).isSome then
    { a with
      confirm := none,
      floorOrder := if (before.unit u).present then some .release else a.floorOrder,
      notice := if (before.unit u).present ∧ (before.unit u).warned then some .clearWarn else a.notice }
  else a

theorem reinitUnit_addr (present : (h.unit u).present = (before.unit u).present) :
    (reinitUnit before h u).addr u = reinitAddr before u (h.addr u) := by
  rw [reinitUnit_eq, alignSeat_addr, Hall.setUnit_addr]
  have stopped : (stopConfirm h u).addr u = { h.addr u with confirm := none } := Hall.setAddr_addr _ _ _
  have unit : (stopConfirm h u).unit u = h.unit u := rfl
  have release : (giveFloor (stopConfirm h u) u .release).addr u = { h.addr u with
      confirm := none,
      floorOrder := if (before.unit u).present then some .release else (h.addr u).floorOrder } := by
    rw [giveFloor_addr, orderGiven, stopped, unit, present]
  unfold reinitOrders reinitAddr
  split
  · rw [giveFloor_addr, orderGiven, present]
  · split
    · split
      · next warned =>
        rw [giveNotice_addr, release, giveFloor_unit, unit, present]
        simp [warned]
      · next warned =>
        rw [release]
        simp [warned]
    · rfl

theorem mem_allUnits : u ∈ allUnits :=
  List.mem_flatMap.2 ⟨u.trunk, List.mem_finRange _, List.mem_map.2 ⟨u.addr, List.mem_finRange _, rfl⟩⟩

theorem allUnits_nodup : allUnits.Nodup := by
  refine List.nodup_flatMap.2 ⟨fun t _ => ?_, ?_⟩
  · exact (List.nodup_finRange 60).map fun a b e => congrArg UnitId.addr e
  · refine (List.nodup_finRange 4).imp fun {t t'} ht x hx hx' => ?_
    obtain ⟨a, -, rfl⟩ := List.mem_map.1 hx
    obtain ⟨b, -, e⟩ := List.mem_map.1 hx'
    exact ht (congrArg UnitId.trunk e).symm

variable {h}

/-- REINIT leaves each unit its own orders, and its seat where it is called for. -/
theorem reinitUnits_unit {l : List UnitId} (hl : l.Nodup) (w : h.Cleared) :
    (u ∉ l → (l.foldl (reinitUnit before) h).unit u = h.unit u ∧ (l.foldl (reinitUnit before) h).addr u = h.addr u) ∧
    (u ∈ l → (h.unit u).present = (before.unit u).present →
      (l.foldl (reinitUnit before) h).unit u = { h.unit u with warned := false, seat := (h.unit u).seatCalled } ∧
      (l.foldl (reinitUnit before) h).addr u = reinitAddr before u (h.addr u)) := by
  induction l generalizing h with
  | nil => exact ⟨fun _ => ⟨rfl, rfl⟩, fun hu => absurd hu List.not_mem_nil⟩
  | cons v l ih =>
    obtain ⟨hv, hl⟩ := List.nodup_cons.1 hl
    have clear : (reinitUnit before h v).Cleared := by
      rw [reinitUnit_rest]
      exact w.of_eq rfl rfl
    obtain ⟨out, inn⟩ := ih hl clear
    by_cases huv : v = u
    · subst huv
      refine ⟨fun hu => absurd (.head l) hu, fun _ present => ?_⟩
      obtain ⟨unit, addr⟩ := out hv
      exact ⟨unit.trans (reinitUnit_unit before v w), addr.trans (reinitUnit_addr h before v present)⟩
    · obtain ⟨unit, addr⟩ := reinitUnit_other h before v huv
      rw [unit, addr] at out inn
      refine ⟨fun hu => out fun c => hu (.tail v c), fun hu present => inn ?_ present⟩
      exact (List.mem_cons.1 hu).resolve_left fun e => huv e.symm

end

/-! ## REINIT (R179) -/

section
variable (h : Hall)

/-- The hall at REINIT with every queue and speaking list emptied and every slot free. -/
def clearedHall : Hall := { h with
  requests := [],
  pools := Vector.replicate 4 (Vector.replicate 8 none),
  rooms := tab fun i => (h.rooms[i]).map fun r => { r with elevated := none } }

theorem clearedHall_cleared : (clearedHall h).Cleared :=
  ⟨rfl, fun q => by simp [clearedHall, Hall.entry]⟩

theorem clearedHall_core : (clearedHall h).core = h.core :=
  (rooms_core { h with requests := [], pools := Vector.replicate 4 (Vector.replicate 8 none) }
    (fun _ r => { r with elevated := none }) fun _ _ => rfl).trans rfl

/-- The hall at REINIT with every unit given its orders. -/
@[irreducible] def reinitUnits : Hall := allUnits.foldl (reinitUnit h) (clearedHall h)

theorem reinitFloor_eq : reinitFloor h = raise .floor allSegs (reinitUnits h) := by
  unfold reinitUnits
  rfl

theorem reinitUnits_rest : reinitUnits h = { clearedHall h with
    units := (reinitUnits h).units, addrs := (reinitUnits h).addrs, ports := (reinitUnits h).ports } := by
  unfold reinitUnits
  exact foldl_keeps (P := fun g : Hall => g = { clearedHall h with units := g.units, addrs := g.addrs, ports := g.ports })
    (fun g u e => by rw [reinitUnit_rest, e]) _ _ rfl

theorem reinitUnits_core : (reinitUnits h).core = h.core := by
  unfold reinitUnits
  exact (fold_core _ (reinitUnit_core h) _).trans (clearedHall_core h)

theorem reinitUnits_self (u : UnitId) :
    (reinitUnits h).unit u = { h.unit u with warned := false, seat := (h.unit u).seatCalled } ∧
      (reinitUnits h).addr u = reinitAddr h u (h.addr u) := by
  unfold reinitUnits
  exact (reinitUnits_unit h u allUnits_nodup (clearedHall_cleared h)).2 (mem_allUnits u) rfl

end

section
variable (s : State)

/-- The room that REINIT builds for a room of the map of the moment. -/
def reinitRoom (m : MapRoom) : Room := freshRoom s.scanner (reinitFloor s.hall) m
  (planOf (placeWindows [] ((computeMap s.scanner).map (freshPlan s.scanner))) m)

/-- The hall with the rooms that REINIT builds. -/
def reinitRooms : Hall := replaceRooms (reinitFloor s.hall) allSegs (computeMap s.scanner) (reinitRoom s)

/-- The hall after REINIT, but for the events it raises last. -/
def reinitHall : Hall := { reinitRooms s with
  booths := tab fun b => reinitBooth (reinitRooms s).booths[b],
  ports := tab fun p => { (reinitRooms s).ports[p] with reinitPending := false } }

theorem reinitApply_hall : (reinitApply s).hall =
    raise .regroup allSegs (raise .room allSegs (raise .booth allSegs (reinitHall s))) := rfl

theorem reinitHall_eq : reinitHall s = { clearedHall s.hall with
    rooms := (reinitHall s).rooms, units := (reinitUnits s.hall).units, addrs := (reinitUnits s.hall).addrs,
    booths := tab fun b => reinitBooth s.hall.booths[b], ports := (reinitHall s).ports } := by
  have rooms : reinitRooms s = { reinitFloor s.hall with rooms := (reinitRooms s).rooms } := rfl
  have floor : reinitFloor s.hall = { clearedHall s.hall with
      units := (reinitUnits s.hall).units, addrs := (reinitUnits s.hall).addrs, ports := (reinitFloor s.hall).ports } := by
    rw [reinitFloor_eq, reinitUnits_rest]
    rfl
  have booths : (reinitRooms s).booths = s.hall.booths := by
    rw [rooms, floor]
    rfl
  unfold reinitHall
  rw [booths, rooms, floor]

theorem reinitFloor_core (h : Hall) : (reinitFloor h).core = h.core := by
  rw [reinitFloor_eq, raise_core, reinitUnits_core]

theorem reinitHall_port (p : PortId) :
    (reinitHall s).ports[p] = { (reinitFloor s.hall).ports[p] with reinitPending := false } := tab_get _ p

theorem reinitHall_port_core (p : PortId) :
    ((reinitHall s).ports[p]).core = ({ s.hall.ports[p] with reinitPending := false } : Port).core := by
  have core := core_port (reinitFloor_core s.hall) p
  rw [reinitHall_port]
  simp only [Port.core, Prod.mk.injEq] at core ⊢
  obtain ⟨role, scope, answer, -, mask, ack, att⟩ := core
  exact ⟨role, scope, answer, trivial, mask, ack, att⟩

theorem reinitHall_told : (reinitHall s).told .floor allSegs := by
  intro p
  rw [reinitHall_port, reinitFloor_eq]
  exact raise_told (reinitUnits s.hall) .floor allSegs p

theorem reinitRoom_rebuiltFrom (m : MapRoom) : (reinitRoom s m).rebuiltFrom s.hall m
    (planOf (placeWindows [] ((computeMap s.scanner).map (freshPlan s.scanner))) m) := by
  unfold reinitRoom
  exact Room.rebuiltFrom_of_core (reinitFloor_core s.hall) (freshRoom_rebuiltFrom _ _ _ _)

theorem reinitRoom_fromDefaults (m : MapRoom) : (reinitRoom s m).fromDefaults s.scanner.defaults[m.lead] := by
  unfold reinitRoom
  exact ⟨rfl, rfl, rfl, rfl, rfl⟩

theorem reinitHall_room (i : SegId) : (reinitHall s).room i = (reinitRooms s).room i := rfl

theorem reinitHall_built {m : MapRoom} (hm : m ∈ computeMap s.scanner) : ∃ r p, (reinitHall s).room m.id = some r ∧
    p ∈ placeWindows [] ((computeMap s.scanner).map (freshPlan s.scanner)) ∧ p.id = m.id ∧ r.rebuiltFrom s.hall m p ∧
    r.fromDefaults s.scanner.defaults[m.lead] := by
  obtain ⟨plan, id⟩ := planOf_placed [] (List.mem_map.2 ⟨m, hm, rfl⟩) (freshPlan_id s.scanner m)
  refine ⟨reinitRoom s m, _, ?_, plan, id, reinitRoom_rebuiltFrom s m, reinitRoom_fromDefaults s m⟩
  rw [reinitHall_room, reinitRooms]
  exact replaceRooms_built (ids_nodup ((computeMap_pairwise _).imp And.left)) hm

theorem reinitHall_unit (u : UnitId) :
    (reinitHall s).unit u = { s.hall.unit u with warned := false, seat := (s.hall.unit u).seatCalled } ∧
      (reinitHall s).addr u = reinitAddr s.hall u (s.hall.addr u) := by
  rw [reinitHall_eq]
  exact reinitUnits_self s.hall u

theorem reinitHall_cleared : (reinitHall s).Cleared := by
  rw [reinitHall_eq]
  exact (clearedHall_cleared s.hall).of_eq rfl rfl

theorem reinitAddr_asked {h : Hall} {u : UnitId} (asks : h.requestOf u ≠ none) (a : AddrRec) : reinitAddr h u a =
    { a with floorOrder := if (h.unit u).present then some .deny else a.floorOrder } :=
  if_pos (Option.isSome_iff_ne_none.2 asks)

theorem reinitAddr_held {h : Hall} {u : UnitId} (asks : h.requestOf u = none) (holds : h.entryOf u ≠ none) (a : AddrRec) :
    reinitAddr h u a = { a with
      confirm := none,
      floorOrder := if (h.unit u).present then some .release else a.floorOrder,
      notice := if (h.unit u).present ∧ (h.unit u).warned then some .clearWarn else a.notice } :=
  (if_neg (by simp [asks])).trans (if_pos (Option.isSome_iff_ne_none.2 holds))

theorem reinitAddr_idle {h : Hall} {u : UnitId} (asks : h.requestOf u = none) (holds : h.entryOf u = none) (a : AddrRec) :
    reinitAddr h u a = a :=
  (if_neg (by simp [asks])).trans (if_neg (by simp [holds]))

theorem reinitApply_rest : (reinitApply s).scanner = s.scanner ∧ (reinitApply s).trunks = s.trunks ∧
    (reinitApply s).mix = s.mix ∧ (reinitApply s).pending = s.pending ∧ (reinitApply s).regroup =
      { s.regroup with
        state := restState s.scanner, isOpen := false, affected := 0, consent := [], holds := [], silent := [],
        deadline := none, pendingMap := computeMap s.scanner } := ⟨rfl, rfl, rfl, rfl, rfl⟩

theorem reinitHall_rest : (reinitHall s).seq = s.hall.seq ∧ (reinitHall s).rotation = s.hall.rotation ∧
    (reinitHall s).radiators = s.hall.radiators ∧ ∀ b : BoothId, (reinitHall s).booths[b] = reinitBooth s.hall.booths[b] := by
  rw [reinitHall_eq]
  exact ⟨rfl, rfl, rfl, fun b => tab_get _ b⟩

/-- What REINIT raises changes of the hall the ports alone. -/
theorem reinitApply_raised : Onward (reinitHall s) (reinitApply s).hall ∧ (reinitApply s).hall =
    { reinitHall s with ports := (reinitApply s).hall.ports } ∧ (reinitApply s).hall.told .regroup allSegs ∧
    (reinitApply s).hall.told .room allSegs ∧ (reinitApply s).hall.told .booth allSegs := by
  rw [reinitApply_hall]
  generalize reinitHall s = k
  have booth := Onward.raise k .booth allSegs
  have room := Onward.raise (raise .booth allSegs k) .room allSegs
  have regroup := Onward.raise (raise .room allSegs (raise .booth allSegs k)) .regroup allSegs
  exact ⟨booth.trans (room.trans regroup), rfl, raise_told _ _ _, regroup.told (raise_told _ _ _),
    (room.trans regroup).told (raise_told _ _ _)⟩

/-- REINIT is applied as the statement says. -/
theorem reinitApply_reinited : s.reinited (reinitApply s) := by
  obtain ⟨scanner, trunks, mix, pending, regroup⟩ := reinitApply_rest s
  obtain ⟨last, hall, tellsRegroup, tellsRoom, tellsBooth⟩ := reinitApply_raised s
  obtain ⟨seq, rotation, radiators, booths⟩ := reinitHall_rest s
  have map := reinitApply_activeMap s
  have built := fun m hm => reinitHall_built s (m := m) hm
  have cleared := reinitHall_cleared s
  have unit := reinitHall_unit s
  have ports := reinitHall_port_core s
  have floor := last.told (reinitHall_told s)
  generalize reinitApply s = t at *
  generalize reinitHall s = k at *
  have idle (u : UnitId) : t.hall.floorState u = .idle := by
    rw [hall]
    exact (cleared.of_eq rfl rfl).idle u
  refine ⟨scanner, trunks, mix, pending, regroup, map, ?_, ?_, ?_, ?_, ?_, ?_, fun u => ?_, ?_, fun p => ?_, tellsRegroup,
    tellsRoom, floor, tellsBooth⟩
  · rw [hall]
    exact built
  · rw [hall]
    exact cleared.requests
  · rw [hall]
    exact cleared.entries
  · rw [hall]
    exact seq
  · rw [hall]
    exact rotation
  · rw [hall]
    exact radiators
  · have state := idle u
    obtain ⟨unit, addr⟩ := unit u
    have unit' : t.hall.unit u = _ := (congrArg (fun g : Hall => g.unit u) hall).trans unit
    have addr' : t.hall.addr u = _ := (congrArg (fun g : Hall => g.addr u) hall).trans addr
    refine ⟨(congrArg UnitRec.core unit').trans rfl, (congrArg UnitRec.warned unit').trans rfl, state,
      (congrArg UnitRec.seat unit').trans rfl, fun asks => ?_,
      fun asks holds => ?_, fun asks holds => ?_⟩
    · exact addr'.trans (reinitAddr_asked asks _)
    · exact addr'.trans (reinitAddr_held asks holds _)
    · exact addr'.trans (reinitAddr_idle asks holds _)
  · rw [hall]
    exact booths
  · exact (core_port last.core p).trans (ports p)

end

end Sys2Proof.Machine
end

section
/-! A commit refiles the floor of each rebuilt room: what the trimming, the cut of the queue and the lowered scores leave
of entries, requests, units, orders and elevated marks (R40 to R42; O55). -/

namespace Sys2Proof.Machine

/-! ## Records that trimming leaves -/

section
variable (h : Hall)

theorem clearWarn_eq (u : UnitId) :
    clearWarn h u = { h with units := (clearWarn h u).units, addrs := (clearWarn h u).addrs } := by
  unfold clearWarn
  split
  · rw [giveNotice_eq]
    rfl
  · rfl

/-- From `h` to `g` entries have been closed, slots, warned marks, notices and events apart from which nothing changed. -/
structure Quieted (h g : Hall) : Prop where
  rest  : g = { h with pools := g.pools, units := g.units, addrs := g.addrs, ports := g.ports }
  addrs : ∀ u, g.addr u = { h.addr u with notice := (g.addr u).notice }
  seats : ∀ u, (g.unit u).seat = (h.unit u).seat

namespace Quieted

theorem refl : Quieted h h := ⟨rfl, fun _ => rfl, fun _ => rfl⟩

variable {h}

theorem trans {f g : Hall} (a : Quieted f g) (b : Quieted g h) : Quieted f h :=
  ⟨by rw [b.rest, a.rest], fun u => by rw [b.addrs, a.addrs], fun u => (b.seats u).trans (a.seats u)⟩

end Quieted

theorem clearWarn_quieted (u : UnitId) : Quieted h (clearWarn h u) := by
  refine ⟨by rw [clearWarn_eq], fun v => ?_, clearWarn_seat h u⟩
  unfold clearWarn
  split
  · rw [Hall.setUnit_addr]
    by_cases huv : u = v
    · subst huv
      rw [giveNotice_addr]
    · rw [giveNotice_addr_ne h _ huv]
  · rfl

theorem setEntry_quieted (r : SlotRef) (e : Option Entry) : Quieted h (h.setEntry r e) := ⟨rfl, fun _ => rfl, fun _ => rfl⟩

theorem raiseAt_quieted (f : Flag) (sg : SegId) : Quieted h (raiseAt f sg h) := by
  rw [raiseAt_eq]
  exact ⟨rfl, fun _ => rfl, fun _ => rfl⟩

theorem closeEntry_quieted (r : SlotRef) : Quieted h (closeEntry h r) := by
  by_cases ho : ∃ e, h.entry r = some e ∧ e.onAir = true
  · obtain ⟨e, he, ho⟩ := ho
    rw [closeEntry_onAir h he ho, closedPools]
    refine Quieted.trans ?_ (raiseAt_quieted _ _ _)
    split
    · exact (setEntry_quieted h _ _).trans (clearWarn_quieted _ _)
    · exact setEntry_quieted h _ _
  · rw [closeEntry_offAir h fun e he => by simpa using fun c => ho ⟨e, he, c⟩]
    exact .refl h

theorem trimTo_quieted (x : SegSet) (n : Nat) : Quieted h (trimTo h x n) :=
  foldl_keeps (P := Quieted h) (fun g r w => w.trans (closeEntry_quieted g r)) _ _ (.refl h)

/-! ## Records that denying leaves -/

theorem denyWaiting_eq (u : UnitId) : denyWaiting h u = { h with
    requests := (denyWaiting h u).requests, rooms := (removeRequest h u).rooms, units := (denyWaiting h u).units,
    addrs := (denyWaiting h u).addrs, ports := (denyWaiting h u).ports } := by
  unfold denyWaiting
  rw [alignSeat_eq, giveFloor_eq]
  rfl

theorem denyWaiting_room (u : UnitId) (j : SegId) : (denyWaiting h u).room j = (h.room j).map (Room.unmarked u) := by
  rw [denyWaiting_eq]
  exact tab_get _ j

/-- Room `j` has its elevated mark on unit `v`. -/
def Hall.marked (h : Hall) (j : SegId) (v : UnitId) : Prop := ∃ r, h.room j = some r ∧ r.elevated = some v

theorem Room.unmarked_elevated (u v : UnitId) (r : Room) :
    (r.unmarked u).elevated = some v ↔ r.elevated = some v ∧ v ≠ u := by
  unfold Room.unmarked
  split
  · next hu =>
    simp only [hu, Option.some.injEq, reduceCtorEq, false_iff, not_and, not_not]
    exact Eq.symm
  · next hu =>
    refine ⟨fun hv => ⟨hv, fun e => hu (e ▸ hv)⟩, And.left⟩

theorem denyWaiting_marked (u : UnitId) (j : SegId) (v : UnitId) :
    (denyWaiting h u).marked j v ↔ h.marked j v ∧ v ≠ u := by
  unfold Hall.marked
  rw [denyWaiting_room]
  cases h.room j with
  | none => simp
  | some r => simp [Room.unmarked_elevated]

theorem denyWaiting_addr_ne {u v : UnitId} (huv : u ≠ v) : (denyWaiting h u).addr v = h.addr v := by
  unfold denyWaiting
  rw [alignSeat_addr, giveFloor_addr_ne _ _ huv]
  rfl

theorem denyWaiting_order {u : UnitId} (hp : (h.unit u).present = true) :
    ((denyWaiting h u).addr u).floorOrder = some .deny := by
  have present : ((removeRequest h u).unit u).present = true := hp
  unfold denyWaiting
  rw [alignSeat_addr, giveFloor_addr, orderGiven, if_pos present]

variable (us : List UnitId)

theorem denyAll_marked (j : SegId) (v : UnitId) : (us.foldl denyWaiting h).marked j v ↔ h.marked j v ∧ v ∉ us := by
  induction us generalizing h with
  | nil => simp
  | cons u us ih =>
    rw [List.foldl_cons, ih, denyWaiting_marked, List.mem_cons, not_or, and_assoc]

theorem denyAll_addr {v : UnitId} (hv : v ∉ us) : (us.foldl denyWaiting h).addr v = h.addr v := by
  induction us generalizing h with
  | nil => rfl
  | cons u us ih =>
    obtain ⟨hu, hv⟩ := not_or.1 (fun c => hv (List.mem_cons.2 c))
    rw [List.foldl_cons, ih _ hv, denyWaiting_addr_ne _ (Ne.symm hu)]

theorem denyAll_order {v : UnitId} (hv : v ∈ us) (hp : (h.unit v).present = true) :
    ((us.foldl denyWaiting h).addr v).floorOrder = some .deny := by
  induction us generalizing h with
  | nil => cases hv
  | cons u us ih =>
    have present : ((denyWaiting h u).unit v).present = true := by
      rw [← hp]
      exact congrArg (·.1) (core_unit (denyWaiting_core h u) v)
    by_cases later : v ∈ us
    · exact ih _ later present
    · rw [List.foldl_cons, denyAll_addr _ _ later]
      cases (List.mem_cons.1 hv).resolve_right later
      exact denyWaiting_order h hp

theorem denyAll_rest : (us.foldl denyWaiting h).seq = h.seq ∧ (us.foldl denyWaiting h).rotation = h.rotation :=
  foldl_keeps (P := fun g : Hall => g.seq = h.seq ∧ g.rotation = h.rotation)
    (fun g u w => by rw [denyWaiting_eq]; exact w) us h ⟨rfl, rfl⟩

theorem denyWaiting_floored (u : UnitId) : Floored h (denyWaiting h u) :=
  (removeRequest_floored h u).trans ((giveFloor_floored _ _ _).trans (alignSeat_floored _ _))

end

/-! ## One room refiled -/

section
variable (h : Hall) (i : SegId) (r : Room)

/-- The units whose requests a room's queue limit cuts off (R41). -/
def deniedUnits : List UnitId := ((h.queueIn r.segs).drop r.settings.queueLimit).map (·.unit)

/-- A room's elevated mark is cleared where its unit no longer waits in room `i` (R42). -/
def Room.markKept (r : Room) : Room :=
  match r.elevated with
  | some u => if (h.queue i).any fun q => q.unit = u then r else { r with elevated := none }
  | none => r

/-- The hall with a room's speaking list and queue brought within its limits, the scores as they were (R40, R41). -/
def limitedHall : Hall := (deniedUnits h r).foldl denyWaiting (trimTo h r.segs r.settings.openLimit)

/-- The hall with the scores lowered as well. -/
def easedHall : Hall := lowerScores (limitedHall h r) r.segs r.settings.max r.settings.guard

/-- A request with its score and its guard count brought within the room's bounds (R41). -/
def Room.eased (r : Room) (q : Request) : Request :=
  { q with score := min q.score r.settings.max, guard := min q.guard r.settings.guard }

/-- Queues agree where requests and seats do. -/
theorem queueIn_congr {g h : Hall} {x : SegSet} (requests : g.requests = h.requests)
    (seats : ∀ u, (g.unit u).seat = (h.unit u).seat) : g.queueIn x = h.queueIn x := by
  unfold Hall.queueIn Hall.seatedIn
  simp only [requests, seats]

theorem trimTo_queueIn (x y : SegSet) (n : Nat) : (trimTo h x n).queueIn y = h.queueIn y :=
  queueIn_congr (trimTo_requests h x n) (trimTo_quieted h x n).seats

theorem trimTo_room (x : SegSet) (n : Nat) (j : SegId) : (trimTo h x n).room j = h.room j := by
  rw [(trimTo_quieted h x n).rest]
  rfl

variable {h i r}

theorem cutQueue_trimTo (hr : h.room i = some r) :
    cutQueue (trimTo h r.segs r.settings.openLimit) i = limitedHall h r := by
  have hr' : (trimTo h r.segs r.settings.openLimit).room i = some r := by rw [trimTo_room, hr]
  rw [cutQueue_eq hr', Hall.cutUnits, queue_room hr', trimTo_queueIn]
  rfl

theorem refileRoom_eq (hr : h.room i = some r) : refileRoom h i =
    raiseRoom .floor i ((easedHall h r).mapRoom i (Room.markKept (easedHall h r) i)) := by
  unfold refileRoom
  rw [hr]
  simp only [cutQueue_trimTo hr]
  rfl

theorem refileRoom_none (hr : h.room i = none) : refileRoom h i = h := by
  simp only [refileRoom, hr]

theorem mapRoom_eq (f : Room → Room) : h.mapRoom i f = { h with rooms := (h.mapRoom i f).rooms } := by
  unfold Hall.mapRoom
  split <;> rfl

/-- Beside the mark of its room and the events, a refiled hall is that with the scores lowered. -/
theorem refileRoom_rest (hr : h.room i = some r) : refileRoom h i =
    { easedHall h r with rooms := (refileRoom h i).rooms, ports := (refileRoom h i).ports } := by
  rw [refileRoom_eq hr, mapRoom_eq]
  rfl

theorem limitedHall_seat {u : UnitId} (hu : u ∉ deniedUnits h r) : ((limitedHall h r).unit u).seat = (h.unit u).seat := by
  unfold limitedHall
  rw [denyAll_unit _ _ hu]
  exact (trimTo_quieted _ _ _).seats u

theorem limitedHall_requests : (limitedHall h r).requests = h.requests.filter fun q => q.unit ∉ deniedUnits h r := by
  unfold limitedHall
  rw [denyAll_requests, trimTo_requests]

theorem limitedHall_marked (j : SegId) (v : UnitId) :
    (limitedHall h r).marked j v ↔ h.marked j v ∧ v ∉ deniedUnits h r := by
  unfold limitedHall
  rw [denyAll_marked]
  unfold Hall.marked
  rw [trimTo_room]

theorem refileRoom_entry (hr : h.room i = some r) (q : SlotRef) : (refileRoom h i).entry q =
    if q ∈ trimRefs h r.segs r.settings.openLimit then (h.entry q).map Entry.closed else h.entry q := by
  rw [refileRoom_rest hr]
  show (limitedHall h r).entry q = _
  unfold limitedHall
  rw [entry_of_pools (denyAll_pools _ _), trimTo_entry]

theorem easedHall_requests : (easedHall h r).requests = (h.requests.filter fun q => q.unit ∉ deniedUnits h r).map fun q =>
    if h.seatedIn r.segs q.unit then r.eased q else q := by
  show (limitedHall h r).requests.map _ = _
  rw [limitedHall_requests]
  refine List.map_congr_left fun q hq => ?_
  have hq : q.unit ∉ deniedUnits h r := of_decide_eq_true (List.mem_filter.1 hq).2
  simp only [Hall.seatedIn, limitedHall_seat hq]
  rfl

theorem refileRoom_requests (hr : h.room i = some r) : (refileRoom h i).requests =
    (h.requests.filter fun q => q.unit ∉ deniedUnits h r).map fun q =>
      if h.seatedIn r.segs q.unit then r.eased q else q := by
  rw [refileRoom_rest hr]
  exact easedHall_requests

/-- The request of a room eased is its own but for score and guard count. -/
theorem Room.eased_unit (h : Hall) (r : Room) (q : Request) :
    (if h.seatedIn r.segs q.unit then r.eased q else q).unit = q.unit := by
  split <;> rfl

/-- A unit not denied waits where it waited. -/
theorem easedHall_waits {v : UnitId} (hv : v ∉ deniedUnits h r) (x : SegSet) :
    (∃ q ∈ (easedHall h r).queueIn x, q.unit = v) ↔ ∃ q ∈ h.queueIn x, q.unit = v := by
  have seated : (easedHall h r).seatedIn x v = h.seatedIn x v := by
    simp only [Hall.seatedIn, show ((easedHall h r).unit v).seat = (h.unit v).seat from limitedHall_seat hv]
  simp only [mem_queueIn, easedHall_requests, List.mem_map, List.mem_filter, decide_eq_true_eq]
  constructor
  · rintro ⟨q, ⟨⟨p, ⟨hp, -⟩, rfl⟩, hs⟩, rfl⟩
    rw [Room.eased_unit] at seated hs
    exact ⟨p, ⟨hp, seated ▸ hs⟩, (Room.eased_unit h r p).symm⟩
  · rintro ⟨p, ⟨hp, hs⟩, rfl⟩
    refine ⟨_, ⟨⟨p, ⟨hp, hv⟩, rfl⟩, ?_⟩, Room.eased_unit h r p⟩
    rw [Room.eased_unit, seated, hs]

theorem refileRoom_seat (hr : h.room i = some r) {u : UnitId} (hu : u ∉ deniedUnits h r) :
    ((refileRoom h i).unit u).seat = (h.unit u).seat := by
  rw [refileRoom_rest hr]
  exact limitedHall_seat hu

theorem refileRoom_addr (hr : h.room i = some r) {u : UnitId} (hu : u ∉ deniedUnits h r) :
    (refileRoom h i).addr u = { h.addr u with notice := ((refileRoom h i).addr u).notice } := by
  rw [refileRoom_rest hr]
  show (limitedHall h r).addr u = { h.addr u with notice := ((limitedHall h r).addr u).notice }
  unfold limitedHall
  rw [denyAll_addr _ _ hu]
  exact (trimTo_quieted _ _ _).addrs u

theorem refileRoom_order (hr : h.room i = some r) {u : UnitId} (hu : u ∈ deniedUnits h r)
    (hp : (h.unit u).present = true) : ((refileRoom h i).addr u).floorOrder = some .deny := by
  rw [refileRoom_rest hr]
  refine denyAll_order _ _ hu ?_
  rw [← hp]
  exact congrArg (·.1) (core_unit (trimTo_core h _ _) u)

theorem refileRoom_seq (hr : h.room i = some r) :
    (refileRoom h i).seq = h.seq ∧ (refileRoom h i).rotation = h.rotation := by
  rw [refileRoom_rest hr]
  obtain ⟨seq, rotation⟩ := denyAll_rest (trimTo h r.segs r.settings.openLimit) (deniedUnits h r)
  have kept := (trimTo_quieted h r.segs r.settings.openLimit).rest
  exact ⟨seq.trans (by rw [kept]), rotation.trans (by rw [kept])⟩

theorem Room.markKept_elevated (v : UnitId) : (r.markKept h i).elevated = some v ↔
    r.elevated = some v ∧ ∃ q ∈ h.queue i, q.unit = v := by
  unfold Room.markKept
  split
  · next u hu =>
    split
    · next c =>
      simp only [List.any_eq_true, decide_eq_true_eq] at c
      refine ⟨fun e => ⟨e, ?_⟩, And.left⟩
      rw [hu] at e
      cases e
      exact c
    · next c =>
      simp only [List.any_eq_true, decide_eq_true_eq] at c
      simp only [reduceCtorEq, false_iff, not_and, hu, Option.some.injEq]
      rintro rfl
      exact c
  · next hu => simp [hu]

theorem mapRoom_marked (f : Room → Room) (j : SegId) (v : UnitId) : (h.mapRoom i f).marked j v ↔
    ∃ x, h.room j = some x ∧ (if i = j then f x else x).elevated = some v := by
  unfold Hall.marked Hall.mapRoom
  cases hr : h.room i with
  | none =>
    refine exists_congr fun x => and_congr_right fun hx => ?_
    rw [if_neg]
    rintro rfl
    cases hr.symm.trans hx
  | some y =>
    by_cases e : i = j
    · subst e
      simp [hr]
    · simp [e, Hall.setRoom_room_ne _ _ e]

/-- A room refiled keeps a mark on a unit that still waits in the room, and another room's on a unit not denied. -/
theorem refileRoom_marked (hr : h.room i = some r) (j : SegId) (v : UnitId) : (refileRoom h i).marked j v ↔
    h.marked j v ∧ v ∉ deniedUnits h r ∧ (i = j → ∃ q ∈ h.queueIn r.segs, q.unit = v) := by
  have rooms : (refileRoom h i).marked j v ↔ ((easedHall h r).mapRoom i (Room.markKept (easedHall h r) i)).marked j v := by
    rw [refileRoom_eq hr]
    rfl
  have segs : (easedHall h r).segsOf i = r.segs := by
    have core := core_room (show (limitedHall h r).core = h.core from
      (fold_core _ denyWaiting_core _).trans (trimTo_core h _ _)) i
    rw [hr] at core
    obtain ⟨y, hy, core⟩ := Option.map_eq_some_iff.1 core
    exact (segsOf_room (h := easedHall h r) hy).trans (congrArg (·.1) core)
  have eased : (∃ x, (easedHall h r).room j = some x ∧ x.elevated = some v) ↔ h.marked j v ∧ v ∉ deniedUnits h r :=
    limitedHall_marked j v
  rw [rooms, mapRoom_marked, ← and_assoc, ← eased]
  by_cases e : i = j
  · simp only [if_pos e, Room.markKept_elevated, Hall.queue, segs]
    constructor
    · rintro ⟨x, hx, hv, waits⟩
      exact ⟨⟨x, hx, hv⟩, fun _ => (easedHall_waits (eased.1 ⟨x, hx, hv⟩).2 _).1 waits⟩
    · rintro ⟨⟨x, hx, hv⟩, waits⟩
      exact ⟨x, hx, hv, (easedHall_waits (eased.1 ⟨x, hx, hv⟩).2 _).2 (waits e)⟩
  · simp only [if_neg e]
    exact ⟨fun w => ⟨w, fun c => absurd c e⟩, And.left⟩

end

end Sys2Proof.Machine
end

section
/-! The refiling of the rebuilt rooms, one after the other: what it does to each room's floor, and what it leaves (R40 to
R42; O55). -/

namespace Sys2Proof.Machine

section
variable (h : Hall)

theorem raiseRoom_floored (f : Flag) (i : SegId) : Floored h (raiseRoom f i h) := .of_eq rfl rfl

theorem closeEntry_floored (r : SlotRef) : Floored h (closeEntry h r) := by
  rw [(closeEntry_quieted h r).rest]
  exact .of_eq rfl rfl

theorem lowerScores_floored (x : SegSet) (mx gd : Nat) : Floored h (lowerScores h x mx gd) := .of_eq rfl rfl

variable {h} {i : SegId} {r : Room}

theorem Room.markKept_cases : r.markKept h i = r ∨ r.markKept h i = { r with elevated := none } := by
  unfold Room.markKept
  repeat' split
  · exact .inl rfl
  · exact .inr rfl
  · exact .inl rfl

theorem easedHall_onward : Onward h (easedHall h r) :=
  (trimTo_closings h _ _).onward.trans ((Onward.fold denyWaiting_onward _ _).trans (requests_onward _ _))

theorem easedHall_floored : Floored h (easedHall h r) :=
  (Floored.fold closeEntry_floored _ h).trans ((Floored.fold denyWaiting_floored _ _).trans (lowerScores_floored _ _ _ _))

theorem markRoom_onward : Onward h (h.mapRoom i (Room.markKept h i)) := by
  unfold Hall.mapRoom
  split
  · next x hx =>
    rcases Room.markKept_cases (h := h) (i := i) (r := x) with e | e <;> rw [e]
    · exact .setRoom hx rfl rfl id
    · exact .setRoom hx rfl rfl id
  · exact .refl _

theorem markRoom_floored : Floored h (h.mapRoom i (Room.markKept h i)) := by
  unfold Hall.mapRoom
  split
  · next x hx =>
    rcases Room.markKept_cases (h := h) (i := i) (r := x) with e | e <;> rw [e]
    · exact .setRoom hx rfl rfl (.inl rfl)
    · exact .setRoom hx rfl rfl (.inr rfl)
  · exact .refl _

theorem refileRoom_onward (h : Hall) (i : SegId) : Onward h (refileRoom h i) := by
  cases hr : h.room i with
  | none => rw [refileRoom_none hr]; exact .refl h
  | some r =>
    rw [refileRoom_eq hr]
    exact easedHall_onward.trans (markRoom_onward.trans (raiseRoom_onward _ _ _))

theorem refileRoom_floored (h : Hall) (i : SegId) : Floored h (refileRoom h i) := by
  cases hr : h.room i with
  | none => rw [refileRoom_none hr]; exact .refl h
  | some r =>
    rw [refileRoom_eq hr]
    exact easedHall_floored.trans (markRoom_floored.trans (raiseRoom_floored _ _ _))

end

/-! ## Any number of rooms refiled -/

/-- From `h` to `g` rooms have been refiled: entries on air have been closed, and requests denied or lowered. -/
structure Refiling (h g : Hall) : Prop where
  onward   : Onward h g
  floored  : Floored h g
  fewer    : Fewer h g
  entry    : ∀ q, g.entry q = h.entry q ∨
    ∃ e, h.entry q = some e ∧ e.onAir = true ∧ e.chair = false ∧ g.entry q = some e.closed
  asked    : ∀ y ∈ g.requests, (g.unit y.unit).seat = (h.unit y.unit).seat ∧
    (g.addr y.unit).floorOrder = (h.addr y.unit).floorOrder
  idle     : ∀ u, h.requestOf u = none → g.addr u = { h.addr u with notice := (g.addr u).notice }
  seq      : g.seq = h.seq
  rotation : g.rotation = h.rotation

theorem Fewer.requestless {h g : Hall} (w : Fewer h g) {u : UnitId} (hu : h.requestOf u = none) : g.requestOf u = none := by
  rw [requestOf_eq_none] at hu ⊢
  intro q hq e
  obtain ⟨p, hp, unit, -⟩ := w.old q hq
  exact hu p hp (unit ▸ e)

namespace Refiling

theorem refl (h : Hall) : Refiling h h :=
  ⟨.refl h, .refl h, .refl h, fun _ => .inl rfl, fun _ _ => ⟨rfl, rfl⟩, fun _ _ => rfl, rfl, rfl⟩

theorem trans {f g h : Hall} (a : Refiling f g) (b : Refiling g h) : Refiling f h := by
  refine ⟨a.onward.trans b.onward, a.floored.trans b.floored, a.fewer.trans b.fewer, fun q => ?_, fun y hy => ?_,
    fun u hu => ?_, b.seq.trans a.seq, b.rotation.trans a.rotation⟩
  · rcases a.entry q with ha | ⟨e, he, ho, hc, ha⟩
    · rw [← ha]
      exact b.entry q
    · rcases b.entry q with hb | ⟨e', he', ho', -⟩
      · exact .inr ⟨e, he, ho, hc, hb.trans ha⟩
      · cases ha.symm.trans he'
        rw [Entry.closed_onAir] at ho'
        cases ho'
  · obtain ⟨p, hp, unit, -⟩ := b.fewer.old y hy
    obtain ⟨seat, order⟩ := a.asked p hp
    obtain ⟨seat', order'⟩ := b.asked y hy
    rw [← unit] at seat order
    exact ⟨seat'.trans seat, order'.trans order⟩
  · rw [b.idle u (a.fewer.requestless hu), a.idle u hu]

theorem fold {γ : Type} {f : Hall → γ → Hall} (hf : ∀ g c, Refiling g (f g c)) (l : List γ) (h : Hall) :
    Refiling h (l.foldl f h) :=
  foldl_keeps (P := Refiling h) (fun _ c w => w.trans (hf _ c)) l h (refl h)

end Refiling

section
variable {h : Hall} {i : SegId} {r : Room}

theorem mem_deniedUnits {u : UnitId} (hu : u ∈ deniedUnits h r) :
    (∃ q ∈ h.requests, q.unit = u) ∧ h.seatedIn r.segs u = true := by
  obtain ⟨q, hq, rfl⟩ := List.mem_map.1 hu
  obtain ⟨hq, hs⟩ := mem_queueIn.1 (List.mem_of_mem_drop hq)
  exact ⟨⟨q, hq, rfl⟩, hs⟩

theorem mem_refiled_requests (hr : h.room i = some r) {y : Request} : y ∈ (refileRoom h i).requests ↔
    ∃ q ∈ h.requests, q.unit ∉ deniedUnits h r ∧ (if h.seatedIn r.segs q.unit then r.eased q else q) = y := by
  simp only [refileRoom_requests hr, List.mem_map, List.mem_filter, decide_eq_true_eq, and_assoc]

theorem refileRoom_fewer (hr : h.room i = some r) : Fewer h (refileRoom h i) := by
  have cut : Fewer h { h with requests := h.requests.filter fun q => q.unit ∉ deniedUnits h r } := .filter rfl
  refine cut.trans (.map (f := fun q => if h.seatedIn r.segs q.unit then r.eased q else q) (Room.eased_unit h r)
    (fun q => ?_) (refileRoom_requests hr))
  split <;> rfl

theorem refileRoom_refiling (h : Hall) (i : SegId) : Refiling h (refileRoom h i) := by
  cases hr : h.room i with
  | none => rw [refileRoom_none hr]; exact .refl h
  | some r =>
    obtain ⟨seq, rotation⟩ := refileRoom_seq hr
    refine ⟨refileRoom_onward h i, refileRoom_floored h i, refileRoom_fewer hr, fun q => ?_, fun y hy => ?_,
      fun u hu => ?_, seq, rotation⟩
    · rw [refileRoom_entry hr]
      split
      · next c =>
        obtain ⟨e, he, -, hc, ho⟩ := mem_openIn.1 (List.mem_of_mem_take c)
        exact .inr ⟨e, he, ho, hc, by rw [he]; rfl⟩
      · exact .inl rfl
    · obtain ⟨q, -, hn, rfl⟩ := (mem_refiled_requests hr).1 hy
      rw [Room.eased_unit]
      exact ⟨refileRoom_seat hr hn, by rw [refileRoom_addr hr hn]⟩
    · refine refileRoom_addr hr fun c => ?_
      obtain ⟨⟨q, hq, e⟩, -⟩ := mem_deniedUnits c
      exact requestOf_eq_none.1 hu q hq e

end

/-! ## What other rooms' refiling leaves of a room -/

/-- From `h` to `g` the floor of room `j`, with the segments `y`, is left: its slots, its queue, and its mark on a unit
that waits. -/
structure Aside (j : SegId) (y : SegSet) (h g : Hall) : Prop where
  filed  : ∀ q, g.filed y q = h.filed y q
  queue  : g.queueIn y = h.queueIn y
  marked : ∀ v, (∃ q ∈ h.queueIn y, q.unit = v) → (g.marked j v ↔ h.marked j v)

namespace Aside

variable {j : SegId} {y : SegSet}

theorem refl (h : Hall) : Aside j y h h := ⟨fun _ => rfl, rfl, fun _ _ => Iff.rfl⟩

theorem trans {f g h : Hall} (a : Aside j y f g) (b : Aside j y g h) : Aside j y f h :=
  ⟨fun q => (b.filed q).trans (a.filed q), b.queue.trans a.queue, fun v hv =>
    (b.marked v (a.queue ▸ hv)).trans (a.marked v hv)⟩

end Aside

section
variable {h : Hall} {i j : SegId} {r : Room} {y : SegSet}

theorem seatedIn_apart {x y : SegSet} (hxy : (x &&& y) = 0) {u : UnitId} (hx : h.seatedIn x u = true) :
    h.seatedIn y u = false := by
  unfold Hall.seatedIn at *
  split at hx
  · next sg hsg =>
    by_contra c
    exact and_ne_zero_iff.2 ⟨sg, hx, by simpa using c⟩ hxy
  · cases hx

/-- Requests that a change leaves in a queue, with the same seats, leave it. -/
theorem queueIn_of_changes {g : Hall} {p : Request → Bool} {f : Request → Request}
    (requests : g.requests = (h.requests.filter p).map f)
    (left : ∀ q ∈ h.requests, h.seatedIn y q.unit = true → p q = true ∧ f q = q)
    (seated : ∀ q ∈ h.requests, p q = true → g.seatedIn y (f q).unit = h.seatedIn y q.unit) :
    g.queueIn y = h.queueIn y := by
  unfold Hall.queueIn
  congr 1
  rw [requests, List.filter_map, List.filter_filter]
  have same : (h.requests.filter fun q => ((fun q => g.seatedIn y q.unit) ∘ f) q && p q) =
      h.requests.filter fun q => h.seatedIn y q.unit := by
    refine List.filter_congr fun q hq => ?_
    by_cases hp : p q = true
    · simp [hp, seated q hq hp]
    · have : h.seatedIn y q.unit = false := by
        by_contra c
        exact hp (left q hq (by simpa using c)).1
      simp [hp, this]
  rw [same]
  refine (List.map_congr_left fun q hq => ?_).trans (List.map_id _)
  obtain ⟨hq, hs⟩ := List.mem_filter.1 hq
  exact (left q hq hs).2

theorem refileRoom_aside (hr : h.room i = some r) (hij : i ≠ j) (hxy : (r.segs &&& y) = 0) :
    Aside j y h (refileRoom h i) := by
  have notDenied {u : UnitId} (hs : h.seatedIn y u = true) : u ∉ deniedUnits h r := fun c => by
    rw [seatedIn_apart hxy (mem_deniedUnits c).2] at hs
    cases hs
  have notSeated {u : UnitId} (hs : h.seatedIn y u = true) : ¬h.seatedIn r.segs u = true := fun c => by
    rw [seatedIn_apart hxy c] at hs
    cases hs
  refine ⟨fun q => ?_, ?_, fun v hv => ?_⟩
  · refine Eq.trans ?_ (trimTo_filed (h := h) (n := r.settings.openLimit) hxy)
    unfold Hall.filed
    rw [refileRoom_entry hr, trimTo_entry]
  · refine queueIn_of_changes (refileRoom_requests hr) (fun q _ hs => ?_) fun q _ hp => ?_
    · exact ⟨decide_eq_true (notDenied hs), if_neg (notSeated hs)⟩
    · rw [Room.eased_unit]
      simp only [Hall.seatedIn, refileRoom_seat hr (of_decide_eq_true hp)]
  · obtain ⟨q, hq, rfl⟩ := hv
    rw [refileRoom_marked hr]
    exact ⟨And.left, fun w => ⟨w, notDenied (mem_queueIn.1 hq).2, fun e => absurd e hij⟩⟩

/-- Rooms of other segments are refiled aside of a room. -/
theorem refileAll_aside {l : List SegId} (hl : ∀ i ∈ l, i ≠ j ∧ ∀ r, h.room i = some r → (r.segs &&& y) = 0) :
    Aside j y h (l.foldl refileRoom h) := by
  induction l generalizing h with
  | nil => exact .refl h
  | cons i l ih =>
    obtain ⟨hij, apart⟩ := hl i (.head l)
    have first : Aside j y h (refileRoom h i) := by
      cases hr : h.room i with
      | none => rw [refileRoom_none hr]; exact .refl h
      | some r => exact refileRoom_aside hr hij (apart r hr)
    refine first.trans (ih fun k hk => ⟨(hl k (.tail i hk)).1, fun r' hr' => ?_⟩)
    obtain ⟨x, hx, segs, -⟩ := room_of_core (refileRoom_onward h i).core.symm hr'
    rw [← segs]
    exact (hl k (.tail i hk)).2 x hx

/-- The floor of room `i`, refiled: what its limits and bounds leave (R40 to R42). -/
structure FloorRefiled (h : Hall) (i : SegId) (r : Room) (g : Hall) : Prop where
  closed : ∀ q ∈ trimRefs h r.segs r.settings.openLimit, g.entry q = (h.entry q).map Entry.closed
  open_  : ∀ q ∈ openIn h r.segs, q ∉ trimRefs h r.segs r.settings.openLimit → g.entry q = h.entry q
  waits  : ∀ y ∈ (h.queueIn r.segs).take r.settings.queueLimit, r.eased y ∈ g.requests
  denied : ∀ y ∈ (h.queueIn r.segs).drop r.settings.queueLimit,
    g.requestOf y.unit = none ∧ ((h.unit y.unit).present = true → (g.addr y.unit).floorOrder = some .deny)
  marked : ∀ v, g.marked i v ↔ h.marked i v ∧ ∃ y ∈ (h.queueIn r.segs).take r.settings.queueLimit, y.unit = v

/-- Where no unit has two requests, a queue's oldest requests and its others are of different units. -/
theorem not_mem_deniedUnits (nodup : (h.requests.map (·.unit)).Nodup) {q : Request}
    (hq : q ∈ (h.queueIn r.segs).take r.settings.queueLimit) : q.unit ∉ deniedUnits h r := by
  intro c
  have units : ((h.queueIn r.segs).map (·.unit)).Nodup :=
    ((queueIn_perm.map _).nodup_iff).2 (nodup.sublist (List.filter_sublist.map _))
  rw [← List.take_append_drop r.settings.queueLimit (h.queueIn r.segs), List.map_append] at units
  exact (List.nodup_append.1 units).2.2 _ (List.mem_map.2 ⟨q, hq, rfl⟩) _ c rfl

theorem waits_iff (nodup : (h.requests.map (·.unit)).Nodup) (v : UnitId) :
    (∃ q ∈ (h.queueIn r.segs).take r.settings.queueLimit, q.unit = v) ↔
      v ∉ deniedUnits h r ∧ ∃ q ∈ h.queueIn r.segs, q.unit = v := by
  constructor
  · rintro ⟨q, hq, rfl⟩
    exact ⟨not_mem_deniedUnits nodup hq, q, List.mem_of_mem_take hq, rfl⟩
  · rintro ⟨hn, q, hq, rfl⟩
    rw [← List.take_append_drop r.settings.queueLimit (h.queueIn r.segs)] at hq
    refine ⟨q, (List.mem_append.1 hq).resolve_right fun c => hn ?_, rfl⟩
    exact List.mem_map.2 ⟨q, c, rfl⟩

theorem refileRoom_refiled (hr : h.room i = some r) (nodup : (h.requests.map (·.unit)).Nodup) :
    FloorRefiled h i r (refileRoom h i) := by
  refine ⟨fun q hq => ?_, fun q _ hn => ?_, fun y hy => ?_, fun y hy => ?_, fun v => ?_⟩
  · rw [refileRoom_entry hr, if_pos hq]
  · rw [refileRoom_entry hr, if_neg hn]
  · obtain ⟨hm, hs⟩ := mem_queueIn.1 (List.mem_of_mem_take hy)
    exact (mem_refiled_requests hr).2 ⟨y, hm, not_mem_deniedUnits nodup hy, if_pos hs⟩
  · have hd : y.unit ∈ deniedUnits h r := List.mem_map.2 ⟨y, hy, rfl⟩
    refine ⟨requestOf_eq_none.2 fun q hq e => ?_, refileRoom_order hr hd⟩
    obtain ⟨p, -, hn, rfl⟩ := (mem_refiled_requests hr).1 hq
    rw [Room.eased_unit] at e
    exact hn (e ▸ hd)
  · rw [refileRoom_marked hr, waits_iff nodup]
    simp only [true_implies]

/-- The queue of a refiled room is within its limit (R41). -/
theorem refileRoom_queue (hr : h.room i = some r) :
    ((refileRoom h i).queueIn r.segs).length ≤ r.settings.queueLimit := by
  have hr' : (trimTo h r.segs r.settings.openLimit).room i = some r := by rw [trimTo_room, hr]
  have cut := cutQueue_length hr'
  rw [cutQueue_trimTo hr] at cut
  refine le_trans (Fewer.queue_le (h := limitedHall h r) ?_ fun q hq => ?_) cut
  · have lowered := lowerScores_fewer (h := limitedHall h r) r.segs r.settings.max r.settings.guard
    rw [refileRoom_rest hr]
    exact ⟨lowered.units, lowered.old⟩
  · rw [refileRoom_rest hr]
    rfl

theorem Refiling.queue_le {g : Hall} (w : Refiling h g) (x : SegSet) : (g.queueIn x).length ≤ (h.queueIn x).length :=
  w.fewer.queue_le fun q hq => by simp only [Hall.seatedIn, (w.asked q hq).1]

theorem Refiling.nodup {g : Hall} (w : Refiling h g) (nodup : (h.requests.map (·.unit)).Nodup) :
    (g.requests.map (·.unit)).Nodup := nodup.sublist w.fewer.units

theorem Floored.marked {g : Hall} (w : Floored h g) {v : UnitId} (m : g.marked i v) : h.marked i v := by
  obtain ⟨x, hx, hv⟩ := m
  have spoken := w.spoken i
  rw [hx, Option.map_some, eq_comm, Option.map_eq_some_iff] at spoken
  obtain ⟨y, hy, -⟩ := spoken
  rcases w.elevated i y x hy hx with e | e
  · exact ⟨y, hy, e ▸ hv⟩
  · rw [e] at hv
    cases hv

theorem Aside.entry {g : Hall} (w : Aside i y h g) {q : SlotRef} {e : Entry} (he : h.entry q = some e)
    (hin : inSet y e.seg = true) : g.entry q = some e := entry_of_filed (w.filed q) he hin

namespace FloorRefiled

variable {g k : Hall}

/-- Other rooms may be refiled before. -/
theorem before {r' : Room} (w : Aside i r.segs h k) (c : Onward h k) (segs : r'.segs = r.segs)
    (settings : r'.settings = r.settings) (f : FloorRefiled k i r' g) : FloorRefiled h i r g := by
  obtain ⟨closed, open_, waits, denied, marked⟩ := f
  have opens : openIn k r.segs = openIn h r.segs := openIn_congr w.filed
  have eased (q : Request) : r'.eased q = r.eased q := by simp only [Room.eased, settings]
  simp only [segs, settings, trimRefs, opens, w.queue, eased] at closed open_ waits denied marked
  have entry {q : SlotRef} (hq : q ∈ openIn h r.segs) : k.entry q = h.entry q := by
    obtain ⟨e, he, hin, -⟩ := mem_openIn.1 hq
    rw [he, w.entry he hin]
  refine ⟨fun q hq => ?_, fun q hq hn => ?_, waits, fun y hy => ?_, fun v => ?_⟩
  · rw [closed q hq, entry (List.mem_of_mem_take hq)]
  · rw [open_ q hq hn, entry hq]
  · refine (denied y hy).imp_right fun order hp => order ?_
    rw [← hp]
    exact congrArg (·.1) (core_unit c.core _)
  · rw [marked]
    refine and_congr_left fun hv => w.marked v ?_
    obtain ⟨q, hq, e⟩ := hv
    exact ⟨q, List.mem_of_mem_take hq, e⟩

/-- Other rooms may be refiled after. -/
theorem after (f : FloorRefiled h i r g) (a : Refiling h g) (w : Aside i r.segs g k) (c : Refiling g k) :
    FloorRefiled h i r k := by
  have asks {y : Request} (hy : y ∈ (h.queueIn r.segs).take r.settings.queueLimit) : r.eased y ∈ g.queueIn r.segs := by
    have hm := f.waits y hy
    have seat := (a.asked _ hm).1
    refine mem_queueIn.2 ⟨hm, ?_⟩
    have seated := (mem_queueIn.1 (List.mem_of_mem_take hy)).2
    simp only [Hall.seatedIn, seat] at seated ⊢
    exact seated
  refine ⟨fun q hq => ?_, fun q hq hn => ?_, fun y hy => ?_, fun y hy => ?_, fun v => ?_⟩
  · obtain ⟨e, he, hin, -⟩ := mem_openIn.1 (List.mem_of_mem_take hq)
    have closed := f.closed q hq
    rw [he] at closed ⊢
    exact w.entry closed hin
  · obtain ⟨e, he, hin, -⟩ := mem_openIn.1 hq
    have same := f.open_ q hq hn
    rw [he] at same ⊢
    exact w.entry same hin
  · exact (mem_queueIn.1 (w.queue ▸ asks hy)).1
  · obtain ⟨gone, order⟩ := f.denied y hy
    refine ⟨c.fewer.requestless gone, fun hp => ?_⟩
    rw [c.idle _ gone]
    exact order hp
  · by_cases hv : ∃ y ∈ (h.queueIn r.segs).take r.settings.queueLimit, y.unit = v
    · obtain ⟨y, hy, e⟩ := hv
      rw [w.marked v ⟨r.eased y, asks hy, e⟩, f.marked]
    · exact ⟨fun m => (f.marked v).1 (c.floored.marked m), fun m => absurd m.2 hv⟩

end FloorRefiled

/-- A room refiled among others of other segments is refiled as it would be alone. -/
theorem refileAll_refiled {l : List SegId} (hl : l.Nodup) (hi : i ∈ l) (hr : h.room i = some r)
    (apart : ∀ k ∈ l, k ≠ i → ∀ x, h.room k = some x → (x.segs &&& r.segs) = 0)
    (nodup : (h.requests.map (·.unit)).Nodup) : FloorRefiled h i r (l.foldl refileRoom h) := by
  obtain ⟨a, b, rfl⟩ := List.append_of_mem hi
  obtain ⟨-, hb, hab⟩ := List.nodup_append.1 hl
  obtain ⟨hib, -⟩ := List.nodup_cons.1 hb
  have others {k : SegId} (hk : k ∈ a ∨ k ∈ b) : k ∈ a ++ i :: b ∧ k ≠ i := by
    rcases hk with hk | hk
    · exact ⟨List.mem_append_left _ hk, hab k hk i (.head b)⟩
    · exact ⟨List.mem_append_right _ (.tail i hk), fun e => hib (e ▸ hk)⟩
  rw [List.foldl_append, List.foldl_cons]
  have first : Refiling h (a.foldl refileRoom h) := .fold refileRoom_refiling a h
  have side : Aside i r.segs h (a.foldl refileRoom h) := refileAll_aside fun k hk =>
    ⟨(others (.inl hk)).2, apart k (others (.inl hk)).1 (others (.inl hk)).2⟩
  generalize a.foldl refileRoom h = g at *
  obtain ⟨r', hr', segs, settings⟩ := room_of_core first.onward.core hr
  have here := refileRoom_refiling g i
  refine ((refileRoom_refiled hr' (first.nodup nodup)).before side first.onward segs settings).after (first.trans here)
    (refileAll_aside fun k hk => ⟨(others (.inr hk)).2, fun x hx => ?_⟩) (.fold refileRoom_refiling b _)
  obtain ⟨x', hx', segs', -⟩ := room_of_core (first.trans here).onward.core.symm hx
  rw [← segs']
  exact apart k (others (.inr hk)).1 (others (.inr hk)).2 x' hx'

end

end Sys2Proof.Machine
end

section
/-! Floor events raise no BOOTH event (R182), and the refiling leaves what is filed in no rebuilt room (R40, R41; O55). -/

namespace Sys2Proof.Machine

/-! ## Flags that an operation does not raise -/

/-- From `h` to `g` the flag `f` is on every port as it was. -/
def Mute (f : Flag) (h g : Hall) : Prop :=
  ∀ p : PortId, (g.ports[p]).flags &&& flagBit f = (h.ports[p]).flags &&& flagBit f

namespace Mute

variable {f : Flag}

theorem of_ports {h g : Hall} (e : g.ports = h.ports) : Mute f h g := fun p => by rw [e]

theorem refl (h : Hall) : Mute f h h := of_ports rfl

theorem trans {g h k : Hall} (a : Mute f g h) (b : Mute f h k) : Mute f g k := fun p => (b p).trans (a p)

theorem fold {γ : Type} {op : Hall → γ → Hall} (hf : ∀ g c, Mute f g (op g c)) (l : List γ) (h : Hall) :
    Mute f h (l.foldl op h) :=
  foldl_keeps (P := Mute f h) (fun _ c w => w.trans (hf _ c)) l h (refl h)

end Mute

theorem flagBit_and {f f' : Flag} (h : f' ≠ f) : flagBit f' &&& flagBit f = 0 := by
  cases f <;> cases f' <;> simp_all [flagBit]

theorem raise_mute {f f' : Flag} (hf : f' ≠ f) (x : SegSet) (h : Hall) : Mute f h (raise f' x h) := by
  intro p
  rw [raise_port]
  unfold portFlagged
  repeat' split
  · rfl
  · show ((h.ports[p]).flags ||| flagBit f') &&& flagBit f = _
    have other : flagBit f &&& flagBit f' = 0 := (BitVec.and_comm _ _).trans (flagBit_and hf)
    rw [BitVec.and_comm, BitVec.and_or_distrib_left, other, BitVec.and_comm]
    exact BitVec.or_zero
  · rfl

section
variable {f : Flag} (h : Hall)

theorem raiseRoom_mute {f' : Flag} (hf : f' ≠ f) (i : SegId) : Mute f h (raiseRoom f' i h) := raise_mute hf _ h

theorem raiseAt_mute {f' : Flag} (hf : f' ≠ f) (sg : SegId) : Mute f h (raiseAt f' sg h) := by
  unfold raiseAt
  split
  · exact raiseRoom_mute h hf _
  · exact .refl h

theorem alignSeat_mute (hf : .floor ≠ f) (u : UnitId) : Mute f h (alignSeat h u) := by
  have seat (sg : Option SegId) (g : Hall) : Mute f g (raiseSeat sg g) := by
    unfold raiseSeat
    split
    · exact raiseAt_mute g hf _
    · exact .refl g
  unfold alignSeat
  simp only []
  split
  · exact .trans (.of_ports (g := h.setUnit u { h.unit u with seat := (h.unit u).seatCalled }) rfl)
      ((seat _ _).trans (seat _ _))
  · exact .refl h

theorem giveFloor_mute (u : UnitId) (o : FloorOrder) : Mute f h (giveFloor h u o) := by
  rw [giveFloor_eq]
  exact .of_ports rfl

theorem denyWaiting_mute (hf : .floor ≠ f) (u : UnitId) : Mute f h (denyWaiting h u) :=
  .trans (.trans (.of_ports (g := removeRequest h u) rfl) (giveFloor_mute _ _ _)) (alignSeat_mute _ hf _)

theorem closeEntry_mute (hf : .floor ≠ f) (r : SlotRef) : Mute f h (closeEntry h r) := by
  by_cases ho : ∃ e, h.entry r = some e ∧ e.onAir = true
  · obtain ⟨e, he, ho⟩ := ho
    rw [closeEntry_onAir h he ho, closedPools]
    refine Mute.trans ?_ (raiseAt_mute _ hf _)
    split
    · rw [clearWarn_eq]
      exact .of_ports rfl
    · exact .of_ports rfl
  · rw [closeEntry_offAir h fun e he => by simpa using fun c => ho ⟨e, he, c⟩]
    exact .refl h

theorem wake_mute (hf : .room ≠ f) (i : SegId) : Mute f h (wake h i) := by
  unfold wake
  repeat' split
  · exact .refl h
  · exact raiseRoom_mute (f := f) (h.setRoom i _) hf i
  · exact .of_ports rfl
  · exact .refl h

theorem grantUnit_mute (floor : .floor ≠ f) (room : .room ≠ f) (u : UnitId) (g : Option Stamp) :
    Mute f h (grantUnit h u g) := by
  unfold grantUnit
  split
  · next k sg _ _ =>
    have taken (e : Option Entry) : Mute f h (giveFloor ((removeRequest { h with seq := h.seq + 1 } u).setEntry
        { trunk := u.trunk, slot := k } e) u (.grant k)) := .trans (.of_ports rfl) (giveFloor_mute _ _ _)
    simp only []
    split
    · exact (taken _).trans ((raiseAt_mute _ floor _).trans (wake_mute _ room _))
    · exact (taken _).trans (raiseAt_mute _ floor _)
  · exact .refl h

variable {h}

theorem Serving.mute (floor : .floor ≠ f) (room : .room ≠ f) {g : Hall} (w : Serving h g) : Mute f h g := by
  induction w with
  | refl => exact .refl h
  | tail _ step ih =>
    refine ih.trans ?_
    cases step with
    | grant _ => exact grantUnit_mute _ floor room _ _
    | age hr _ => simp only [ageRoom, hr]; exact .of_ports rfl
    | rotation _ => exact .of_ports rfl

theorem refileRoom_mute (hf : .floor ≠ f) (h : Hall) (i : SegId) : Mute f h (refileRoom h i) := by
  cases hr : h.room i with
  | none => rw [refileRoom_none hr]; exact .refl h
  | some r =>
    rw [refileRoom_eq hr, mapRoom_eq]
    have limited : Mute f h (limitedHall h r) :=
      (Mute.fold (fun g => closeEntry_mute g hf) _ h).trans (.fold (fun g => denyWaiting_mute g hf) _ _)
    exact limited.trans (.trans (.of_ports rfl) (raiseRoom_mute _ hf i))

end

/-! ## Unfreezing -/

/-- Chair service is a run of grants. -/
theorem chairService_keeps {P : Hall → Prop} (grant : ∀ g u, P g → P (grantUnit g u none)) {h : Hall} (start : P h)
    (is : List SegId) : P (chairService h is) := by
  unfold chairService
  refine foldl_keeps (fun g u w => ?_) _ _ start
  split
  · exact grant g u w
  · exact w

section
variable (h : Hall) (is : List SegId)

theorem handleAll_serving (is : List SegId) (h : Hall) : Serving h (is.foldl grantHandling h) :=
  .fold grantHandling_serving is h

theorem unfreeze_floored : Floored h (unfreeze h is) :=
  (chairService_keeps (P := Floored h) (fun _ _ w => w.trans (grantUnit_floored _ _ _)) (.refl h) is).trans
    (handleAll_serving is _).floored

theorem unfreeze_fewer : Fewer h (unfreeze h is) :=
  (chairService_keeps (P := Fewer h) (fun _ _ w => w.trans (grantUnit_fewer _ _ _)) (.refl h) is).trans (handleAll_serving is _).fewer

theorem unfreeze_filled : Filled h (unfreeze h is) :=
  (chairService_keeps (P := Filled h) (fun _ _ w => w.trans (grantUnit_filled _ _ _)) (.refl h) is).trans (handleAll_serving is _).filled

theorem unfreeze_mute : Mute .booth h (unfreeze h is) :=
  (chairService_keeps (P := Mute .booth h) (fun _ _ w => w.trans (grantUnit_mute _ (by decide) (by decide) _ _)) (.refl h) is).trans
    ((handleAll_serving is _).mute (by decide) (by decide))

theorem unfreeze_units : (unfreeze h is).units = h.units :=
  (handleAll_serving is _).units.trans
    (chairService_keeps (P := fun g => g.units = h.units) (fun _ _ w => (grantUnit_units _ _ _).trans w) rfl is)

end

/-! ## What the refiling leaves -/

section
variable {h : Hall} {l : List SegId}

/-- An entry filed in no room refiled stays. -/
theorem refileAll_entry {q : SlotRef} {e : Entry} (he : h.entry q = some e)
    (out : ∀ k ∈ l, ∀ r, h.room k = some r → inSet r.segs e.seg = false) : (l.foldl refileRoom h).entry q = some e := by
  induction l generalizing h with
  | nil => exact he
  | cons k l ih =>
    refine ih (h := refileRoom h k) ?_ fun j hj x hx => ?_
    · cases hr : h.room k with
      | none => rw [refileRoom_none hr, he]
      | some r =>
        rw [refileRoom_entry hr, if_neg, he]
        intro c
        obtain ⟨y, hy, hin, -⟩ := mem_openIn.1 (List.mem_of_mem_take c)
        cases he.symm.trans hy
        rw [out k (.head l) r hr] at hin
        cases hin
    · obtain ⟨x', hx', segs, -⟩ := room_of_core (refileRoom_onward h k).core.symm hx
      rw [← segs]
      exact out j (.tail k hj) x' hx'

/-- A request of no room refiled stays. -/
theorem refileAll_request {y : Request} (hy : y ∈ h.requests)
    (out : ∀ k ∈ l, ∀ r, h.room k = some r → h.seatedIn r.segs y.unit = false) : y ∈ (l.foldl refileRoom h).requests := by
  induction l generalizing h with
  | nil => exact hy
  | cons k l ih =>
    have stays : y ∈ (refileRoom h k).requests := by
      cases hr : h.room k with
      | none => rw [refileRoom_none hr]; exact hy
      | some r =>
        have away := out k (.head l) r hr
        refine (mem_refiled_requests hr).2 ⟨y, hy, fun c => ?_, if_neg (by rw [away]; decide)⟩
        rw [(mem_deniedUnits c).2] at away
        cases away
    refine ih stays fun j hj x hx => ?_
    obtain ⟨x', hx', segs, -⟩ := room_of_core (refileRoom_onward h k).core.symm hx
    simp only [Hall.seatedIn, ((refileRoom_refiling h k).asked y stays).1, ← segs]
    exact out j (.tail k hj) x' hx'

/-- The queue of a room refiled among others is within its limit. -/
theorem refileAll_queue {i : SegId} {r : Room} (hi : i ∈ l) (hr : h.room i = some r) :
    ((l.foldl refileRoom h).queueIn r.segs).length ≤ r.settings.queueLimit := by
  obtain ⟨a, b, rfl⟩ := List.append_of_mem hi
  rw [List.foldl_append, List.foldl_cons]
  have first : Refiling h (a.foldl refileRoom h) := .fold refileRoom_refiling a h
  generalize a.foldl refileRoom h = g at *
  obtain ⟨r', hr', segs, settings⟩ := room_of_core first.onward.core hr
  rw [← segs, ← settings]
  exact (Refiling.queue_le (.fold refileRoom_refiling b _) _).trans (refileRoom_queue hr')

/-- A room refiled has FLOOR raised for it. -/
theorem refileAll_told {i : SegId} {r : Room} (hi : i ∈ l) (hr : h.room i = some r) :
    (l.foldl refileRoom h).told .floor r.segs := by
  obtain ⟨a, b, rfl⟩ := List.append_of_mem hi
  rw [List.foldl_append, List.foldl_cons]
  have first : Refiling h (a.foldl refileRoom h) := .fold refileRoom_refiling a h
  generalize a.foldl refileRoom h = g at *
  obtain ⟨r', hr', segs, -⟩ := room_of_core first.onward.core hr
  refine (Refiling.fold refileRoom_refiling b (refileRoom g i)).onward.told ?_
  rw [refileRoom_eq hr', ← segs]
  obtain ⟨x, hx, segs', -⟩ := room_of_core (easedHall_onward.trans markRoom_onward).core hr'
  rw [← segs']
  exact raiseRoom_told .floor hx

end

end Sys2Proof.Machine
end

section
/-! The booths of the rebuilt rooms at a commit: duplicates and dropped languages, lost pins, and relay, each room by
itself (R132, R134, R135, R138; O55). -/

namespace Sys2Proof.Machine

/-! ## Operations on the booths of one room -/

/-- What no part of a commit changes of a booth. -/
def Booth.kin (b : Booth) : Bool × Option SegId × Nat × Nat × List Nat × Side × Bool × Nat :=
  (b.defined, b.home, b.langA, b.langB, b.passive, b.side, b.mic, b.gain)

theorem Booth.output_of_kin {x y : Booth} (e : y.kin = x.kin) : y.output = x.output := by
  simp only [Booth.kin, Prod.mk.injEq] at e
  obtain ⟨-, -, a, b, -, side, -⟩ := e
  unfold Booth.output
  rw [a, b, side]

/-- From `h` to `g` booths have been written and flags set: a booth keeps its kin, and none comes to be LIVE. -/
structure Boothed (h g : Hall) : Prop where
  rest  : g = { h with booths := g.booths, ports := g.ports }
  ports : ∀ p : PortId, (g.ports[p]).core = (h.ports[p]).core
  flags : ∀ p : PortId, (h.ports[p]).flags &&& (g.ports[p]).flags = (h.ports[p]).flags
  kin   : ∀ b : BoothId, (g.booths[b]).kin = (h.booths[b]).kin
  live  : ∀ b : BoothId, (g.booths[b]).state = .live → (h.booths[b]).state = .live

namespace Boothed

theorem refl (h : Hall) : Boothed h h := ⟨rfl, fun _ => rfl, fun _ => BitVec.and_self, fun _ => rfl, fun _ => id⟩

variable {f g h : Hall}

theorem trans (a : Boothed f g) (b : Boothed g h) : Boothed f h := by
  refine ⟨by rw [b.rest, a.rest], fun p => (b.ports p).trans (a.ports p), fun p => ?_, fun c => (b.kin c).trans (a.kin c),
    fun c => a.live c ∘ b.live c⟩
  rw [← a.flags p, BitVec.and_assoc, b.flags p]

/-- Booths written, with an event for a room. -/
theorem write (h : Hall) (i : SegId) {bs : Vector Booth 12} (kin : ∀ b : BoothId, (bs[b]).kin = (h.booths[b]).kin)
    (live : ∀ b : BoothId, (bs[b]).state = .live → (h.booths[b]).state = .live) :
    Boothed h (raiseRoom .booth i { h with booths := bs }) := by
  have raised := Onward.raise { h with booths := bs } .booth (({ h with booths := bs } : Hall).segsOf i)
  exact ⟨rfl, fun p => (core_port raised.core p).trans rfl, raised.flags, kin, live⟩

variable (w : Boothed h g)
include w

theorem room (i : SegId) : g.room i = h.room i := by
  rw [w.rest]
  rfl

theorem boothRoom (b : BoothId) : g.boothRoom b = h.boothRoom b := by
  have kin := w.kin b
  simp only [Booth.kin, Prod.mk.injEq] at kin
  obtain ⟨defined, home, -⟩ := kin
  have roomOf : g.roomOf = h.roomOf := by
    rw [w.rest]
    rfl
  unfold Hall.boothRoom
  rw [defined, home, roomOf]

theorem segsOf (i : SegId) : g.segsOf i = h.segsOf i := by
  unfold Hall.segsOf
  rw [w.room]

end Boothed

theorem mem_liveBooths {h : Hall} {i : SegId} {b : BoothId} :
    b ∈ h.liveBooths i ↔ (h.booths[b]).state = .live ∧ h.boothRoom b = some i := by
  simp [Hall.liveBooths, List.mem_finRange]

/-- An operation on the LIVE booths of one room, which sees no other room's, and raises BOOTH where it changes one. -/
structure Local (op : Hall → SegId → Hall) : Prop where
  boothed : ∀ h i, Boothed h (op h i)
  off     : ∀ h i (b : BoothId), b ∉ h.liveBooths i → (op h i).booths[b] = h.booths[b]
  congr   : ∀ g h i, g.room i = h.room i → (∀ c, g.boothRoom c = h.boothRoom c) →
    (∀ c : BoothId, h.boothRoom c = some i → g.booths[c] = h.booths[c]) →
    ∀ b : BoothId, h.boothRoom b = some i → (op g i).booths[b] = (op h i).booths[b]
  told    : ∀ (h : Hall) i, h.signalled (op h i) .booth fun x => x = h.segsOf i ∧ ∃ b : BoothId, (op h i).booths[b] ≠ h.booths[b]

namespace Local

variable {op : Hall → SegId → Hall} (w : Local op)
include w

theorem fold_boothed (l : List SegId) (h : Hall) : Boothed h (l.foldl op h) :=
  foldl_keeps (P := Boothed h) (fun _ i v => v.trans (w.boothed _ i)) l h (.refl h)

/-- A booth of no room of the list is left. -/
theorem fold_off {l : List SegId} {h : Hall} {b : BoothId} (hb : ∀ i ∈ l, b ∉ h.liveBooths i) :
    (l.foldl op h).booths[b] = h.booths[b] := by
  induction l generalizing h with
  | nil => rfl
  | cons i l ih =>
    have first := w.off h i b (hb i (.head l))
    refine (ih (h := op h i) fun j hj c => hb j (.tail i hj) ?_).trans first
    rw [mem_liveBooths] at c ⊢
    exact ⟨(w.boothed h i).live b c.1, (w.boothed h i).boothRoom b ▸ c.2⟩

/-- The booths of a room of the list are as the operation on that room alone leaves them. -/
theorem fold_on {l : List SegId} (hl : l.Nodup) {h : Hall} {i : SegId} (hi : i ∈ l) {b : BoothId}
    (hb : h.boothRoom b = some i) : (l.foldl op h).booths[b] = (op h i).booths[b] := by
  induction l generalizing h with
  | nil => cases hi
  | cons j l ih =>
    obtain ⟨hj, hl⟩ := List.nodup_cons.1 hl
    have first := w.boothed h j
    by_cases e : j = i
    · subst e
      refine fold_off w (h := op h j) (l := l) fun k hk c => ?_
      rw [mem_liveBooths, first.boothRoom, hb] at c
      exact hj (Option.some_inj.1 c.2 ▸ hk)
    · have hi : i ∈ l := (List.mem_cons.1 hi).resolve_left fun c => e c.symm
      refine (ih hl hi (h := op h j) ((first.boothRoom b).trans hb)).trans ?_
      refine w.congr _ _ i (first.room i) first.boothRoom (fun c hc => w.off h j c fun m => ?_) b hb
      rw [mem_liveBooths, hc] at m
      exact e (Option.some_inj.1 m.2).symm

/-- The rooms in which the operation changes a booth are those for which it raises BOOTH. -/
theorem fold_told {l : List SegId} (hl : l.Nodup) (h : Hall) : h.signalled (l.foldl op h) .booth
    fun x => ∃ i ∈ l, x = h.segsOf i ∧ ∃ b ∈ h.liveBooths i, (l.foldl op h).booths[b] ≠ h.booths[b] := by
  have here {h : Hall} {i : SegId} (x : SegSet) : (x = h.segsOf i ∧ ∃ b : BoothId, (op h i).booths[b] ≠ h.booths[b]) ↔
      x = h.segsOf i ∧ ∃ b ∈ h.liveBooths i, (op h i).booths[b] ≠ h.booths[b] := by
    refine and_congr_right fun _ => exists_congr fun b => ⟨fun c => ⟨?_, c⟩, And.right⟩
    by_contra m
    exact c (w.off h i b m)
  have all : ∀ (l : List SegId), l.Nodup → ∀ h : Hall, h.signalled (l.foldl op h) .booth
      fun x => ∃ i ∈ l, x = h.segsOf i ∧ ∃ b ∈ h.liveBooths i, (op h i).booths[b] ≠ h.booths[b] := by
    intro l
    induction l with
    | nil => exact fun _ h => signalled_congr (signalled_refl h .booth) (by simp)
    | cons j l ih =>
      intro hl h
      obtain ⟨hj, hl⟩ := List.nodup_cons.1 hl
      refine signalled_congr (signalled_trans (w.told h j) (ih hl (op h j)) (fold_boothed w l _).ports) fun x => ?_
      simp only [List.mem_cons, exists_eq_or_imp]
      refine or_congr (here x) (exists_congr fun i => and_congr_right fun hi => ?_)
      have hij : j ≠ i := fun e => hj (e ▸ hi)
      have first := w.boothed h j
      have same {b : BoothId} (hb : h.boothRoom b = some i) : (op h j).booths[b] = h.booths[b] := w.off h j b fun m => by
        rw [mem_liveBooths, hb] at m
        exact hij (Option.some_inj.1 m.2).symm
      rw [first.segsOf]
      refine and_congr_right fun _ => exists_congr fun b => ?_
      simp only [mem_liveBooths, first.boothRoom, and_assoc]
      rw [and_left_comm, and_left_comm (b := _ = some i)]
      refine and_congr_right fun hb => ?_
      rw [same hb, w.congr _ _ i (first.room i) first.boothRoom (fun c hc => same hc) b hb]
  refine signalled_congr (all l hl h) fun x => exists_congr fun i => and_congr_right fun hi => and_congr_right fun _ =>
    exists_congr fun b => and_congr_right fun hb => ?_
  rw [fold_on w hl hi (mem_liveBooths.1 hb).2]

end Local

/-- The booths of a list rewritten, the others as they were. -/
def rewritten (f : Booth → Booth) (l : List BoothId) (bs : Vector Booth 12) : Vector Booth 12 :=
  tab fun b => if l.contains b then f bs[b] else bs[b]

theorem rewritten_booth (f : Booth → Booth) (l : List BoothId) (bs : Vector Booth 12) (b : BoothId) :
    (rewritten f l bs)[b] = if b ∈ l then f bs[b] else bs[b] := by
  refine (tab_get _ b).trans ?_
  simp only [List.contains_iff_mem]

/-- An operation that rewrites some LIVE booths of a room, each into another record of its kin, is local. -/
structure Rewrites (op : Hall → SegId → Hall) (f : Booth → Booth) (list : Hall → SegId → List BoothId) : Prop where
  eq    : ∀ h i, op h i = if (list h i).isEmpty then h
    else raiseRoom .booth i { h with booths := rewritten f (list h i) h.booths }
  of    : ∀ h i b, b ∈ list h i → b ∈ h.liveBooths i
  kin   : ∀ b, (f b).kin = b.kin
  live  : ∀ b, (f b).state = .live → b.state = .live
  moves : ∀ (h : Hall) i (b : BoothId), b ∈ list h i → f h.booths[b] ≠ h.booths[b]
  congr : ∀ g h i, g.room i = h.room i → (∀ c, g.boothRoom c = h.boothRoom c) →
    (∀ c : BoothId, h.boothRoom c = some i → g.booths[c] = h.booths[c]) → list g i = list h i

namespace Rewrites

variable {op : Hall → SegId → Hall} {f : Booth → Booth} {list : Hall → SegId → List BoothId} (w : Rewrites op f list)
include w

theorem booth (h : Hall) (i : SegId) (b : BoothId) :
    (op h i).booths[b] = if b ∈ list h i then f h.booths[b] else h.booths[b] := by
  rw [w.eq]
  split
  · next e =>
    rw [List.isEmpty_iff] at e
    simp [e]
  · exact rewritten_booth f _ _ b

theorem isLocal : Local op := by
  refine ⟨fun h i => ?_, fun h i b hb => ?_, fun g h i room rooms booths b hb => ?_, fun h i => ?_⟩
  · rw [w.eq]
    split
    · exact .refl h
    · refine .write h i (fun b => ?_) fun b => ?_
      · rw [rewritten_booth]
        split
        · exact w.kin _
        · rfl
      · rw [rewritten_booth]
        split
        · exact w.live _
        · exact id
  · rw [w.booth, if_neg fun c => hb (w.of h i b c)]
  · rw [w.booth, w.booth, w.congr g h i room rooms booths, booths b hb]
  · have moved : (∃ b : BoothId, (op h i).booths[b] ≠ h.booths[b]) ↔ list h i ≠ [] := by
      constructor
      · rintro ⟨b, hb⟩ e
        rw [w.booth, e] at hb
        exact hb (if_neg List.not_mem_nil)
      · intro e
        obtain ⟨b, hb⟩ := List.exists_mem_of_ne_nil _ e
        exact ⟨b, by rw [w.booth, if_pos hb]; exact w.moves h i b hb⟩
    simp only [moved]
    rw [w.eq]
    split
    · next e =>
      rw [List.isEmpty_iff] at e
      exact signalled_congr (signalled_refl h .booth) (by simp [e])
    · next e =>
      rw [List.isEmpty_iff] at e
      refine signalled_congr (signalled_of_flags (raise_signalled .booth (h.segsOf i) _) fun _ => rfl) fun x => ?_
      exact (and_iff_left e).symm

end Rewrites

/-! ## Duplicates and dropped languages (R134) -/

section
variable {g h : Hall} {i : SegId}

theorem liveBooths_congr (rooms : ∀ c, g.boothRoom c = h.boothRoom c)
    (booths : ∀ c : BoothId, h.boothRoom c = some i → g.booths[c] = h.booths[c]) : g.liveBooths i = h.liveBooths i := by
  refine List.filter_congr fun c _ => ?_
  by_cases hc : h.boothRoom c = some i
  · simp only [rooms, booths c hc]
  · simp [rooms, hc]

/-- The booths of a room that stand by at the commit. -/
def displacedBooths (before h : Hall) (i : SegId) : List BoothId :=
  match h.room i with
  | some r => (h.liveBooths i).filter fun b => displacedAt before h i r b
  | none => []

theorem mem_displacedBooths {before : Hall} {b : BoothId} : b ∈ displacedBooths before h i ↔
    ∃ r, h.room i = some r ∧ b ∈ h.liveBooths i ∧ displacedAt before h i r b = true := by
  unfold displacedBooths
  cases h.room i with
  | none => simp
  | some r => simp

theorem displacedBooths_congr (before : Hall) (room : g.room i = h.room i) (rooms : ∀ c, g.boothRoom c = h.boothRoom c)
    (booths : ∀ c : BoothId, h.boothRoom c = some i → g.booths[c] = h.booths[c]) :
    displacedBooths before g i = displacedBooths before h i := by
  unfold displacedBooths
  rw [room]
  cases h.room i with
  | none => rfl
  | some r =>
    have live := liveBooths_congr rooms booths
    have same {c : BoothId} (hc : c ∈ h.liveBooths i) : g.booths[c] = h.booths[c] := booths c (mem_liveBooths.1 hc).2
    simp only [live]
    refine List.filter_congr fun b hb => ?_
    have group : ((h.liveBooths i).filter fun c => (g.booths[c]).output = (g.booths[b]).output) =
        (h.liveBooths i).filter fun c => (h.booths[c]).output = (h.booths[b]).output :=
      List.filter_congr fun c hc => by rw [same hc, same hb]
    unfold displacedAt
    simp only [live]
    rw [group, same hb]

theorem settleBooths_rewrites (before : Hall) :
    Rewrites (settleBooths before) (standBy true) (displacedBooths before) := by
  refine ⟨fun h i => ?_, fun h i b hb => ?_, fun b => rfl, fun b hb => (by cases hb), fun h i b hb e => ?_,
    fun g h i => displacedBooths_congr before⟩
  · unfold settleBooths displacedBooths
    cases h.room i <;> rfl
  · obtain ⟨r, -, hb, -⟩ := mem_displacedBooths.1 hb
    exact hb
  · obtain ⟨r, -, hb, -⟩ := mem_displacedBooths.1 hb
    have live := (mem_liveBooths.1 hb).1
    rw [← e] at live
    cases live

end

/-! ## Lost pins (R132, R135) -/

section
variable {g h : Hall} {i : SegId}

/-- The booths of a room pinned to one that is not LIVE in it. -/
def lostBooths (h : Hall) (i : SegId) : List BoothId :=
  (h.liveBooths i).filter fun b => match (h.booths[b]).pin with
    | some (.booth t) => !(h.liveBooths i).contains t
    | _ => false

theorem mem_lostBooths {b : BoothId} : b ∈ lostBooths h i ↔
    b ∈ h.liveBooths i ∧ ∃ t, (h.booths[b]).pin = some (.booth t) ∧ t ∉ h.liveBooths i := by
  rw [lostBooths, List.mem_filter]
  refine and_congr_right fun _ => ?_
  split
  · next t ht =>
    simp only [ht, Option.some.injEq, Source.booth.injEq, exists_eq_left']
    simp
  · next c =>
    simp only [Bool.false_eq_true, false_iff, not_exists, not_and, not_not]
    exact fun t ht => absurd ht (c t)

/-- A booth without its pin. -/
def Booth.unpinned (b : Booth) : Booth := { b with pin := none }

theorem lostBooths_congr (rooms : ∀ c, g.boothRoom c = h.boothRoom c)
    (booths : ∀ c : BoothId, h.boothRoom c = some i → g.booths[c] = h.booths[c]) : lostBooths g i = lostBooths h i := by
  have live := liveBooths_congr rooms booths
  unfold lostBooths
  rw [live]
  refine List.filter_congr fun b hb => ?_
  rw [booths b (mem_liveBooths.1 hb).2]

theorem clearLostPins_rewrites : Rewrites clearLostPins Booth.unpinned lostBooths := by
  refine ⟨fun h i => rfl, fun h i b hb => (mem_lostBooths.1 hb).1, fun b => rfl, fun b => id, fun h i b hb e => ?_,
    fun g h i _ => lostBooths_congr⟩
  obtain ⟨-, t, ht, -⟩ := mem_lostBooths.1 hb
  rw [← e] at ht
  cases ht

end

/-! ## Relay (R127 to R130) -/

section
variable {g h : Hall} {i : SegId}

/-- The floor set after the first pass, with the output languages (R128). -/
def pivotsOf (l : Nat) (live : List BoothId) (bs : Vector Booth 12) : List (BoothId × Nat) :=
  (live.filter fun b => inFloorSet l bs[b]).map fun b => (b, (bs[b]).output)

theorem pivotsOf_congr {l : Nat} {live : List BoothId} {bs cs : Vector Booth 12}
    (e : ∀ b ∈ live, bs[b] = cs[b]) : pivotsOf l live bs = pivotsOf l live cs := by
  have same : (live.filter fun b => inFloorSet l bs[b]) = live.filter fun b => inFloorSet l cs[b] :=
    List.filter_congr fun b hb => by rw [e b hb]
  unfold pivotsOf
  rw [same]
  exact List.map_congr_left fun b hb => by rw [e b (List.mem_of_mem_filter hb)]

/-- The booths after the first pass (R128). -/
def firstPass (l : Nat) (live : List BoothId) (bs : Vector Booth 12) : Vector Booth 12 := rewritten (unpinMatched l) live bs

theorem relay_eq (live : List BoothId) (l : Nat) (bs : Vector Booth 12) : relay live l bs =
    rewritten (relayOne l (pivotsOf l live (firstPass l live bs))) live (firstPass l live bs) := rfl

theorem relay_booth (live : List BoothId) (l : Nat) (bs : Vector Booth 12) (b : BoothId) : (relay live l bs)[b] =
    if b ∈ live then relayOne l (pivotsOf l live (firstPass l live bs)) (unpinMatched l bs[b]) else bs[b] := by
  rw [relay_eq, rewritten_booth, firstPass, rewritten_booth]
  split <;> rfl

theorem relay_congr {l : Nat} {live : List BoothId} {bs cs : Vector Booth 12} (e : ∀ b ∈ live, bs[b] = cs[b])
    {b : BoothId} (hb : bs[b] = cs[b]) : (relay live l bs)[b] = (relay live l cs)[b] := by
  have first : ∀ b ∈ live, (firstPass l live bs)[b] = (firstPass l live cs)[b] := fun c hc => by
    rw [firstPass, firstPass, rewritten_booth, rewritten_booth, e c hc]
  rw [relay_booth, relay_booth, pivotsOf_congr first, hb]

theorem unpinMatched_kept (l : Nat) (b : Booth) : (unpinMatched l b).kin = b.kin ∧ (unpinMatched l b).state = b.state ∧
    ((unpinMatched l b).pin = b.pin ∨ (unpinMatched l b).pin = none) := by
  unfold unpinMatched
  split
  · exact ⟨rfl, rfl, .inr rfl⟩
  · exact ⟨rfl, rfl, .inl rfl⟩

theorem pivotFor_kept (l : Nat) (ps : List (BoothId × Nat)) (b : Booth) :
    (pivotFor l ps b).kin = b.kin ∧ (pivotFor l ps b).state = b.state ∧ (pivotFor l ps b).pin = b.pin := by
  unfold pivotFor
  repeat' split
  all_goals exact ⟨rfl, rfl, rfl⟩

theorem relayOne_kept (l : Nat) (ps : List (BoothId × Nat)) (b : Booth) : (relayOne l ps b).kin = b.kin ∧
    (relayOne l ps b).state = b.state ∧ ((relayOne l ps b).pin = b.pin ∨ (relayOne l ps b).pin = none) := by
  unfold relayOne
  repeat' split
  · exact ⟨rfl, rfl, .inl rfl⟩
  · exact ⟨rfl, rfl, .inl rfl⟩
  · obtain ⟨kin, state, pin⟩ := pivotFor_kept l ps { b with pin := none }
    exact ⟨kin, state, .inr pin⟩
  · obtain ⟨kin, state, pin⟩ := pivotFor_kept l ps b
    exact ⟨kin, state, .inl pin⟩

/-- Relay keeps a booth's kin and state, and keeps its pin or clears it. -/
theorem relay_kept (live : List BoothId) (l : Nat) (bs : Vector Booth 12) (b : BoothId) :
    ((relay live l bs)[b]).kin = (bs[b]).kin ∧ ((relay live l bs)[b]).state = (bs[b]).state ∧
      (((relay live l bs)[b]).pin = (bs[b]).pin ∨ ((relay live l bs)[b]).pin = none) := by
  rw [relay_booth]
  split
  · obtain ⟨kin, state, pin⟩ := relayOne_kept l (pivotsOf l live (firstPass l live bs)) (unpinMatched l bs[b])
    obtain ⟨kin', state', pin'⟩ := unpinMatched_kept l bs[b]
    refine ⟨kin.trans kin', state.trans state', ?_⟩
    rcases pin with e | e
    · rw [e]
      exact pin'
    · exact .inr e
  · exact ⟨rfl, rfl, .inl rfl⟩

theorem reevaluate_none (hr : h.room i = none) : reevaluate h i = h := by simp only [reevaluate, hr]

theorem reevaluate_some {r : Room} (hr : h.room i = some r) : reevaluate h i =
    if relay (h.liveBooths i) r.floorLang h.booths = h.booths then h
    else raiseRoom .booth i { h with booths := relay (h.liveBooths i) r.floorLang h.booths } := by
  simp only [reevaluate, hr]

theorem reevaluate_booths {r : Room} (hr : h.room i = some r) :
    (reevaluate h i).booths = relay (h.liveBooths i) r.floorLang h.booths := by
  rw [reevaluate_some hr]
  split
  · next e => exact e.symm
  · rfl

theorem reevaluate_congr (room : (g.room i).map (·.floorLang) = (h.room i).map (·.floorLang)) (rooms : ∀ c, g.boothRoom c = h.boothRoom c)
    (booths : ∀ c : BoothId, h.boothRoom c = some i → g.booths[c] = h.booths[c]) {b : BoothId}
    (hb : h.boothRoom b = some i) : (reevaluate g i).booths[b] = (reevaluate h i).booths[b] := by
  cases hr : h.room i with
  | none =>
    rw [hr, Option.map_none, Option.map_eq_none_iff] at room
    rw [reevaluate_none hr, reevaluate_none room, booths b hb]
  | some r =>
    rw [hr, Option.map_some, Option.map_eq_some_iff] at room
    obtain ⟨r', hr', lang⟩ := room
    rw [reevaluate_booths hr, reevaluate_booths hr', lang, liveBooths_congr rooms booths]
    exact relay_congr (fun c hc => booths c (mem_liveBooths.1 hc).2) (booths b hb)

theorem reevaluate_local : Local reevaluate := by
  refine ⟨fun h i => ?_, fun h i b hb => ?_, fun g h i room rooms booths b hb =>
    reevaluate_congr (congrArg _ room) rooms booths hb,
    fun h i => ?_⟩
  · cases hr : h.room i with
    | none => rw [reevaluate_none hr]; exact .refl h
    | some r =>
      rw [reevaluate_some hr]
      split
      · exact .refl h
      · refine .write h i (fun b => (relay_kept _ _ _ b).1) fun b hs => ?_
        rwa [(relay_kept _ _ _ b).2.1] at hs
  · cases hr : h.room i with
    | none => rw [reevaluate_none hr]
    | some r => rw [reevaluate_booths hr, relay_booth, if_neg hb]
  · cases hr : h.room i with
    | none =>
      rw [reevaluate_none hr]
      exact signalled_congr (signalled_refl h .booth) (by simp)
    | some r =>
      have booths := reevaluate_booths hr
      by_cases e : relay (h.liveBooths i) r.floorLang h.booths = h.booths
      · rw [reevaluate_some hr, if_pos e]
        exact signalled_congr (signalled_refl h .booth) (by simp)
      · have moved : ∃ b : BoothId, (reevaluate h i).booths[b] ≠ h.booths[b] := by
          by_contra c
          push Not at c
          exact e (booths ▸ table_ext c)
        rw [reevaluate_some hr, if_neg e] at moved ⊢
        refine signalled_congr (signalled_of_flags (raise_signalled .booth (h.segsOf i) _) fun _ => rfl) fun x => ?_
        exact (and_iff_left moved).symm

end

end Sys2Proof.Machine
end

section
/-! What a commit leaves of the booths of the rebuilt rooms (R134, R135, R138; O55). -/

namespace Sys2Proof.Machine

section
variable (before h : Hall) (l : List SegId)

/-- The hall with the rebuilt rooms' duplicates and dropped languages standing by (R134). -/
def settledBooths : Hall := l.foldl (settleBooths before) h

/-- The hall with the lost pins cleared as well (R135), before relay is re-evaluated. -/
def pinnedBooths : Hall := l.foldl clearLostPins (settledBooths before h l)

theorem commitBooths_eq : commitBooths before h l = l.foldl reevaluate (pinnedBooths before h l) := rfl

theorem settledBooths_boothed : Boothed h (settledBooths before h l) :=
  (settleBooths_rewrites before).isLocal.fold_boothed l h

theorem pinnedBooths_boothed' : Boothed (settledBooths before h l) (pinnedBooths before h l) :=
  clearLostPins_rewrites.isLocal.fold_boothed l _

theorem pinnedBooths_boothed : Boothed h (pinnedBooths before h l) :=
  (settledBooths_boothed before h l).trans (pinnedBooths_boothed' before h l)

theorem commitBooths_boothed' : Boothed (pinnedBooths before h l) (commitBooths before h l) :=
  reevaluate_local.fold_boothed l _

theorem commitBooths_boothed : Boothed h (commitBooths before h l) :=
  (pinnedBooths_boothed before h l).trans (commitBooths_boothed' before h l)

variable {before h l}

/-- A booth LIVE in no rebuilt room is left. -/
theorem commitBooths_off {b : BoothId} (hb : ∀ i ∈ l, b ∉ h.liveBooths i) :
    (pinnedBooths before h l).booths[b] = h.booths[b] ∧ (commitBooths before h l).booths[b] = h.booths[b] := by
  have off {g : Hall} (w : Boothed h g) : ∀ i ∈ l, b ∉ g.liveBooths i := fun i hi c => hb i hi <| by
    rw [mem_liveBooths] at c ⊢
    exact ⟨w.live b c.1, w.boothRoom b ▸ c.2⟩
  have first := (settleBooths_rewrites before).isLocal.fold_off hb
  have second := clearLostPins_rewrites.isLocal.fold_off (off (settledBooths_boothed before h l))
  have third := reevaluate_local.fold_off (off (pinnedBooths_boothed before h l))
  exact ⟨second.trans first, third.trans (second.trans first)⟩

variable (hl : l.Nodup) {i : SegId} (hi : i ∈ l)
include hl hi

theorem settledBooths_booth {b : BoothId} (hb : h.boothRoom b = some i) : (settledBooths before h l).booths[b] =
    if b ∈ displacedBooths before h i then standBy true h.booths[b] else h.booths[b] :=
  ((settleBooths_rewrites before).isLocal.fold_on hl hi hb).trans ((settleBooths_rewrites before).booth h i b)

theorem mem_settled_liveBooths {b : BoothId} : b ∈ (settledBooths before h l).liveBooths i ↔
    b ∈ h.liveBooths i ∧ b ∉ displacedBooths before h i := by
  have w := settledBooths_boothed before h l
  constructor
  · intro hb
    obtain ⟨state, room⟩ := mem_liveBooths.1 hb
    rw [w.boothRoom] at room
    rw [settledBooths_booth hl hi room] at state
    split at state
    · cases state
    · next hn => exact ⟨mem_liveBooths.2 ⟨state, room⟩, hn⟩
  · rintro ⟨hb, hn⟩
    obtain ⟨state, room⟩ := mem_liveBooths.1 hb
    refine mem_liveBooths.2 ⟨?_, (w.boothRoom b).trans room⟩
    rw [settledBooths_booth hl hi room, if_neg hn]
    exact state

theorem pinnedBooths_booth {b : BoothId} (hb : h.boothRoom b = some i) : (pinnedBooths before h l).booths[b] =
    if b ∈ lostBooths (settledBooths before h l) i then ((settledBooths before h l).booths[b]).unpinned
    else (settledBooths before h l).booths[b] :=
  (clearLostPins_rewrites.isLocal.fold_on hl hi (((settledBooths_boothed before h l).boothRoom b).trans hb)).trans
    (clearLostPins_rewrites.booth _ i b)

theorem commitBooths_booth {b : BoothId} (hb : h.boothRoom b = some i) :
    (commitBooths before h l).booths[b] = (reevaluate (pinnedBooths before h l) i).booths[b] :=
  reevaluate_local.fold_on hl hi (((pinnedBooths_boothed before h l).boothRoom b).trans hb)

/-- Relay keeps a booth's state, and its pin or clears it. -/
theorem commitBooths_kept {b : BoothId} (hb : h.boothRoom b = some i) :
    ((commitBooths before h l).booths[b]).state = ((pinnedBooths before h l).booths[b]).state ∧
      (((commitBooths before h l).booths[b]).pin = ((pinnedBooths before h l).booths[b]).pin ∨
        ((commitBooths before h l).booths[b]).pin = none) := by
  rw [commitBooths_booth hl hi hb]
  cases hr : (pinnedBooths before h l).room i with
  | none => rw [reevaluate_none hr]; exact ⟨rfl, .inl rfl⟩
  | some r =>
    rw [reevaluate_booths hr]
    exact (relay_kept _ _ _ b).2

theorem pinnedBooths_state {b : BoothId} (hb : h.boothRoom b = some i) :
    ((pinnedBooths before h l).booths[b]).state = ((settledBooths before h l).booths[b]).state := by
  rw [pinnedBooths_booth hl hi hb]
  split <;> rfl

/-- After the commit a booth is LIVE in a rebuilt room that was LIVE in it and not displaced. -/
theorem mem_commit_liveBooths {b : BoothId} : b ∈ (commitBooths before h l).liveBooths i ↔
    b ∈ (settledBooths before h l).liveBooths i := by
  rw [mem_liveBooths, mem_liveBooths, (commitBooths_boothed before h l).boothRoom,
    (settledBooths_boothed before h l).boothRoom]
  refine and_congr_left fun hb => ?_
  rw [(commitBooths_kept hl hi hb).1, pinnedBooths_state hl hi hb]

/-- A LIVE booth that stays is the keeper of its language, which is in the room's list (R134). -/
theorem commit_keeper {r : Room} (hr : h.room i = some r) {b : BoothId}
    (hb : b ∈ (commitBooths before h l).liveBooths i) : (h.booths[b]).output ∈ r.langs ∧
    keeper before ((before.ledBy r.lead).map (·.1))
      ((h.liveBooths i).filter fun c => (h.booths[c]).output = (h.booths[b]).output) = some b := by
  rw [mem_commit_liveBooths hl hi, mem_settled_liveBooths hl hi, mem_displacedBooths] at hb
  obtain ⟨live, stays⟩ := hb
  have kept : displacedAt before h i r b = false := by
    by_contra c
    exact stays ⟨r, hr, live, by simpa using c⟩
  simp only [displacedAt, Bool.or_eq_false_iff, decide_eq_false_iff_not, not_not, Bool.not_eq_false',
    List.contains_iff_mem] at kept
  exact ⟨kept.2, kept.1⟩

/-- The LIVE booths of a rebuilt room after a commit: in the list, one to a language, pinned to LIVE booths of it. -/
theorem commit_live {r : Room} (hr : h.room i = some r) {b : BoothId}
    (hb : b ∈ (commitBooths before h l).liveBooths i) :
    ((commitBooths before h l).booths[b]).output ∈ r.langs ∧
    (∀ c ∈ (commitBooths before h l).liveBooths i, c ≠ b →
      ((commitBooths before h l).booths[c]).output ≠ ((commitBooths before h l).booths[b]).output) ∧
    ∀ c, ((commitBooths before h l).booths[b]).pin = some (.booth c) → c ∈ (commitBooths before h l).liveBooths i := by
  have output (c : BoothId) : ((commitBooths before h l).booths[c]).output = (h.booths[c]).output :=
    Booth.output_of_kin ((commitBooths_boothed before h l).kin c)
  simp only [output]
  obtain ⟨listed, keeps⟩ := commit_keeper hl hi hr hb
  refine ⟨listed, fun c hc hne e => hne ?_, fun c hc => ?_⟩
  · have keeps' := (commit_keeper hl hi hr hc).2
    rw [e, keeps] at keeps'
    exact (Option.some_inj.1 keeps').symm
  · have settled := (mem_commit_liveBooths hl hi).1 hb
    have room : h.boothRoom b = some i := by
      rw [← (commitBooths_boothed before h l).boothRoom]
      exact (mem_liveBooths.1 hb).2
    rw [mem_commit_liveBooths hl hi]
    have pin : ((pinnedBooths before h l).booths[b]).pin = some (.booth c) := by
      rcases (commitBooths_kept hl hi room (before := before)).2 with e | e
      · rw [← e, hc]
      · rw [e] at hc
        cases hc
    rw [pinnedBooths_booth hl hi room] at pin
    split at pin
    · cases pin
    · next hn =>
      by_contra out
      exact hn (mem_lostBooths.2 ⟨settled, c, pin, out⟩)

theorem mem_pinned_liveBooths {b : BoothId} : b ∈ (pinnedBooths before h l).liveBooths i ↔
    b ∈ (settledBooths before h l).liveBooths i := by
  rw [mem_liveBooths, mem_liveBooths, (pinnedBooths_boothed before h l).boothRoom,
    (settledBooths_boothed before h l).boothRoom]
  exact and_congr_left fun hb => by rw [pinnedBooths_state hl hi hb]

/-- A booth moved by the clearing of pins stays moved. -/
theorem commitBooths_unpinned {b : BoothId} (hb : b ∈ (settledBooths before h l).liveBooths i)
    (moved : (pinnedBooths before h l).booths[b] ≠ (settledBooths before h l).booths[b]) :
    (commitBooths before h l).booths[b] ≠ h.booths[b] := by
  obtain ⟨live, stays⟩ := (mem_settled_liveBooths hl hi).1 hb
  have room := (mem_liveBooths.1 live).2
  have old : (settledBooths before h l).booths[b] = h.booths[b] := by rw [settledBooths_booth hl hi room, if_neg stays]
  have pinned := pinnedBooths_booth hl hi room (before := before)
  split at pinned
  · next lost =>
    obtain ⟨-, t, ht, -⟩ := mem_lostBooths.1 lost
    intro e
    have none : ((commitBooths before h l).booths[b]).pin = none := by
      have unpinned : ((pinnedBooths before h l).booths[b]).pin = none := by rw [pinned]; rfl
      rcases (commitBooths_kept hl hi room (before := before)).2 with c | c
      · rw [c, unpinned]
      · exact c
    rw [old, ← e, none] at ht
    cases ht
  · exact absurd pinned moved

/-- A booth of a rebuilt room is changed where a part of the commit changes it. -/
theorem commitBooths_moved : (∃ b ∈ h.liveBooths i, (commitBooths before h l).booths[b] ≠ h.booths[b]) ↔
    (∃ b ∈ h.liveBooths i, (settledBooths before h l).booths[b] ≠ h.booths[b]) ∨
    (∃ b ∈ (settledBooths before h l).liveBooths i,
      (pinnedBooths before h l).booths[b] ≠ (settledBooths before h l).booths[b]) ∨
    ∃ b ∈ (pinnedBooths before h l).liveBooths i,
      (commitBooths before h l).booths[b] ≠ (pinnedBooths before h l).booths[b] := by
  constructor
  · rintro ⟨b, hb, moved⟩
    have room := (mem_liveBooths.1 hb).2
    by_cases first : (settledBooths before h l).booths[b] = h.booths[b]
    · have live : b ∈ (settledBooths before h l).liveBooths i := by
        refine mem_liveBooths.2 ⟨first ▸ (mem_liveBooths.1 hb).1, ?_⟩
        rw [(settledBooths_boothed before h l).boothRoom, room]
      by_cases second : (pinnedBooths before h l).booths[b] = (settledBooths before h l).booths[b]
      · exact .inr (.inr ⟨b, (mem_pinned_liveBooths hl hi).2 live, fun e => moved (e.trans (second.trans first))⟩)
      · exact .inr (.inl ⟨b, live, second⟩)
    · exact .inl ⟨b, hb, first⟩
  · rintro (⟨b, hb, moved⟩ | ⟨b, hb, moved⟩ | ⟨b, hb, moved⟩)
    · refine ⟨b, hb, fun e => ?_⟩
      obtain ⟨live, room⟩ := mem_liveBooths.1 hb
      have state := congrArg Booth.state e
      rw [(commitBooths_kept hl hi room).1, pinnedBooths_state hl hi room, settledBooths_booth hl hi room] at state
      rw [settledBooths_booth hl hi room] at moved
      split at state
      · rw [live] at state
        cases state
      · next hn => exact moved (if_neg hn)
    · exact ⟨b, ((mem_settled_liveBooths hl hi).1 hb).1, commitBooths_unpinned hl hi hb moved⟩
    · have settled := (mem_pinned_liveBooths hl hi).1 hb
      obtain ⟨live, stays⟩ := (mem_settled_liveBooths hl hi).1 settled
      refine ⟨b, live, ?_⟩
      by_cases second : (pinnedBooths before h l).booths[b] = (settledBooths before h l).booths[b]
      · rw [second, settledBooths_booth hl hi (mem_liveBooths.1 live).2, if_neg stays] at moved
        exact moved
      · exact commitBooths_unpinned hl hi settled second

omit hi in
/-- BOOTH is raised for the rebuilt rooms in which the commit changes a booth (R138). -/
theorem commitBooths_told : h.signalled (commitBooths before h l) .booth fun x =>
    ∃ i ∈ l, x = h.segsOf i ∧ ∃ b ∈ h.liveBooths i, (commitBooths before h l).booths[b] ≠ h.booths[b] := by
  have settled := (settleBooths_rewrites before).isLocal.fold_told hl h
  have pinned := clearLostPins_rewrites.isLocal.fold_told hl (settledBooths before h l)
  have relayed := reevaluate_local.fold_told hl (pinnedBooths before h l)
  refine signalled_congr (signalled_trans settled (signalled_trans pinned relayed (commitBooths_boothed' before h l).ports)
    (((pinnedBooths_boothed' before h l).trans (commitBooths_boothed' before h l)).ports)) fun x => ?_
  simp only [← exists_or, ← and_or_left, (settledBooths_boothed before h l).segsOf, (pinnedBooths_boothed before h l).segsOf]
  refine exists_congr fun i => and_congr_right fun hi => and_congr_right fun _ => ?_
  simp only [exists_or]
  exact (commitBooths_moved hl hi).symm

end

end Sys2Proof.Machine
end

section
/-! The halls of a commit, one after the other: the rooms rebuilt, the floor refiled, the booths reassigned, the rooms
unfrozen (R38 to R45, R117; O55). -/

namespace Sys2Proof.Machine

theorem raiseRooms_told {h : Hall} (f : Flag) {l : List SegId} {i : SegId} (hi : i ∈ l) {r : Room}
    (hr : h.room i = some r) : (raiseRooms f l h).told f r.segs := fun p takes mask =>
  (raiseRooms_signalled f l h p).2 (.inr ⟨mask, r.segs, ⟨i, hi, (segsOf_room hr).symm⟩, takes⟩)

theorem raiseRooms_mute {f f' : Flag} (hf : f' ≠ f) (l : List SegId) (h : Hall) : Mute f h (raiseRooms f' l h) :=
  .fold (fun g i => raiseRoom_mute g hf i) l h

section
variable (s : State)

/-- The rooms of the pending map that a commit rebuilds (R38). -/
def builtRooms : List MapRoom := touching s.regroup.affected s.regroup.pendingMap

def builtIds : List SegId := (builtRooms s).map (·.id)

/-- The plans of the rooms a commit rebuilds (R142, R143). -/
def builtPlans : List Plan :=
  placeWindows (heldWindows s.hall s.regroup.affected) ((builtRooms s).map (startPlan s.scanner s.hall))

/-- The record a commit builds for a room (R39). -/
def builtRoom (m : MapRoom) : Room := rebuiltRoom s.scanner s.hall m (planOf (builtPlans s) m)

/-- The hall with the rooms of the pending map. -/
@[irreducible] def builtHall : Hall := replaceRooms s.hall s.regroup.affected (builtRooms s) (builtRoom s)

/-- The hall with the floor refiled as well. -/
@[irreducible] def refloored : Hall := (builtIds s).foldl refileRoom (builtHall s)

/-- The hall with the booths reassigned as well. -/
@[irreducible] def reboothed : Hall := commitBooths s.hall (refloored s) (builtIds s)

/-- The hall before its rooms are unfrozen, with REGROUP and ROOM raised. -/
@[irreducible] def toldHall : Hall :=
  raise .regroup allSegs (raiseRooms .room (builtIds s) (setFrozen (reboothed s) fun _ => false))

theorem commit_hall : (commit s).hall = unfreeze (toldHall s) (builtIds s) := by
  unfold toldHall reboothed refloored builtHall
  rfl

theorem commit_regroup : (commit s).regroup = { s.regroup with
    state := restState s.scanner, isOpen := false, affected := 0, consent := [], holds := [],
    pendingMap := (toldHall s).activeMap } := by
  unfold toldHall reboothed refloored builtHall
  rfl

theorem commit_rest : (commit s).scanner = s.scanner ∧ (commit s).trunks = s.trunks ∧ (commit s).mix = s.mix ∧
    (commit s).pending = s.pending := ⟨rfl, rfl, rfl, rfl⟩

/-! ## The hall with its rooms rebuilt -/

theorem builtHall_rest : builtHall s = { s.hall with rooms := (builtHall s).rooms } := by
  unfold builtHall
  rfl

theorem builtHall_entry (q : SlotRef) : (builtHall s).entry q = s.hall.entry q := by
  rw [builtHall_rest]
  rfl

theorem builtHall_requests : (builtHall s).requests = s.hall.requests := by
  rw [builtHall_rest]

theorem builtHall_unit (u : UnitId) : (builtHall s).unit u = s.hall.unit u := by
  rw [builtHall_rest]
  rfl

theorem builtHall_addr (u : UnitId) : (builtHall s).addr u = s.hall.addr u := by
  rw [builtHall_rest]
  rfl

theorem builtHall_booths : (builtHall s).booths = s.hall.booths := by
  rw [builtHall_rest]

theorem builtHall_ports : (builtHall s).ports = s.hall.ports := by
  rw [builtHall_rest]

theorem builtHall_queueIn (x : SegSet) : (builtHall s).queueIn x = s.hall.queueIn x :=
  queueIn_congr (builtHall_requests s) fun u => by rw [builtHall_unit]

theorem builtHall_requestOf (u : UnitId) : (builtHall s).requestOf u = s.hall.requestOf u := by
  unfold Hall.requestOf
  rw [builtHall_requests]

variable {s}

theorem builtHall_built (nodup : (builtIds s).Nodup) {m : MapRoom} (hm : m ∈ builtRooms s) :
    (builtHall s).room m.id = some (builtRoom s m) := by
  unfold builtHall
  exact replaceRooms_built nodup hm

theorem builtHall_kept {i : SegId} (hi : ∀ m ∈ builtRooms s, m.id ≠ i) :
    (builtHall s).room i = (s.hall.room i).filter fun r => (r.segs &&& s.regroup.affected) = 0 := by
  unfold builtHall
  exact replaceRooms_kept hi

theorem builtIds_nodup (nodup : (s.regroup.pendingMap.map (·.id)).Nodup) : (builtIds s).Nodup :=
  nodup.sublist (List.filter_sublist.map _)

theorem mem_builtIds {i : SegId} : i ∈ builtIds s ↔ ∃ m ∈ builtRooms s, m.id = i := List.mem_map

variable (s)

theorem builtRoom_seat (m : MapRoom) : (builtRoom s m).segs = m.segs ∧ (builtRoom s m).lead = m.lead :=
  rebuiltRoom_seat _ _ m _

/-! ## The floor and the booths -/

theorem refloored_refiling : Refiling (builtHall s) (refloored s) := by
  unfold refloored
  exact .fold refileRoom_refiling _ _

theorem refloored_mute : Mute .booth (builtHall s) (refloored s) := by
  unfold refloored
  exact .fold (fun g i => refileRoom_mute (by decide) g i) _ _

theorem reboothed_boothed : Boothed (refloored s) (reboothed s) := by
  unfold reboothed
  exact commitBooths_boothed _ _ _

/-! ## The hall before its rooms are unfrozen -/

/-- From `h` to `g` rooms have been unfrozen and events raised. -/
structure Opened (h g : Hall) : Prop where
  rest  : g = { h with rooms := g.rooms, ports := g.ports }
  room  : ∀ i, g.room i = (h.room i).map fun r => { r with frozen := false }
  ports : ∀ p : PortId, (g.ports[p]).core = (h.ports[p]).core
  flags : ∀ p : PortId, (h.ports[p]).flags &&& (g.ports[p]).flags = (h.ports[p]).flags

theorem toldHall_opened : Opened (reboothed s) (toldHall s) := by
  unfold toldHall
  have rooms := raiseRooms_hall .room (builtIds s) (setFrozen (reboothed s) fun _ => false)
  have core := raiseRooms_core .room (builtIds s) (setFrozen (reboothed s) fun _ => false)
  have first : Onward (setFrozen (reboothed s) fun _ => false)
      (raiseRooms .room (builtIds s) (setFrozen (reboothed s) fun _ => false)) :=
    .fold (fun g i => raiseRoom_onward g _ _) _ _
  have flags := (first.trans (.raise _ .regroup allSegs)).flags
  generalize raiseRooms .room (builtIds s) (setFrozen (reboothed s) fun _ => false) = g at *
  refine ⟨?_, fun i => ?_, fun p => ?_, flags⟩
  · rw [rooms]
    rfl
  · show g.room i = _
    rw [rooms]
    exact tab_get _ i
  · exact (core_port (raise_core g .regroup allSegs) p).trans (core_port core p)

theorem toldHall_mute : Mute .booth (reboothed s) (toldHall s) := by
  unfold toldHall
  have frozen : Mute .booth (reboothed s) (setFrozen (reboothed s) fun _ => false) := .of_ports rfl
  have rooms := raiseRooms_mute (by decide : Flag.room ≠ .booth) (builtIds s) (setFrozen (reboothed s) fun _ => false)
  have last := raise_mute (by decide : Flag.regroup ≠ .booth) allSegs
    (raiseRooms .room (builtIds s) (setFrozen (reboothed s) fun _ => false))
  exact frozen.trans (rooms.trans last)

theorem toldHall_told : (toldHall s).told .regroup allSegs := by
  unfold toldHall
  exact raise_told _ _ _

/-- ROOM is raised for each rebuilt room. -/
theorem toldHall_room {i : SegId} {r : Room} (hi : i ∈ builtIds s) (hr : (reboothed s).room i = some r) :
    (toldHall s).told .room r.segs := by
  unfold toldHall
  have room := setFrozen_room (reboothed s) (fun _ => false) i
  rw [hr] at room
  generalize setFrozen (reboothed s) (fun _ => false) = h at room ⊢
  exact (Onward.raise _ .regroup allSegs).told (raiseRooms_told (r := { r with frozen := false }) .room hi room)

end

/-! ## What the halls keep -/

/-- An event told before is told after the ports' flags have only been set. -/
theorem told_of_ports {h g : Hall} {f : Flag} {x : SegSet} (t : h.told f x)
    (core : ∀ p : PortId, (g.ports[p]).core = (h.ports[p]).core)
    (flags : ∀ p : PortId, (h.ports[p]).flags &&& (g.ports[p]).flags = (h.ports[p]).flags) : g.told f x := by
  intro p ht hm e
  rw [portTakes_of_core (core p)] at ht
  rw [mask_of_core (core p)] at hm
  refine t p ht hm ?_
  rw [← flags p, BitVec.and_assoc, e]
  exact BitVec.and_zero

end Sys2Proof.Machine
end

section
/-! What a commit leaves of each record, and of the rooms that it rebuilds and keeps (R38 to R42, R44, R142 to R144;
O55). -/

namespace Sys2Proof.Machine

/-- From the record `r` to `r'` a room has gone through floor events. -/
structure Room.Follows (r r' : Room) : Prop where
  core        : r'.core = r.core
  floorLang   : r'.floorLang = r.floorLang
  lastSpeaker : r'.lastSpeaker = r.lastSpeaker
  elevated    : r'.elevated = r.elevated ∨ r'.elevated = none
  awake       : r.dormant = false → r'.dormant = false

namespace Room.Follows

theorem trans {a b c : Room} (x : a.Follows b) (y : b.Follows c) : a.Follows c := by
  refine ⟨y.core.trans x.core, y.floorLang.trans x.floorLang, y.lastSpeaker.trans x.lastSpeaker, ?_, y.awake ∘ x.awake⟩
  rcases y.elevated with e | e
  · rw [e]
    exact x.elevated
  · exact .inr e

end Room.Follows

theorem room_follows {h g : Hall} (o : Onward h g) (w : Floored h g) {i : SegId} {r : Room} (hr : h.room i = some r) :
    ∃ r', g.room i = some r' ∧ r.Follows r' ∧ r'.frozen = r.frozen := by
  have core := core_room o.core i
  have spoken := w.spoken i
  have frozen := o.frozen i
  have awake := o.awake i
  rw [hr] at core spoken frozen awake
  obtain ⟨r', hr', core⟩ := Option.map_eq_some_iff.1 core
  rw [hr', Option.map_some, Option.map_some, Option.some_inj] at spoken frozen
  rw [hr', Option.map_some, Option.map_some, Option.some_inj, Option.some_inj] at awake
  exact ⟨r', hr', ⟨core, congrArg Prod.fst spoken, congrArg Prod.snd spoken, w.elevated i r r' hr hr', awake⟩, frozen⟩

section
variable (s : State)

theorem commit_onward : Onward (toldHall s) (commit s).hall := by
  rw [commit_hall]
  exact unfreeze_onward _ _

theorem commit_floored : Floored (toldHall s) (commit s).hall := by
  rw [commit_hall]
  exact unfreeze_floored _ _

theorem commit_units : (commit s).hall.units = (refloored s).units := by
  rw [commit_hall, unfreeze_units, (toldHall_opened s).rest, (reboothed_boothed s).rest]

theorem commit_booths : (commit s).hall.booths = (reboothed s).booths := by
  rw [(commit_floored s).booths, (toldHall_opened s).rest]

theorem toldHall_requests : (toldHall s).requests = (refloored s).requests := by
  rw [(toldHall_opened s).rest, (reboothed_boothed s).rest]

theorem toldHall_entry (q : SlotRef) : (toldHall s).entry q = (refloored s).entry q := by
  rw [(toldHall_opened s).rest, (reboothed_boothed s).rest]
  rfl

theorem toldHall_unit (u : UnitId) : (toldHall s).unit u = (refloored s).unit u := by
  rw [(toldHall_opened s).rest, (reboothed_boothed s).rest]
  rfl

theorem toldHall_addr (u : UnitId) : (toldHall s).addr u = (refloored s).addr u := by
  rw [(toldHall_opened s).rest, (reboothed_boothed s).rest]
  rfl

theorem commit_fewer : Fewer (refloored s) (commit s).hall := by
  have w := unfreeze_fewer (toldHall s) (builtIds s)
  rw [← commit_hall] at w
  exact ⟨toldHall_requests s ▸ w.units, toldHall_requests s ▸ w.old⟩

theorem commit_filled : Filled (toldHall s) (commit s).hall := by
  rw [commit_hall]
  exact unfreeze_filled _ _

/-! ## Records -/

theorem commit_unit_core (u : UnitId) : ((commit s).hall.unit u).core = (s.hall.unit u).core := by
  rw [unit_of_units (commit_units s), ← builtHall_unit]
  exact core_unit (refloored_refiling s).onward.core u

theorem commit_radiators : (commit s).hall.radiators = s.hall.radiators := by
  have last : (commit s).hall.radiators = (toldHall s).radiators := congrArg (·.2.2.2.1) (commit_onward s).core
  have floor : (refloored s).radiators = (builtHall s).radiators :=
    congrArg (·.2.2.2.1) (refloored_refiling s).onward.core
  rw [last, (toldHall_opened s).rest, (reboothed_boothed s).rest]
  exact floor.trans (by rw [builtHall_rest])

theorem commit_port_core (p : PortId) : ((commit s).hall.ports[p]).core = (s.hall.ports[p]).core := by
  rw [core_port (commit_onward s).core p, (toldHall_opened s).ports p, (reboothed_boothed s).ports p,
    core_port (refloored_refiling s).onward.core p, builtHall_ports]

/-- Every flag set after the floor was refiled stays set. -/
theorem commit_told {f : Flag} {x : SegSet} (t : (refloored s).told f x) : (commit s).hall.told f x := by
  refine (commit_onward s).told (told_of_ports t (fun p => ?_) fun p => ?_)
  · exact ((toldHall_opened s).ports p).trans ((reboothed_boothed s).ports p)
  · rw [← (reboothed_boothed s).flags p, BitVec.and_assoc, (toldHall_opened s).flags p]

theorem commit_entry {q : SlotRef} {e : Entry} (he : s.hall.entry q = some e) :
    (e.onAir = false → (commit s).hall.entry q = some e) ∧
    (e.onAir = true → (commit s).hall.entry q = some e ∨
      (e.chair = false ∧ (commit s).hall.entry q = some e.closed)) := by
  have held {x : Entry} (hx : (refloored s).entry q = some x) : (commit s).hall.entry q = some x :=
    (commit_filled s).held q x ((toldHall_entry s q).trans hx)
  rcases (refloored_refiling s).entry q with same | ⟨y, hy, air, chair, closed⟩
  · rw [builtHall_entry, he] at same
    exact ⟨fun _ => held same, fun _ => .inl (held same)⟩
  · rw [builtHall_entry, he] at hy
    cases hy
    exact ⟨fun c => absurd air (by rw [c]; decide), fun _ => .inr ⟨chair, held closed⟩⟩

/-! ## Rooms -/

variable {s} in
/-- A room of the hall rebuilt goes through the floor events of the commit, and is unfrozen. -/
theorem commit_room {i : SegId} {r : Room} (hr : (builtHall s).room i = some r) :
    ∃ r0 r', (toldHall s).room i = some r0 ∧ (commit s).hall.room i = some r' ∧ r.Follows r0 ∧ r0.Follows r' ∧
      r0.frozen = false ∧ r'.frozen = false := by
  obtain ⟨a, ha, first, -⟩ := room_follows (refloored_refiling s).onward (refloored_refiling s).floored hr
  have open_ : (toldHall s).room i = some { a with frozen := false } := by
    rw [(toldHall_opened s).room, (reboothed_boothed s).room, ha]
    rfl
  obtain ⟨r', hr', last, frozen⟩ := room_follows (commit_onward s) (commit_floored s) open_
  exact ⟨{ a with frozen := false }, r', open_, hr',
    ⟨first.core, first.floorLang, first.lastSpeaker, first.elevated, first.awake⟩, last, rfl, frozen⟩

variable {s} in
theorem commit_room_none {i : SegId} (hr : (builtHall s).room i = none) : (commit s).hall.room i = none := by
  have first := core_room (refloored_refiling s).onward.core i
  have last := core_room (commit_onward s).core i
  rw [hr, Option.map_none, Option.map_eq_none_iff] at first
  rw [(toldHall_opened s).room, (reboothed_boothed s).room, first, Option.map_none, Option.map_none,
    Option.map_eq_none_iff] at last
  exact last

theorem rebuiltRoom_rebuiltFrom (sc : Scanner) (h : Hall) (m : MapRoom) (p : Plan) :
    (rebuiltRoom sc h m p).rebuiltFrom h m p := by
  have fresh := freshRoom_rebuiltFrom sc h m p
  unfold rebuiltRoom
  split
  · exact fresh
  · exact fresh

theorem rebuiltFrom_follows {r r' : Room} {h : Hall} {m : MapRoom} {p : Plan} (w : r.rebuiltFrom h m p)
    (f : r.Follows r') (open_ : r'.frozen = false) : r'.rebuiltFrom h m p := by
  obtain ⟨segs, lead, -, dormant, staging, console, base, size, langs, placement, dropped, gen⟩ := w
  have core := f.core
  simp only [Room.core, Prod.mk.injEq] at core
  obtain ⟨csegs, clead, cgen, -, cbase, csize, clangs, cplacement, cdropped, -, cconsole, cstaging⟩ := core
  refine ⟨csegs.trans segs, clead.trans lead, open_, f.awake dormant, cstaging.trans staging, cconsole.trans console,
    cbase.trans base, csize.trans size, clangs.trans langs, cplacement.trans placement, cdropped.trans dropped, ?_⟩
  rw [cgen]
  exact gen

theorem ledBy_lead {h : Hall} {lead j : SegId} {r : Room} (e : h.ledBy lead = some (j, r)) : r.lead = lead := by
  obtain ⟨k, -, hk⟩ := List.exists_of_findSome?_eq_some e
  split at hk
  · next z hz =>
    split at hk
    · next hz' =>
      cases hk
      exact hz'
    · cases hk
  · cases hk

/-- The room that a room led by `lead` continues is found where it is the only one. -/
theorem ledBy_only {h : Hall} {lead j : SegId} {r : Room} (hr : h.room j = some r) (hl : r.lead = lead)
    (one : ∀ k x, h.room k = some x → x.lead = lead → k = j) : h.ledBy lead = some (j, r) := by
  cases e : h.ledBy lead with
  | none =>
    have := List.findSome?_eq_none_iff.1 e j (List.mem_finRange j)
    simp [hr, hl] at this
  | some y =>
    obtain ⟨k, x⟩ := y
    cases one k x (ledBy_room e) (ledBy_lead e)
    cases hr.symm.trans (ledBy_room e)
    rfl

theorem ledBy_none {h : Hall} {lead : SegId} (away : ∀ j r, h.room j = some r → r.lead ≠ lead) : h.ledBy lead = none := by
  cases e : h.ledBy lead with
  | none => rfl
  | some y => exact absurd (ledBy_lead e) (away y.1 y.2 (ledBy_room e))

/-- A room rebuilt continues the one active room with its lead (R39, R42). -/
theorem rebuiltRoom_continued {sc : Scanner} {h : Hall} {m : MapRoom} {p : Plan} {j : SegId} {r : Room}
    (e : h.ledBy m.lead = some (j, r)) : (rebuiltRoom sc h m p).settings = r.settings ∧
    (rebuiltRoom sc h m p).floorLang = r.floorLang ∧ (rebuiltRoom sc h m p).clip = r.clip ∧
    (rebuiltRoom sc h m p).lastSpeaker = (r.lastSpeaker.filter fun sg => inSet m.segs sg) ∧
    (rebuiltRoom sc h m p).elevated = r.elevated := by
  unfold rebuiltRoom
  rw [e]
  refine ⟨rfl, rfl, rfl, ?_, rfl⟩
  dsimp only
  cases r.lastSpeaker with
  | none => rfl
  | some sg => exact (Option.filter_some ..).symm

theorem rebuiltRoom_fresh {sc : Scanner} {h : Hall} {m : MapRoom} {p : Plan} (e : h.ledBy m.lead = none) :
    (rebuiltRoom sc h m p).fromDefaults sc.defaults[m.lead] := by
  unfold rebuiltRoom
  rw [e]
  exact ⟨rfl, rfl, rfl, rfl, rfl⟩

end

end Sys2Proof.Machine
end

section
/-! The rooms and the booths of a commit, room by room (R38 to R42, R134, R135; O55). -/

namespace Sys2Proof.Machine

/-! ## Halls with the same segments -/

/-- The rooms of `g` have the segments of those of `h`. -/
def SameSegs (h g : Hall) : Prop := ∀ i, (g.room i).map (·.segs) = (h.room i).map (·.segs)

section
variable {h g : Hall}

theorem SameSegs.of_core (e : g.core = h.core) : SameSegs h g := fun i => by
  have := congrArg (Option.map (·.1)) (core_room e i)
  rw [Option.map_map, Option.map_map] at this
  exact this

theorem SameSegs.trans {f : Hall} (a : SameSegs f h) (b : SameSegs h g) : SameSegs f g := fun i => (b i).trans (a i)

theorem SameSegs.roomOf (w : SameSegs h g) (sg : SegId) : g.roomOf sg = h.roomOf sg := by
  have test (k : Hall) (i : SegId) : (match k.room i with | some r => inSet r.segs sg | none => false) =
      (((k.room i).map (·.segs)).map fun x => inSet x sg).getD false := by
    cases k.room i <;> rfl
  unfold Hall.roomOf
  congr 1
  funext i
  refine (test g i).trans (Eq.trans ?_ (test h i).symm)
  rw [w i]

theorem SameSegs.segsOf (w : SameSegs h g) (i : SegId) : g.segsOf i = h.segsOf i := by
  have test (k : Hall) : k.segsOf i = ((k.room i).map (·.segs)).getD 0 := by
    unfold Hall.segsOf
    cases k.room i <;> rfl
  rw [test, test, w i]

theorem SameSegs.boothRoom (w : SameSegs h g) (booths : g.booths = h.booths) (b : BoothId) :
    g.boothRoom b = h.boothRoom b := by
  unfold Hall.boothRoom
  rw [booths, funext w.roomOf]

theorem SameSegs.liveBooths (w : SameSegs h g) (booths : g.booths = h.booths) (i : SegId) :
    g.liveBooths i = h.liveBooths i :=
  liveBooths_congr (w.boothRoom booths) fun c _ => by rw [booths]

end

section
variable (s : State)

theorem Opened.sameSegs {h g : Hall} (w : Opened h g) : SameSegs h g := fun i => by
  rw [w.room, Option.map_map]
  rfl

theorem Boothed.sameSegs {h g : Hall} (w : Boothed h g) : SameSegs h g := fun i => by rw [w.room]

theorem commit_sameSegs : SameSegs (reboothed s) (commit s).hall :=
  (toldHall_opened s).sameSegs.trans (.of_core (commit_onward s).core)

theorem refloored_sameSegs : SameSegs (builtHall s) (refloored s) := .of_core (refloored_refiling s).onward.core

theorem commit_liveBooths (i : SegId) : (commit s).hall.liveBooths i = (reboothed s).liveBooths i :=
  (commit_sameSegs s).liveBooths (commit_booths s) i

theorem commit_activeMap : (commit s).hall.activeMap = (builtHall s).activeMap := by
  unfold builtHall
  exact activeMap_of_layout (commit_layout s)

theorem toldHall_activeMap : (toldHall s).activeMap = (commit s).hall.activeMap :=
  (activeMap_of_layout (layout_of_core (commit_onward s).core)).symm

variable {s} (nodup : (s.regroup.pendingMap.map (·.id)).Nodup) {m : MapRoom} (hm : m ∈ builtRooms s)
include nodup hm

omit nodup in
theorem builtRoom_plan : planOf (builtPlans s) m ∈ builtPlans s ∧ (planOf (builtPlans s) m).id = m.id :=
  planOf_placed _ (List.mem_map.2 ⟨m, hm, rfl⟩) (startPlan_id _ _ _)

theorem refloored_built : ∃ r, (refloored s).room m.id = some r ∧ (builtRoom s m).Follows r := by
  obtain ⟨a, ha, first, -⟩ := room_follows (refloored_refiling s).onward (refloored_refiling s).floored
    (builtHall_built (builtIds_nodup nodup) hm)
  exact ⟨a, ha, first⟩

theorem commit_queue {r : Room} (hr : (commit s).hall.room m.id = some r) (f : (builtRoom s m).core = r.core) :
    ((commit s).hall.queue m.id).length ≤ r.settings.queueLimit := by
  have built := builtHall_built (builtIds_nodup nodup) hm
  have segs : (builtRoom s m).segs = r.segs := congrArg (·.1) f
  have settings : (builtRoom s m).settings = r.settings := congrArg (·.2.2.2.1) f
  rw [queue_room hr, ← segs, ← settings]
  refine ((commit_fewer s).queue_le fun q _ => seatedIn_of_units (commit_units s) _ _).trans ?_
  unfold refloored
  exact refileAll_queue (mem_builtIds.2 ⟨m, hm, rfl⟩) built

theorem commit_liveBooth {r : Room} (f : (builtRoom s m).core = r.core) {b : BoothId}
    (hb : b ∈ (commit s).hall.liveBooths m.id) : ((commit s).hall.booths[b]).output ∈ r.langs ∧
    (∀ c ∈ (commit s).hall.liveBooths m.id, c ≠ b →
      ((commit s).hall.booths[c]).output ≠ ((commit s).hall.booths[b]).output) ∧
    ∀ c, ((commit s).hall.booths[b]).pin = some (.booth c) → c ∈ (commit s).hall.liveBooths m.id := by
  obtain ⟨a, ha, first⟩ := refloored_built nodup hm
  have langs : a.langs = r.langs := congrArg (·.2.2.2.2.2.2.1) (first.core.trans f)
  rw [commit_liveBooths] at hb ⊢
  rw [commit_booths, ← langs]
  unfold reboothed at hb ⊢
  exact commit_live (builtIds_nodup nodup) (mem_builtIds.2 ⟨m, hm, rfl⟩) ha hb

theorem commit_tells : (commit s).hall.told .room m.segs ∧ (commit s).hall.told .floor m.segs := by
  have built := builtHall_built (builtIds_nodup nodup) hm
  have id : m.id ∈ builtIds s := mem_builtIds.2 ⟨m, hm, rfl⟩
  obtain ⟨a, ha, first⟩ := refloored_built nodup hm
  have segs : a.segs = m.segs := (congrArg (·.1) first.core).trans (builtRoom_seat s m).1
  refine ⟨?_, commit_told s ?_⟩
  · rw [← segs]
    exact (commit_onward s).told (toldHall_room s id (((reboothed_boothed s).room m.id).trans ha))
  · rw [← (builtRoom_seat s m).1]
    unfold refloored
    exact refileAll_told id built

/-- A room that a commit rebuilds holds what its plan, the room it continues and the defaults give it (R39 to R44). -/
theorem commit_rebuilt : ∃ r p, (commit s).hall.room m.id = some r ∧ p ∈ builtPlans s ∧ p.id = m.id ∧
    r.rebuiltFrom s.hall m p ∧
    (∀ j r', s.hall.room j = some r' → r'.lead = m.lead →
      (∀ k r2, s.hall.room k = some r2 → r2.lead = m.lead → k = j) →
      r.settings = r'.settings ∧ r.floorLang = r'.floorLang ∧ r.clip = r'.clip ∧
      r.lastSpeaker = (r'.lastSpeaker.filter fun sg => inSet m.segs sg) ∧
      (r.elevated = none ∨ r.elevated = r'.elevated)) ∧
    ((∀ j r', s.hall.room j = some r' → r'.lead ≠ m.lead) → r.fromDefaults s.scanner.defaults[m.lead]) ∧
    ((commit s).hall.queue m.id).length ≤ r.settings.queueLimit ∧
    ∀ b ∈ (commit s).hall.liveBooths m.id, ((commit s).hall.booths[b]).output ∈ r.langs ∧
      (∀ c ∈ (commit s).hall.liveBooths m.id, c ≠ b →
        ((commit s).hall.booths[c]).output ≠ ((commit s).hall.booths[b]).output) ∧
      ∀ c, ((commit s).hall.booths[b]).pin = some (.booth c) → c ∈ (commit s).hall.liveBooths m.id := by
  obtain ⟨r0, r, -, hr, first, last, -, open_⟩ := commit_room (builtHall_built (builtIds_nodup nodup) hm)
  have follows := first.trans last
  obtain ⟨plan, id⟩ := builtRoom_plan hm
  have settings : r.settings = (builtRoom s m).settings := congrArg (·.2.2.2.1) follows.core
  have clip : r.clip = (builtRoom s m).clip := congrArg (·.2.2.2.2.2.2.2.2.2.1) follows.core
  refine ⟨r, planOf (builtPlans s) m, hr, plan, id, rebuiltFrom_follows (rebuiltRoom_rebuiltFrom _ _ _ _) follows open_,
    fun j r' hj hl one => ?_, fun away => ?_, commit_queue nodup hm hr follows.core.symm,
    fun b hb => commit_liveBooth nodup hm follows.core.symm hb⟩
  · obtain ⟨set, lang, count, speaker, mark⟩ := rebuiltRoom_continued (sc := s.scanner) (p := planOf (builtPlans s) m)
      (ledBy_only hj hl one)
    refine ⟨settings.trans set, follows.floorLang.trans lang, clip.trans count, follows.lastSpeaker.trans speaker, ?_⟩
    rcases follows.elevated with e | e
    · exact .inr (e.trans mark)
    · exact .inl e
  · obtain ⟨set, lang, count, speaker, mark⟩ := rebuiltRoom_fresh (sc := s.scanner) (p := planOf (builtPlans s) m)
      (ledBy_none away)
    refine ⟨settings.trans set, follows.floorLang.trans lang, clip.trans count, follows.lastSpeaker.trans speaker, ?_⟩
    rcases follows.elevated with e | e
    · exact e.trans mark
    · exact e

end

section
variable {s : State}

/-- A room that a commit does not rebuild, and that has no affected segment, stays (R38). -/
theorem commit_stays {j : SegId} {r : Room} (hr : s.hall.room j = some r) (hx : (r.segs &&& s.regroup.affected) = 0)
    (hj : ∀ m ∈ builtRooms s, m.id ≠ j) : ∃ r', (commit s).hall.room j = some r' ∧ r'.core = r.core ∧
      r'.floorLang = r.floorLang ∧ r'.lastSpeaker = r.lastSpeaker ∧ r'.frozen = false := by
  have built : (builtHall s).room j = some r := by
    rw [builtHall_kept hj, hr]
    exact Option.filter_some_pos (decide_eq_true hx)
  obtain ⟨r0, r', -, hr', first, last, -, open_⟩ := commit_room built
  have follows := first.trans last
  exact ⟨r', hr', follows.core, follows.floorLang, follows.lastSpeaker, open_⟩

theorem commit_gone {j : SegId} (hx : ∀ r, s.hall.room j = some r → (r.segs &&& s.regroup.affected) ≠ 0)
    (hj : ∀ m ∈ builtRooms s, m.id ≠ j) : (commit s).hall.room j = none := by
  refine commit_room_none ?_
  rw [builtHall_kept hj]
  cases hr : s.hall.room j with
  | none => rfl
  | some r => exact Option.filter_some_neg (by simpa using hx r hr)

theorem commit_idSets (hp : s.regroup.pendingMap.Pairwise fun a b => a.id < b.id)
    (agree : s.hall.agrees s.regroup.affected s.regroup.pendingMap) :
    idSets (commit s).hall.activeMap = idSets s.regroup.pendingMap := by
  rw [commit_activeMap]
  unfold builtHall
  exact replaceRooms_activeMap hp agree fun m => (builtRoom_seat s m).1

end

end Sys2Proof.Machine
end

section
/-! From sound maps and floor records, a commit refiles the floor room by room (R40 to R42; O55). -/

namespace Sys2Proof.Machine

section
variable {h : Hall} (w : dividesSegs h.activeMap)
include w

theorem room_of_divides {i : SegId} {r : Room} (hr : h.room i = some r) :
    inSet r.segs i = true ∧ inSet r.segs r.lead = true := by
  obtain ⟨id, lead, -⟩ := w.2.1 { id := i, segs := r.segs, lead := r.lead } (mem_activeMap.2 ⟨r, hr, rfl, rfl⟩)
  exact ⟨id, lead⟩

/-- In a sound map two rooms with a common segment are one. -/
theorem eq_of_divides {i j : SegId} {r r' : Room} (hr : h.room i = some r) (hr' : h.room j = some r') {sg : SegId}
    (hs : inSet r.segs sg = true) (hs' : inSet r'.segs sg = true) : j = i :=
  congrArg MapRoom.id (divides_unique w (y := { id := j, segs := r'.segs, lead := r'.lead })
    (z := { id := i, segs := r.segs, lead := r.lead }) (mem_activeMap.2 ⟨r', hr', rfl, rfl⟩)
    (mem_activeMap.2 ⟨r, hr, rfl, rfl⟩) hs' hs)

theorem lead_of_divides {i j : SegId} {r r' : Room} (hr : h.room i = some r) (hr' : h.room j = some r')
    (e : r'.lead = r.lead) : j = i :=
  eq_of_divides w hr hr' (room_of_divides w hr).2 (e ▸ (room_of_divides w hr').2)

theorem ledBy_iff {lead j : SegId} {r : Room} : h.ledBy lead = some (j, r) ↔ h.room j = some r ∧ r.lead = lead :=
  ⟨fun e => ⟨ledBy_room e, ledBy_lead e⟩, fun ⟨hr, hl⟩ =>
    ledBy_only hr hl fun _ _ hx hxl => lead_of_divides w hr hx (hxl.trans hl.symm)⟩

theorem roomOf_iff {sg j : SegId} : h.roomOf sg = some j ↔ ∃ r, h.room j = some r ∧ inSet r.segs sg = true := by
  refine ⟨roomOf_eq_some, fun ⟨r, hr, hs⟩ => ?_⟩
  cases e : h.roomOf sg with
  | none =>
    have := List.find?_eq_none.1 e j (List.mem_finRange j)
    simp [hr, hs] at this
  | some k =>
    obtain ⟨x, hx, hxs⟩ := roomOf_eq_some e
    rw [eq_of_divides w hr hx hs hxs]

end

/-- The rooms of a sound pending map share no segment. -/
theorem builtRooms_apart {s : State} (w : dividesSegs s.regroup.pendingMap) {m m' : MapRoom} (hm : m ∈ builtRooms s)
    (hm' : m' ∈ builtRooms s) (hid : m'.id ≠ m.id) : (m'.segs &&& m.segs) = 0 := by
  by_contra c
  obtain ⟨sg, hs, hs'⟩ := and_ne_zero_iff.1 c
  exact hid (congrArg _ (divides_unique w (mem_touching.1 hm').1 (mem_touching.1 hm).1 hs hs'))

theorem openIn_of_entries {g h : Hall} (e : ∀ q, g.entry q = h.entry q) (x : SegSet) : openIn g x = openIn h x :=
  openIn_congr fun q => by simp only [Hall.filed, e]

section
variable {s : State} (maps : s.mapsOk) (floor : s.hall.floorOk)
include maps

theorem pending_nodup : (s.regroup.pendingMap.map (·.id)).Nodup := ids_nodup (maps.2.1.2.2.imp And.left)

/-- In a hall of sound maps a rebuilt room is marked as the room it continues. -/
theorem builtHall_marked {m : MapRoom} (hm : m ∈ builtRooms s) (u : UnitId) : (builtHall s).marked m.id u ↔
    ∃ j r', s.hall.room j = some r' ∧ r'.lead = m.lead ∧ r'.elevated = some u := by
  have built := builtHall_built (builtIds_nodup (pending_nodup maps)) hm
  have mark : (builtHall s).marked m.id u ↔ (builtRoom s m).elevated = some u := by
    unfold Hall.marked
    rw [built]
    simp
  rw [mark]
  cases e : s.hall.ledBy m.lead with
  | none =>
    obtain ⟨-, -, -, -, none⟩ := rebuiltRoom_fresh (sc := s.scanner) (p := planOf (builtPlans s) m) e
    have none : (builtRoom s m).elevated = Option.none := none
    rw [none]
    refine iff_of_false (by simp) ?_
    rintro ⟨j, r', hr', hl, -⟩
    rw [(ledBy_iff maps.1).2 ⟨hr', hl⟩] at e
    cases e
  | some y =>
    obtain ⟨j, r⟩ := y
    obtain ⟨-, -, -, -, same⟩ := rebuiltRoom_continued (sc := s.scanner) (p := planOf (builtPlans s) m) e
    have same : (builtRoom s m).elevated = r.elevated := same
    obtain ⟨hr, hl⟩ := (ledBy_iff maps.1).1 e
    rw [same]
    refine ⟨fun hu => ⟨j, r, hr, hl, hu⟩, ?_⟩
    rintro ⟨k, r', hr', hl', hu⟩
    cases lead_of_divides maps.1 hr hr' (hl'.trans hl.symm)
    cases hr.symm.trans hr'
    exact hu

include floor

theorem refloored_room {m : MapRoom} (hm : m ∈ builtRooms s) :
    FloorRefiled (builtHall s) m.id (builtRoom s m) (refloored s) := by
  have nodup := builtIds_nodup (pending_nodup maps)
  unfold refloored
  refine refileAll_refiled nodup (mem_builtIds.2 ⟨m, hm, rfl⟩) (builtHall_built nodup hm) (fun k hk hne x hx => ?_)
    (builtHall_requests s ▸ floor.1)
  obtain ⟨m', hm', rfl⟩ := mem_builtIds.1 hk
  cases (builtHall_built nodup hm').symm.trans hx
  rw [(builtRoom_seat s m').1, (builtRoom_seat s m).1]
  exact builtRooms_apart maps.2.1 hm hm' hne

/-- The floor of a rebuilt room, as the hall before the unfreezing holds it. -/
theorem toldHall_refiled {m : MapRoom} (hm : m ∈ builtRooms s) : ∃ r, (toldHall s).room m.id = some r ∧
    (let waiting := s.hall.queueIn m.segs
     let speakers := openIn s.hall m.segs
     let beyond := speakers.length - r.settings.openLimit
     (∀ q ∈ speakers.take beyond, (toldHall s).entry q = (s.hall.entry q).map Entry.closed)
     ∧ (∀ q ∈ speakers.drop beyond, (toldHall s).entry q = s.hall.entry q)
     ∧ (∀ y ∈ waiting.take r.settings.queueLimit,
         { y with score := min y.score r.settings.max, guard := min y.guard r.settings.guard } ∈ (toldHall s).requests)
     ∧ (∀ y ∈ waiting.drop r.settings.queueLimit, (toldHall s).requestOf y.unit = none
         ∧ ((s.hall.unit y.unit).present = true → ((toldHall s).addr y.unit).floorOrder = some .deny))
     ∧ ∀ u, r.elevated = some u ↔
         (∃ j r', s.hall.room j = some r' ∧ r'.lead = m.lead ∧ r'.elevated = some u)
         ∧ ∃ y ∈ waiting.take r.settings.queueLimit, y.unit = u) := by
  obtain ⟨closed, open_, waits, denied, marked⟩ := refloored_room maps floor hm
  obtain ⟨r, -, hr, -, first, -⟩ := commit_room (builtHall_built (builtIds_nodup (pending_nodup maps)) hm)
  have settings : (builtRoom s m).settings = r.settings := (congrArg (·.2.2.2.1) first.core).symm
  have opens : openIn (builtHall s) m.segs = openIn s.hall m.segs := openIn_of_entries (builtHall_entry s) _
  simp only [trimRefs, (builtRoom_seat s m).1, settings, opens, builtHall_queueIn, builtHall_entry, builtHall_unit,
    builtHall_marked maps hm] at closed open_ waits denied marked
  have marks (u : UnitId) : (refloored s).marked m.id u ↔ r.elevated = some u := by
    have room := (toldHall_opened s).room m.id
    rw [hr, (reboothed_boothed s).room, eq_comm, Option.map_eq_some_iff] at room
    obtain ⟨a, ha, rfl⟩ := room
    unfold Hall.marked
    rw [ha]
    simp
  have asks (u : UnitId) : (toldHall s).requestOf u = (refloored s).requestOf u := by
    unfold Hall.requestOf
    rw [toldHall_requests]
  refine ⟨r, hr, fun q hq => ?_, fun q hq => ?_, fun y hy => ?_, fun y hy => ?_, fun u => ?_⟩
  · rw [toldHall_entry, closed q hq]
  · rw [toldHall_entry, open_ q (List.mem_of_mem_drop hq)]
    exact fun c => List.disjoint_take_drop openIn_nodup le_rfl c hq
  · rw [toldHall_requests, ← settings]
    exact waits y (settings ▸ hy)
  · rw [asks, toldHall_addr]
    exact denied y hy
  · rw [← marks, marked]

/-- A commit from sound maps and floor records refiles the floor (R40 to R42). -/
theorem commit_refiled : s.refiled (toldHall s) := by
  have refiling := refloored_refiling s
  have nodup := builtIds_nodup (pending_nodup maps)
  have asks (u : UnitId) : (toldHall s).requestOf u = (refloored s).requestOf u := by
    unfold Hall.requestOf
    rw [toldHall_requests]
  have rooms {k : SegId} (hk : k ∈ builtIds s) {x : Room} (hx : (builtHall s).room k = some x) :
      ∃ m ∈ builtRooms s, x.segs = m.segs := by
    obtain ⟨m, hm, rfl⟩ := mem_builtIds.1 hk
    cases (builtHall_built nodup hm).symm.trans hx
    exact ⟨m, hm, (builtRoom_seat s m).1⟩
  refine ⟨fun m hm => toldHall_refiled maps floor hm, fun q hq => ?_, fun q e he out => ?_, fun u hu => ?_,
    fun y hy out => ?_, fun u hu => ?_, ?_, ?_⟩
  · rw [toldHall_entry]
    rcases refiling.entry q with same | ⟨e, he, -⟩
    · rw [same, builtHall_entry, hq]
    · rw [builtHall_entry, hq] at he
      cases he
  · rw [toldHall_entry]
    have kept : (builtHall s).entry q = some e := (builtHall_entry s q).trans he
    rcases refiling.entry q with same | ⟨x, hx, air, chair, -⟩
    · exact same.trans kept
    · cases kept.symm.trans hx
      rcases out with c | c | out
      · rw [c] at chair
        cases chair
      · rw [c] at air
        cases air
      · unfold refloored
        refine refileAll_entry kept fun k hk x hx => ?_
        obtain ⟨m, hm, segs⟩ := rooms hk hx
        rw [segs]
        exact out m hm
  · rw [asks, toldHall_addr, ← builtHall_addr]
    rw [← builtHall_requestOf] at hu
    exact ⟨refiling.fewer.requestless hu, refiling.idle u hu⟩
  · rw [toldHall_requests]
    unfold refloored
    refine refileAll_request (builtHall_requests s ▸ hy) fun k hk x hx => ?_
    obtain ⟨m, hm, segs⟩ := rooms hk hx
    rw [segs]
    simp only [Hall.seatedIn, builtHall_unit]
    exact out m hm
  · rw [asks] at hu
    obtain ⟨y, hy⟩ := Option.ne_none_iff_exists'.1 hu
    have unit : y.unit = u := by simpa using List.find?_some hy
    obtain ⟨seat, order⟩ := refiling.asked y (List.mem_of_find?_eq_some hy)
    rw [unit, builtHall_unit, builtHall_addr] at *
    rw [toldHall_unit, toldHall_addr]
    exact ⟨seat, order⟩
  · rw [(toldHall_opened s).rest, (reboothed_boothed s).rest]
    exact refiling.seq.trans (by rw [builtHall_rest])
  · rw [(toldHall_opened s).rest, (reboothed_boothed s).rest]
    exact refiling.rotation.trans (by rw [builtHall_rest])

end

end Sys2Proof.Machine
end

section
/-! From sound maps, a commit reassigns the booths of each rebuilt room (R134, R135, R138; O55). -/

namespace Sys2Proof.Machine

/-! ## The booth that keeps a language -/

/-- A booth served the room `old`. -/
def servedIn (before : Hall) (old : Option SegId) (c : BoothId) : Prop :=
  (old.isSome && decide (before.boothRoom c = old)) = true

/-- Of a group, one booth alone served the room `old`. -/
def soleOf (before : Hall) (old : Option SegId) (group : List BoothId) (c : BoothId) : Prop :=
  c ∈ group ∧ servedIn before old c ∧ ∀ d ∈ group, servedIn before old d → d = c

theorem head_iff {group : List BoothId} (sorted : group.Pairwise (· < ·)) {b : BoothId} (hb : b ∈ group) :
    group.head? = some b ↔ ∀ c ∈ group, b ≤ c := by
  cases group with
  | nil => cases hb
  | cons a l =>
    obtain ⟨least, -⟩ := List.pairwise_cons.1 sorted
    rw [List.head?_cons, Option.some_inj]
    constructor
    · rintro rfl c hc
      rcases List.mem_cons.1 hc with rfl | hc
      · exact le_rfl
      · exact (least c hc).le
    · intro h
      rcases List.mem_cons.1 hb with rfl | hb
      · rfl
      · exact absurd (h a (.head l)) (not_le.2 (least b hb))

/-- The keeper is the one that served the room, or, where not exactly one did, the lowest (R134, step 2). -/
theorem keeper_iff {before : Hall} {old : Option SegId} {group : List BoothId} (sorted : group.Pairwise (· < ·))
    {b : BoothId} (hb : b ∈ group) : keeper before old group = some b ↔
      soleOf before old group b ∨ ((∀ c, ¬soleOf before old group c) ∧ ∀ c ∈ group, b ≤ c) := by
  have mem (c : BoothId) : c ∈ group.filter (fun c => old.isSome && decide (before.boothRoom c = old)) ↔
      c ∈ group ∧ servedIn before old c := List.mem_filter
  have nodup : (group.filter fun c => old.isSome && decide (before.boothRoom c = old)).Nodup :=
    (sorted.imp ne_of_lt).filter _
  unfold keeper
  split
  · next x hx =>
    rw [hx] at mem
    have only {c : BoothId} : c ∈ group ∧ servedIn before old c ↔ c = x := (mem c).symm.trans List.mem_singleton
    have sole : soleOf before old group x :=
      ⟨(only.2 rfl).1, (only.2 rfl).2, fun d hd hs => only.1 ⟨hd, hs⟩⟩
    rw [Option.some_inj]
    constructor
    · rintro rfl
      exact .inl sole
    · rintro (h | ⟨h, -⟩)
      · exact (only.1 ⟨h.1, h.2.1⟩).symm
      · exact absurd sole (h x)
  · next hx =>
    have none (c : BoothId) : ¬soleOf before old group c := by
      rintro ⟨hc, hs, one⟩
      refine hx c (List.perm_singleton.1 ((List.perm_ext_iff_of_nodup nodup (List.nodup_singleton c)).2 fun d => ?_))
      rw [mem, List.mem_singleton]
      exact ⟨fun hd => one d hd.1 hd.2, fun e => e ▸ ⟨hc, hs⟩⟩
    rw [head_iff sorted hb]
    exact ⟨fun h => .inr ⟨none, h⟩, fun h => h.elim (fun c => absurd c (none b)) And.right⟩

/-! ## The booths of a rebuilt room -/

section
variable (s : State)

/-- Booth `b` was LIVE, with its home in the room `m` of the pending map. -/
def State.liveAt (m : MapRoom) (b : BoothId) : Prop :=
  (s.hall.booths[b]).state = .live ∧ (s.hall.booths[b]).defined = true ∧
    ∃ sg, (s.hall.booths[b]).home = some sg ∧ inSet m.segs sg = true

/-- Booth `c` is LIVE in the room `m` with the output language of `b`. -/
def State.rivalAt (m : MapRoom) (b c : BoothId) : Prop :=
  s.liveAt m c ∧ (s.hall.booths[c]).output = (s.hall.booths[b]).output

/-- Booth `b` served the room that `m` continues. -/
def State.servedAt (m : MapRoom) (b : BoothId) : Prop :=
  ∃ j r sg, s.hall.room j = some r ∧ r.lead = m.lead ∧ (s.hall.booths[b]).home = some sg ∧ inSet r.segs sg = true

/-- Booth `c` alone of the rivals of `b` served the room that `m` continues. -/
def State.soleAt (m : MapRoom) (b c : BoothId) : Prop :=
  s.rivalAt m b c ∧ s.servedAt m c ∧ ∀ d, s.rivalAt m b d → s.servedAt m d → d = c

/-- Booth `b` stays LIVE in the rebuilt room `m` (R134). -/
def State.staysAt (t : State) (m : MapRoom) (b : BoothId) : Prop :=
  (∃ r, t.hall.room m.id = some r ∧ (s.hall.booths[b]).output ∈ r.langs) ∧
    (s.soleAt m b b ∨ ((∀ c, ¬s.soleAt m b c) ∧ ∀ c, s.rivalAt m b c → b ≤ c))

theorem refloored_booths : (refloored s).booths = s.hall.booths := by
  rw [(refloored_refiling s).floored.booths, builtHall_booths]

variable {s} (maps : s.mapsOk) (waits : s.regroup.state = .commitWait)
include maps waits

theorem builtHall_divides : dividesSegs (builtHall s).activeMap := by
  rw [← commit_activeMap]
  exact (commit_mapsOk s waits maps).1

variable {m : MapRoom} (hm : m ∈ builtRooms s)
include hm

/-- The LIVE booths of a rebuilt room are those with their home in it. -/
theorem mem_refloored_liveBooths {b : BoothId} : b ∈ (refloored s).liveBooths m.id ↔ s.liveAt m b := by
  have divides := builtHall_divides maps waits
  have built := builtHall_built (builtIds_nodup (pending_nodup maps)) hm
  have room (sg : SegId) : (refloored s).roomOf sg = some m.id ↔ inSet m.segs sg = true := by
    rw [(refloored_sameSegs s).roomOf, roomOf_iff divides, built]
    simp only [Option.some.injEq, exists_eq_left', (builtRoom_seat s m).1]
  rw [mem_liveBooths, Hall.boothRoom, refloored_booths]
  refine and_congr_right fun _ => ?_
  cases (s.hall.booths[b]).defined with
  | false => simp
  | true =>
    simp only [if_true, true_and, Option.bind_eq_some_iff, room]

omit waits hm in
theorem servedIn_iff {b : BoothId} (hb : s.liveAt m b) :
    servedIn s.hall ((s.hall.ledBy m.lead).map (·.1)) b ↔ s.servedAt m b := by
  obtain ⟨-, defined, sg, home, -⟩ := hb
  have room : s.hall.boothRoom b = s.hall.roomOf sg := by
    unfold Hall.boothRoom
    rw [if_pos defined, home]
    rfl
  unfold servedIn State.servedAt
  rw [room]
  simp only [home, Bool.and_eq_true, decide_eq_true_eq]
  constructor
  · rintro ⟨some, e⟩
    obtain ⟨j, hj⟩ := Option.isSome_iff_exists.1 some
    obtain ⟨⟨j', r⟩, hled, rfl⟩ := Option.map_eq_some_iff.1 hj
    obtain ⟨hr, hl⟩ := (ledBy_iff maps.1).1 hled
    rw [hj] at e
    obtain ⟨r', hr', hs⟩ := (roomOf_iff maps.1).1 e
    cases hr.symm.trans hr'
    exact ⟨j', r, sg, hr, hl, rfl, hs⟩
  · rintro ⟨j, r, sg', hr, hl, e, hs⟩
    cases e
    rw [(ledBy_iff maps.1).2 ⟨hr, hl⟩]
    exact ⟨rfl, (roomOf_iff maps.1).2 ⟨r, hr, hs⟩⟩

/-- A LIVE booth stays where the commit does not displace it. -/
theorem staysAt_iff {b : BoothId} (hb : s.liveAt m b) :
    s.staysAt (commit s) m b ↔ b ∉ displacedBooths s.hall (refloored s) m.id := by
  have nodup := pending_nodup maps
  obtain ⟨a, ha, first⟩ := refloored_built nodup hm
  obtain ⟨r0, r, -, hr, first', last, -⟩ := commit_room (builtHall_built (builtIds_nodup nodup) hm)
  have langs : r.langs = a.langs :=
    congrArg (·.2.2.2.2.2.2.1) ((first'.trans last).core.trans first.core.symm)
  have lead : a.lead = m.lead := (congrArg (·.2.1) first.core).trans (builtRoom_seat s m).2
  have live := mem_refloored_liveBooths maps waits hm (b := b)
  let group := ((refloored s).liveBooths m.id).filter fun c => ((refloored s).booths[c]).output = ((refloored s).booths[b]).output
  have rivals (c : BoothId) : c ∈ group ↔ s.rivalAt m b c := by
    rw [List.mem_filter, mem_refloored_liveBooths maps waits hm, decide_eq_true_eq, refloored_booths]
    rfl
  have sorted : group.Pairwise (· < ·) := ((List.pairwise_lt_finRange 12).filter _).filter _
  have sole (c : BoothId) : soleOf s.hall ((s.hall.ledBy m.lead).map (·.1)) group c ↔ s.soleAt m b c := by
    unfold soleOf State.soleAt
    simp only [rivals]
    refine and_congr_right fun hc => and_congr (servedIn_iff maps hc.1) ?_
    refine forall_congr' fun d => forall_congr' fun hd => ?_
    rw [servedIn_iff maps hd.1]
  have kept : displacedAt s.hall (refloored s) m.id a b = false ↔ s.staysAt (commit s) m b := by
    simp only [displacedAt, Bool.or_eq_false_iff, decide_eq_false_iff_not, not_not, Bool.not_eq_false',
      List.contains_iff_mem, lead]
    rw [and_comm]
    refine and_congr ?_ ?_
    · rw [hr, refloored_booths]
      simp only [Option.some.injEq, exists_eq_left', langs]
    · rw [keeper_iff sorted ((rivals b).2 ⟨hb, rfl⟩)]
      simp only [sole, rivals]
  rw [← kept, mem_displacedBooths, ha]
  simp only [Option.some.injEq, exists_eq_left', live, hb, true_and, Bool.not_eq_true]

/-- The LIVE booths that stay are those left LIVE. -/
theorem mem_reboothed_settled {b : BoothId} :
    b ∈ (settledBooths s.hall (refloored s) (builtIds s)).liveBooths m.id ↔ s.liveAt m b ∧ s.staysAt (commit s) m b := by
  rw [mem_settled_liveBooths (builtIds_nodup (pending_nodup maps)) (mem_builtIds.2 ⟨m, hm, rfl⟩),
    mem_refloored_liveBooths maps waits hm]
  exact and_congr_right fun hb => (staysAt_iff maps waits hm hb).symm

theorem reboothed_stays {b : BoothId} (hb : s.liveAt m b) (stays : s.staysAt (commit s) m b) :
    (pinnedBooths s.hall (refloored s) (builtIds s)).booths[b] =
      if b ∈ lostBooths (settledBooths s.hall (refloored s) (builtIds s)) m.id then (s.hall.booths[b]).unpinned
      else s.hall.booths[b] := by
  have nodup := builtIds_nodup (pending_nodup maps)
  have id := mem_builtIds.2 ⟨m, hm, rfl⟩
  have room := (mem_liveBooths.1 ((mem_refloored_liveBooths maps waits hm).2 hb)).2
  rw [pinnedBooths_booth nodup id room, settledBooths_booth nodup id room,
    if_neg ((staysAt_iff maps waits hm hb).1 stays), refloored_booths]

theorem mem_lost {b : BoothId} (hb : s.liveAt m b) (stays : s.staysAt (commit s) m b) :
    b ∈ lostBooths (settledBooths s.hall (refloored s) (builtIds s)) m.id ↔
      ∃ c, (s.hall.booths[b]).pin = some (.booth c) ∧ ¬(s.liveAt m c ∧ s.staysAt (commit s) m c) := by
  have room := (mem_liveBooths.1 ((mem_refloored_liveBooths maps waits hm).2 hb)).2
  have same : (settledBooths s.hall (refloored s) (builtIds s)).booths[b] = s.hall.booths[b] := by
    rw [settledBooths_booth (builtIds_nodup (pending_nodup maps)) (mem_builtIds.2 ⟨m, hm, rfl⟩) room,
      if_neg ((staysAt_iff maps waits hm hb).1 stays), refloored_booths]
  rw [mem_lostBooths, same]
  simp only [mem_reboothed_settled maps waits hm, hb, stays, and_self, true_and]

theorem reboothed_displaced {b : BoothId} (hb : s.liveAt m b) (displaced : ¬s.staysAt (commit s) m b) :
    (pinnedBooths s.hall (refloored s) (builtIds s)).booths[b] = standBy true s.hall.booths[b] := by
  have nodup := builtIds_nodup (pending_nodup maps)
  have id := mem_builtIds.2 ⟨m, hm, rfl⟩
  have room := (mem_liveBooths.1 ((mem_refloored_liveBooths maps waits hm).2 hb)).2
  have out : b ∈ displacedBooths s.hall (refloored s) m.id := by
    by_contra c
    exact displaced ((staysAt_iff maps waits hm hb).2 c)
  rw [pinnedBooths_booth nodup id room, if_neg, settledBooths_booth nodup id room, if_pos out, refloored_booths]
  intro c
  exact displaced ((mem_reboothed_settled maps waits hm).1 (mem_lostBooths.1 c).1).2

/-- Relay is re-evaluated in a rebuilt room as in the answered hall. -/
theorem commit_relay {b : BoothId} (hb : s.liveAt m b) : (commit s).hall.booths[b] =
    (reevaluate { (commit s).hall with booths := (pinnedBooths s.hall (refloored s) (builtIds s)).booths } m.id).booths[b] := by
  have nodup := pending_nodup maps
  have pinned := pinnedBooths_boothed s.hall (refloored s) (builtIds s)
  have room := (mem_liveBooths.1 ((mem_refloored_liveBooths maps waits hm).2 hb)).2
  have booth : (reboothed s).booths[b] =
      (reevaluate (pinnedBooths s.hall (refloored s) (builtIds s)) m.id).booths[b] := by
    unfold reboothed
    exact commitBooths_booth (builtIds_nodup nodup) (mem_builtIds.2 ⟨m, hm, rfl⟩) room
  rw [commit_booths, booth]
  have segs : SameSegs (pinnedBooths s.hall (refloored s) (builtIds s))
      { (commit s).hall with booths := (pinnedBooths s.hall (refloored s) (builtIds s)).booths } := fun i =>
    ((reboothed_boothed s).sameSegs.trans (commit_sameSegs s) i).trans (pinned.sameSegs i).symm
  refine (reevaluate_congr ?_ (segs.boothRoom rfl) (fun c _ => rfl) ((pinned.boothRoom b).trans room)).symm
  obtain ⟨a, ha, first⟩ := refloored_built nodup hm
  obtain ⟨r0, r, -, hr, first', last, -⟩ := commit_room (builtHall_built (builtIds_nodup nodup) hm)
  rw [pinned.room, ha]
  show ((commit s).hall.room m.id).map _ = _
  rw [hr, Option.map_some, Option.map_some, (first'.trans last).floorLang, first.floorLang]

end

section
variable {s : State}

theorem signalled_of_mute {h h' g g' : Hall} {f : Flag} {a : SegSet → Prop} (before : Mute f h h')
    (w : h'.signalled g f a) (after : Mute f g g') (core : ∀ p : PortId, (g'.ports[p]).core = (g.ports[p]).core) :
    h.signalled g' f a := by
  intro p
  rw [after p, w p, before p]
  simp only [portTakes_of_core (core p), mask_of_core (core p)]

/-- A commit from sound maps reassigns the booths (R134, R135, R138). -/
theorem commit_reassigned (maps : s.mapsOk) (waits : s.regroup.state = .commitWait) : s.reassigned (commit s) := by
  have nodup := builtIds_nodup (pending_nodup maps)
  refine ⟨⟨(pinnedBooths s.hall (refloored s) (builtIds s)).booths, fun m hm b hb => ⟨fun stays => ⟨fun lost => ?_,
    fun kept => ?_⟩, fun displaced => ?_, commit_relay maps waits hm hb⟩, fun b hb => ?_⟩, ?_⟩
  · rw [reboothed_stays maps waits hm hb stays, if_pos ((mem_lost maps waits hm hb stays).2 lost)]
    rfl
  · rw [reboothed_stays maps waits hm hb stays, if_neg]
    intro c
    obtain ⟨t, ht, out⟩ := (mem_lost maps waits hm hb stays).1 c
    exact out (kept t ht)
  · exact reboothed_displaced maps waits hm hb displaced
  · have off := commitBooths_off (before := s.hall) (h := refloored s) (l := builtIds s) (b := b) fun i hi c => by
      obtain ⟨m, hm, rfl⟩ := mem_builtIds.1 hi
      exact hb m hm ((mem_refloored_liveBooths maps waits hm).1 c)
    rw [refloored_booths] at off
    rw [commit_booths]
    unfold reboothed
    exact off
  · have told := commitBooths_told (before := s.hall) (h := refloored s) nodup
    have before : Mute .booth s.hall (refloored s) := .trans (.of_ports (builtHall_ports s)) (refloored_mute s)
    have after : Mute .booth (reboothed s) (commit s).hall := by
      rw [commit_hall]
      exact (toldHall_mute s).trans (unfreeze_mute _ _)
    have core (p : PortId) : ((commit s).hall.ports[p]).core = ((reboothed s).ports[p]).core :=
      (core_port (commit_onward s).core p).trans ((toldHall_opened s).ports p)
    have all : (refloored s).signalled (reboothed s) .booth fun x => ∃ i ∈ builtIds s, x = (refloored s).segsOf i ∧
        ∃ b ∈ (refloored s).liveBooths i, (commit s).hall.booths[b] ≠ s.hall.booths[b] := by
      rw [commit_booths, ← refloored_booths]
      unfold reboothed
      exact told
    refine signalled_congr (signalled_of_mute before all after core) fun x => ?_
    have segs {m : MapRoom} (hm : m ∈ builtRooms s) : (refloored s).segsOf m.id = m.segs := by
      rw [(refloored_sameSegs s).segsOf, segsOf_room (builtHall_built nodup hm), (builtRoom_seat s m).1]
    constructor
    · rintro ⟨i, hi, rfl, b, hb, moved⟩
      obtain ⟨m, hm, rfl⟩ := mem_builtIds.1 hi
      exact ⟨m, hm, segs hm, b, (mem_refloored_liveBooths maps waits hm).1 hb, moved⟩
    · rintro ⟨m, hm, rfl, b, hb, moved⟩
      exact ⟨m.id, mem_builtIds.2 ⟨m, hm, rfl⟩, (segs hm).symm, b, (mem_refloored_liveBooths maps waits hm).2 hb, moved⟩

end

end Sys2Proof.Machine
end

section
/-! A commit is made as the statement says (R38 to R45; O55). -/

namespace Sys2Proof.Machine

section
variable (s : State)

theorem commit_before {i : SegId} {r : Room} (hr : (commit s).hall.room i = some r) : ∃ r0, (toldHall s).room i = some r0 ∧
    r0.core = r.core ∧ r0.floorLang = r.floorLang ∧ r0.lastSpeaker = r.lastSpeaker ∧ r0.frozen = false := by
  cases built : (builtHall s).room i with
  | none =>
    rw [commit_room_none built] at hr
    cases hr
  | some x =>
    obtain ⟨r0, r', hr0, hr', -, last, open_, -⟩ := commit_room built
    cases hr.symm.trans hr'
    exact ⟨r0, hr0, last.core.symm, last.floorLang.symm, last.lastSpeaker.symm, open_⟩

theorem commit_committed (waits : s.regroup.state = .commitWait) : s.committed (commit s) := by
  obtain ⟨scanner, trunks, mix, pending⟩ := commit_rest s
  refine ⟨scanner, trunks, mix, pending, ?_, commit_unit_core s, commit_radiators s, commit_port_core s,
    fun q e => commit_entry s, fun nodup => ⟨fun m hm => commit_rebuilt nodup hm, fun j r' hr hx hj => commit_stays hr hx hj,
      fun j hx hj => commit_gone hx hj⟩, fun hp agree => commit_idSets hp agree, ?_, fun nodup m hm => commit_tells nodup hm,
    fun maps floor => ⟨commit_reassigned maps waits, toldHall s, commit_hall s, commit_refiled maps floor,
      (commit_floored s).booths.symm, fun i r => commit_before s⟩⟩
  · rw [commit_regroup, toldHall_activeMap]
    rfl
  · exact (commit_onward s).told (toldHall_told s)

end

end Sys2Proof.Machine
end

section
/-! MIX_BLOCK_START settles (O55): the parts of a block start, one after the other, and what they leave together. -/

namespace Sys2Proof.Machine

/-! ## What the end of the block before leaves -/

/-- What the end of a block keeps of a room. -/
def Room.lasting (r : Room) : SegSet × SegId × BitVec 16 × Settings × List Nat × Staging :=
  (r.segs, r.lead, r.gen, r.settings, r.langs, r.staging)

/-- From `s` to `t` ramps and a block have ended: of the regroup the state alone may have changed, from DRAIN to
COMMIT-WAIT, and the rooms last. -/
structure Lasting (s t : State) : Prop where
  record : t.regroup = { s.regroup with state := t.regroup.state }
  state  : t.regroup.state = s.regroup.state ∨ (s.regroup.state = .drain ∧ t.regroup.state = .commitWait)
  rooms  : ∀ i, (t.hall.room i).map Room.lasting = (s.hall.room i).map Room.lasting

theorem lasting_of_core {g h : Hall} (e : g.core = h.core) (i : SegId) :
    (g.room i).map Room.lasting = (h.room i).map Room.lasting := by
  have := congrArg (Option.map fun c => (c.1, c.2.1, c.2.2.1, c.2.2.2.1, c.2.2.2.2.2.2.1, c.2.2.2.2.2.2.2.2.2.2.2))
    (core_room e i)
  rw [Option.map_map, Option.map_map] at this
  exact this

namespace Lasting

theorem refl (s : State) : Lasting s s := ⟨rfl, .inl rfl, fun _ => rfl⟩

theorem trans {s t u : State} (a : Lasting s t) (b : Lasting t u) : Lasting s u := by
  refine ⟨by rw [b.record, a.record], ?_, fun i => (b.rooms i).trans (a.rooms i)⟩
  rcases b.state with e | ⟨e, e'⟩
  · rw [e]
    exact a.state
  · rcases a.state with f | ⟨-, f⟩
    · exact .inr ⟨f.symm.trans e, e'⟩
    · rw [f] at e
      cases e

theorem ofHall {s : State} {h : Hall} (e : h.core = s.hall.core) : Lasting s (s.withHall h) :=
  ⟨rfl, .inl rfl, lasting_of_core e⟩

end Lasting

section
variable (s : State)

theorem drainTest_lasting : Lasting s (drainTest s) := by
  rw [drainTest_eq]
  refine ⟨rfl, ?_, fun _ => rfl⟩
  show (if _ then _ else _) = _ ∨ _
  split
  · next c => exact .inr ⟨c.1, rfl⟩
  · exact .inl rfl

theorem endRamp_lasting (r : SlotRef) (e : Entry) (rp : Ramp) : Lasting s (endRamp s r e rp) := by
  unfold endRamp
  simp only []
  repeat' split
  · exact .ofHall rfl
  · exact .ofHall rfl
  · exact .ofHall (by simp)
  · refine .trans (t := ({ s with mix := s.mix.entryLeft r e.unit } : State).floorHall _) ?_ (drainTest_lasting _)
    exact ⟨rfl, .inl rfl, lasting_of_core (h := s.hall) ((idleSweep_core _).trans (closingDone_core _ _ _))⟩
  · exact .ofHall rfl

theorem endIfMixed_lasting (r : SlotRef) : Lasting s (endIfMixed s r) := by
  unfold endIfMixed
  repeat' split
  · exact endRamp_lasting s _ _ _
  all_goals exact .refl s

theorem endBlock_lasting : Lasting s (endBlock s) := by
  refine ⟨rfl, .inl rfl, fun i => ?_⟩
  show (Hall.room (List.foldl clipRoom s.hall _) i).map _ = _
  have nodup : (allSegIds.filter fun i => s.mix.clipped[i]).Nodup := (List.nodup_finRange 8).filter _
  rw [clipRooms_room nodup, Option.map_map]
  congr 1
  funext r
  rw [Function.comp_apply]
  split <;> rfl

theorem settleBlock_lasting : Lasting s (settleBlock s) := by
  rw [settleBlock_eq]
  have ends : Lasting s (allSlots.foldl endIfMixed s) :=
    foldl_keeps (P := Lasting s) (fun _ r w => w.trans (endIfMixed_lasting _ r)) allSlots s (.refl s)
  generalize allSlots.foldl endIfMixed s = t at ends ⊢
  split
  · exact ends.trans (endBlock_lasting t)
  · exact ends

/-- Where no ramp's end is owed, the regroup stays. -/
theorem settleBlock_regroup (none : ∀ r e, s.hall.entry r = some e → ¬e.owesEnd) :
    (settleBlock s).regroup = s.regroup := by
  have still : allSlots.foldl endIfMixed s = s := foldl_fixed (fun r => endIfMixed_idle s (none r)) _
  rw [settleBlock_eq, still]
  split <;> rfl

theorem settleBlock_reinit (p : PortId) :
    ((settleBlock s).hall.ports[p]).reinitPending = (s.hall.ports[p]).reinitPending := by
  have core := (settleBlock_ended s).ports p
  generalize settleBlock s = t at core ⊢
  exact congrArg (·.2.2.2.1) core

/-! ## REINIT or the commit -/

theorem applyPending_reinit (h : ∃ p : PortId, (s.hall.ports[p]).reinitPending = true) : applyPending s = reinitApply s := by
  obtain ⟨p, hp⟩ := h
  unfold applyPending
  rw [if_pos (List.any_eq_true.2 ⟨p, List.mem_finRange p, hp⟩)]

theorem applyPending_none (h : ∀ p : PortId, (s.hall.ports[p]).reinitPending = false) :
    applyPending s = if s.regroup.state = .commitWait then commit s else s := by
  unfold applyPending
  rw [if_neg]
  intro c
  obtain ⟨p, -, hp⟩ := List.any_eq_true.1 c
  rw [h p] at hp
  cases hp

theorem applyPending_rest : (applyPending s).scanner = s.scanner ∧ (applyPending s).trunks = s.trunks ∧
    (applyPending s).mix = s.mix ∧ (applyPending s).pending = s.pending ∧
    ∀ p : PortId, ((applyPending s).hall.ports[p]).reinitPending = false := by
  by_cases h : ∃ p : PortId, (s.hall.ports[p]).reinitPending = true
  · obtain ⟨scanner, trunks, mix, pending, -⟩ := reinitApply_rest s
    rw [applyPending_reinit s h]
    refine ⟨scanner, trunks, mix, pending, fun p => ?_⟩
    have core := (core_port (reinitApply_raised s).1.core p).trans (reinitHall_port_core s p)
    exact congrArg (·.2.2.2.1) core
  · have none : ∀ p : PortId, (s.hall.ports[p]).reinitPending = false := fun p => by
      simpa using fun c => h ⟨p, c⟩
    rw [applyPending_none s none]
    split
    · obtain ⟨scanner, trunks, mix, pending⟩ := commit_rest s
      exact ⟨scanner, trunks, mix, pending, fun p => (congrArg (·.2.2.2.1) (commit_port_core s p)).trans (none p)⟩
    · exact ⟨rfl, rfl, rfl, rfl, none⟩

end

/-! ## The latched rooms are those of the records -/

/-- An entry but for its ramp. -/
def Entry.unramped (e : Entry) : Entry := { e with ramp := none }

theorem Entry.latched_unramped (e : Entry) (target len : Nat) : (e.latched target len).unramped = e.unramped := by
  unfold Entry.latched
  simp only []
  repeat' split
  all_goals rfl

theorem insertBy_map {α β : Type} {f : α → β} {lt : α → α → Bool} {lt' : β → β → Bool}
    (h : ∀ a b, lt' (f a) (f b) = lt a b) (x : α) (l : List α) :
    (insertBy lt x l).map f = insertBy lt' (f x) (l.map f) := by
  induction l with
  | nil => rfl
  | cons y l ih =>
    simp only [insertBy, List.map_cons, h]
    split
    · rw [List.map_cons, ih]
    · rfl

theorem sortBy_map {α β : Type} {f : α → β} {lt : α → α → Bool} {lt' : β → β → Bool}
    (h : ∀ a b, lt' (f a) (f b) = lt a b) (l : List α) : (sortBy lt l).map f = sortBy lt' (l.map f) := by
  induction l with
  | nil => rfl
  | cons x l ih => rw [sortBy, insertBy_map h, ih]; rfl

section
variable {g h : Hall}

/-- An entry with the older grant stamp comes first (R74). -/
def grantedBefore (a b : SlotRef × Entry) : Bool := older a.2.grantStamp b.2.grantStamp

/-- The speaking lists agree, but for ramps, where the slots do. -/
theorem entriesIn_unramped (e : ∀ q, (g.entry q).map Entry.unramped = (h.entry q).map Entry.unramped) (x : SegSet) :
    (g.entriesIn x).map (fun y => (y.1, y.2.unramped)) = (h.entriesIn x).map fun y => (y.1, y.2.unramped) := by
  have filed (k : Hall) (q : SlotRef) : (k.filed x q).map (fun y => (y.1, y.2.unramped)) =
      ((k.entry q).map Entry.unramped).bind fun e => if inSet x e.seg then some (q, e) else none := by
    unfold Hall.filed
    cases k.entry q with
    | none => rfl
    | some e =>
      simp only [Option.map_some, Option.bind_some]
      show Option.map _ (if inSet x e.seg then _ else _) = if inSet x e.seg then _ else _
      split <;> rfl
  have all (k : Hall) : (k.entriesIn x).map (fun y => (y.1, y.2.unramped)) =
      sortBy grantedBefore (allSlots.filterMap fun q =>
        ((k.entry q).map Entry.unramped).bind fun e => if inSet x e.seg then some (q, e) else none) := by
    have sorted : k.entriesIn x = sortBy grantedBefore (allSlots.filterMap (k.filed x)) := rfl
    have map := sortBy_map (f := fun y : SlotRef × Entry => (y.1, y.2.unramped)) (lt := grantedBefore)
      (lt' := grantedBefore) (fun _ _ => rfl) (allSlots.filterMap (k.filed x))
    rw [sorted, map, List.map_filterMap]
    exact congrArg _ (List.filterMap_congr fun q _ => filed k q)
  rw [all, all]
  simp only [e]

end

section
variable (s : State)

theorem latch_unramped (q : SlotRef) :
    ((latch s).hall.entry q).map Entry.unramped = (s.hall.entry q).map Entry.unramped := by
  rw [latch_entry, Option.map_map]
  congr 1
  funext e
  rw [Function.comp_apply]
  repeat' split
  · rfl
  · exact Entry.latched_unramped _ _ _
  · rfl

/-- The ramps that start change nothing that is latched of a room. -/
theorem latchRoom_latch (i : SegId) (r : Room) : latchRoom (latch s).hall i r = latchRoom s.hall i r := by
  have hall := startAll_hall (latchedRooms s.hall) s.hall
  rw [← latch_hall] at hall
  have units : (latch s).hall.units = s.hall.units := by rw [hall]
  have segs : (latch s).hall.segsOf i = s.hall.segsOf i := by rw [hall]; rfl
  have lists := entriesIn_unramped (latch_unramped s) (s.hall.segsOf i)
  have entries (k : Hall) (e : k.units = s.hall.units) : (latchRoom k i r).entries =
      (((k.entriesIn (k.segsOf i)).map fun y => (y.1, y.2.unramped)).filter fun x => x.2.state ≠ .granted).map
        fun x => { ref := x.1, target := targetGain s.hall x.1.trunk x.2, left := none } := by
    rw [List.filter_map, List.map_map]
    refine List.map_congr_left fun x _ => ?_
    have target : targetGain k x.1.trunk x.2 = targetGain s.hall x.1.trunk x.2 := by
      unfold targetGain Hall.unit
      rw [e]
    rw [target]
    rfl
  have same : (latchRoom (latch s).hall i r).entries = (latchRoom s.hall i r).entries := by
    rw [entries _ units, entries _ rfl, segs, lists]
  calc latchRoom (latch s).hall i r
      = { latchRoom s.hall i r with entries := (latchRoom (latch s).hall i r).entries } := rfl
    _ = latchRoom s.hall i r := by rw [same]

/-! ## The block start -/

/-- The state from which a block start latches: the block before ended, REINIT or the commit made, gains applied, ended
entries gone. -/
@[irreducible] def readyState : State := silentAll (gained (applyPending (settleBlock s)))

theorem startBlock_eq : startBlock s = latch (readyState s) := by
  unfold readyState
  rw [silentAll_gained]
  rfl

theorem readyState_prepared : (applyPending (settleBlock s)).prepared (readyState s) := by
  unfold readyState
  exact preparedState_prepared

end

/-- What a block start without REINIT and commit keeps of a room. -/
def Room.steady (r : Room) : SegSet × SegId × BitVec 16 × Settings × List Nat :=
  (r.segs, r.lead, r.gen, r.settings, r.langs)

section
variable {s t : State}

theorem Room.steady_of_lasting {r r' : Room} (e : r'.lasting = r.lasting) : r'.steady = r.steady ∧ r'.staging = r.staging := by
  simp only [Room.lasting, Prod.mk.injEq] at e
  obtain ⟨segs, lead, gen, settings, langs, staging⟩ := e
  exact ⟨by rw [Room.steady, segs, lead, gen, settings, langs]; rfl, staging⟩

theorem Lasting.room (w : Lasting s t) {i : SegId} {r : Room} (hr : s.hall.room i = some r) :
    ∃ r', t.hall.room i = some r' ∧ r'.lasting = r.lasting := by
  have rooms := w.rooms i
  rw [hr] at rooms
  exact Option.map_eq_some_iff.1 rooms

theorem Lasting.room_back (w : Lasting s t) {i : SegId} {r : Room} (hr : t.hall.room i = some r) :
    ∃ r', s.hall.room i = some r' ∧ r'.lasting = r.lasting := by
  have rooms := w.rooms i
  rw [hr] at rooms
  exact Option.map_eq_some_iff.1 rooms.symm

/-- What the part of a block start after REINIT and the commit leaves in a room's record. -/
theorem prepared_room (w : s.prepared t) (i : SegId) : (t.hall.room i).map Room.core = (s.hall.room i).map fun r =>
    { r with
      staging := if r.staging.pending then { pairs := [], pending := false, applied := true } else r.staging }.core := by
  obtain ⟨-, -, -, -, -, -, -, -, -, -, -, -, -, -, -, -, -, -, absent, present, -⟩ := w
  cases hr : s.hall.room i with
  | none => rw [absent i hr]; rfl
  | some r =>
    obtain ⟨r', hr', -, -, -, -, core⟩ := present i r hr
    rw [hr', Option.map_some, Option.map_some, core]

theorem prepared_steady (w : s.prepared t) (i : SegId) :
    (t.hall.room i).map Room.steady = (s.hall.room i).map Room.steady := by
  have room := congrArg (Option.map fun c => (c.1, c.2.1, c.2.2.1, c.2.2.2.1, c.2.2.2.2.2.2.1)) (prepared_room w i)
  rw [Option.map_map, Option.map_map] at room
  exact room

/-- No apply is left pending (R165). -/
theorem prepared_applied (w : s.prepared t) {i : SegId} {r : Room} (hr : t.hall.room i = some r) :
    r.staging.pending = false := by
  have room := prepared_room w i
  rw [hr] at room
  obtain ⟨r0, -, core⟩ := Option.map_eq_some_iff.1 room.symm
  have staging : (if r0.staging.pending then (⟨[], false, true⟩ : Staging) else r0.staging) = r.staging :=
    congrArg (·.2.2.2.2.2.2.2.2.2.2.2) core
  rw [← staging]
  split
  · rfl
  · next h => exact Bool.eq_false_iff.2 h

/-- What else the part after REINIT and the commit keeps. -/
theorem prepared_rest (w : s.prepared t) : t.scanner = s.scanner ∧ t.trunks = s.trunks ∧ t.mix = s.mix ∧
    t.pending = s.pending ∧ t.regroup = { s.regroup with state := t.regroup.state } ∧
    (t.regroup.state = s.regroup.state ∨ (s.regroup.state = .drain ∧ t.regroup.state = .commitWait)) ∧
    ∀ p : PortId, (t.hall.ports[p]).core = (s.hall.ports[p]).core := by
  obtain ⟨-, -, -, -, -, -, -, -, scanner, trunks, mix, pending, record, state, -, -, ports, -⟩ := w
  exact ⟨scanner, trunks, mix, pending, record, state, ports⟩

/-- A pending area's gains are in the unit table afterwards (R165). -/
theorem prepared_gain (w : s.prepared t) {i : SegId} {r : Room} {u : UnitId} {n : Nat} (hr : s.hall.room i = some r)
    (pending : r.staging.pending = true) (hu : (u, n) ∈ r.staging.pairs) (one : ∀ y ∈ r.staging.pairs, y.1 = u → y.2 = n)
    (others : ∀ j r', j ≠ i → s.hall.room j = some r' → r'.staging.pending = true → ∀ y ∈ r'.staging.pairs, y.1 ≠ u) :
    (t.hall.unit u).gain = n := by
  obtain ⟨-, -, -, -, -, -, -, -, -, -, -, -, -, -, -, -, -, -, -, -, -, -, gains, -⟩ := w
  exact gains i r u n hr pending hu one others

theorem activeMap_of_steady {g h : Hall} (e : ∀ i, (g.room i).map Room.steady = (h.room i).map Room.steady) :
    g.activeMap = h.activeMap := by
  refine activeMap_of_seating (funext fun i => ?_)
  have room := congrArg (Option.map fun c => (c.1, c.2.1)) (e i)
  rw [Option.map_map, Option.map_map] at room
  exact room

end

/-! ## The rules of the whole block start -/

section
variable (s : State)

/-- The latch changes of the hall the ramps alone. -/
theorem latch_pools : (latch s).hall = { s.hall with pools := (latch s).hall.pools } := by
  rw [latch_hall]
  exact startAll_hall _ _

theorem startBlock_rest : (startBlock s).scanner = s.scanner ∧ (startBlock s).trunks = s.trunks ∧
    (startBlock s).pending = s.pending ∧ (startBlock s).mix.blockCount = s.mix.blockCount + 1 := by
  have ended := settleBlock_ended s
  obtain ⟨scanner, trunks, mix, pending, -⟩ := applyPending_rest (settleBlock s)
  obtain ⟨scanner', trunks', mix', pending', -⟩ := prepared_rest (readyState_prepared s)
  rw [startBlock_eq]
  refine ⟨(scanner'.trans scanner).trans ended.scanner, (trunks'.trans trunks).trans ended.trunks,
    (pending'.trans pending).trans ended.pending, ?_⟩
  have count : (readyState s).mix.blockCount = s.mix.blockCount := by rw [mix', mix, ended.blockCount]
  exact congrArg (· + 1) count

theorem startBlock_room (i : SegId) : (startBlock s).hall.room i = (readyState s).hall.room i := by
  rw [startBlock_eq, latch_pools]
  rfl

theorem startBlock_regroup : (startBlock s).regroup = (readyState s).regroup := by
  rw [startBlock_eq]
  rfl

/-- The latched values are the records' (R154). -/
theorem startBlock_values :
    (∀ i : SegId, (startBlock s).mix.rooms[i] = ((startBlock s).hall.room i).map (latchRoom (startBlock s).hall i)) ∧
    (∀ b : BoothId, (startBlock s).mix.booths[b] = latchBooth (startBlock s).hall b) ∧
    ∀ c : Fin 32, (startBlock s).mix.chans[c] = (startBlock s).hall.content c.val := by
  rw [startBlock_eq]
  generalize readyState s = x
  have hall := latch_pools x
  refine ⟨fun i => ?_, fun b => ?_, fun c => ?_⟩
  · have same : latchRoom (latch x).hall i = latchRoom x.hall i := funext (latchRoom_latch x i)
    rw [latch_room, same, hall]
    rfl
  · rw [show (latch x).mix.booths[b] = latchBooth x.hall b from tab_get _ b, hall]
    rfl
  · rw [show (latch x).mix.chans[c] = x.hall.content c.val from tab_get _ c, hall]
    rfl

theorem startBlock_applied {i : SegId} {r : Room} (hr : (startBlock s).hall.room i = some r) : r.staging.pending = false := by
  rw [startBlock_room] at hr
  exact prepared_applied (readyState_prepared s) hr

theorem startBlock_reinitPending (p : PortId) : ((startBlock s).hall.ports[p]).reinitPending = false := by
  obtain ⟨-, -, -, -, none⟩ := applyPending_rest (settleBlock s)
  obtain ⟨-, -, -, -, -, -, ports⟩ := prepared_rest (readyState_prepared s)
  have kept : ((readyState s).hall.ports[p]).reinitPending = ((applyPending (settleBlock s)).hall.ports[p]).reinitPending := by
    have core := ports p
    generalize readyState s = x at core ⊢
    generalize applyPending (settleBlock s) = y at core ⊢
    exact congrArg (·.2.2.2.1) core
  rw [startBlock_eq, latch_pools]
  exact kept.trans (none p)

/-- After REINIT and the commit the rooms stay. -/
theorem startBlock_steady (i : SegId) : ((startBlock s).hall.room i).map Room.steady =
    ((applyPending (settleBlock s)).hall.room i).map Room.steady := by
  rw [startBlock_room]
  exact prepared_steady (readyState_prepared s) i

end

section
variable {s : State} (none : ∀ p : PortId, (s.hall.ports[p]).reinitPending = false)
include none

/-- A commit that waits is made at the block start. -/
theorem applyPending_commit (waits : s.regroup.state = .commitWait) :
    applyPending (settleBlock s) = commit (settleBlock s) := by
  have waits' : (settleBlock s).regroup.state = .commitWait := by
    rcases (settleBlock_lasting s).state with e | ⟨-, e⟩
    · rw [e, waits]
    · exact e
  rw [applyPending_none _ fun p => (settleBlock_reinit s p).trans (none p), if_pos waits']

theorem applyPending_idle (waits : s.regroup.state ≠ .commitWait)
    (drained : s.regroup.state = .drain → ∀ r e, s.hall.entry r = some e → ¬e.owesEnd) :
    applyPending (settleBlock s) = settleBlock s := by
  have state : (settleBlock s).regroup.state = s.regroup.state := by
    rcases (settleBlock_lasting s).state with e | ⟨e, -⟩
    · exact e
    · rw [settleBlock_regroup s (drained e)]
  rw [applyPending_none _ fun p => (settleBlock_reinit s p).trans (none p), if_neg]
  rwa [state]

/-- The commit at a block start (R38, R45). -/
theorem startBlock_commits (waits : s.regroup.state = .commitWait) :
    (startBlock s).regroup.isOpen = false ∧ (startBlock s).regroup.affected = 0 ∧
    (startBlock s).regroup.pendingMap = (startBlock s).hall.activeMap ∧
    (startBlock s).regroup.state = if atRest s.scanner then .steady else .settling := by
  have commits := applyPending_commit none waits
  have map := activeMap_of_steady (startBlock_steady s)
  obtain ⟨-, -, -, -, record, state, -⟩ := prepared_rest (readyState_prepared s)
  have regroup := commit_regroup (settleBlock s)
  rw [toldHall_activeMap, (settleBlock_ended s).scanner] at regroup
  rw [commits] at map record state
  rw [startBlock_regroup, map]
  generalize readyState s = x at record state ⊢
  generalize commit (settleBlock s) = c at record state regroup ⊢
  have settled : x.regroup.state = restState s.scanner := by
    have rests : c.regroup.state = restState s.scanner := by rw [regroup]
    rcases state with e | ⟨e, -⟩
    · exact e.trans rests
    · rcases restState_settled s.scanner with f | f <;>
        · rw [rests, f] at e
          cases e
  rw [record, regroup]
  exact ⟨rfl, rfl, rfl, settled⟩

/-- After a commit the rooms are those of the old pending map (R38). -/
theorem startBlock_idSets (waits : s.regroup.state = .commitWait)
    (sorted : s.regroup.pendingMap.Pairwise fun a b => a.id < b.id)
    (agree : s.hall.agrees s.regroup.affected s.regroup.pendingMap) :
    idSets (startBlock s).hall.activeMap = idSets s.regroup.pendingMap := by
  have last := settleBlock_lasting s
  have map := activeMap_of_steady (startBlock_steady s)
  rw [applyPending_commit none waits] at map
  have pendingMap : (settleBlock s).regroup.pendingMap = s.regroup.pendingMap := by rw [last.record]
  have affected : (settleBlock s).regroup.affected = s.regroup.affected := by rw [last.record]
  have segs (i : SegId) (y : SegSet) : (∃ r, (settleBlock s).hall.room i = some r ∧ r.segs = y) ↔
      ∃ r, s.hall.room i = some r ∧ r.segs = y := by
    constructor
    · rintro ⟨r, hr, rfl⟩
      obtain ⟨r', hr', e⟩ := last.room_back hr
      exact ⟨r', hr', congrArg Prod.fst e⟩
    · rintro ⟨r, hr, rfl⟩
      obtain ⟨r', hr', e⟩ := last.room hr
      exact ⟨r', hr', congrArg Prod.fst e⟩
  rw [map, commit_idSets (by rwa [pendingMap]), pendingMap]
  intro i y hy
  rw [affected] at hy
  rw [segs, pendingMap]
  exact agree i y hy

section
variable (waits : s.regroup.state ≠ .commitWait)
  (drained : s.regroup.state = .drain → ∀ r e, s.hall.entry r = some e → ¬e.owesEnd)
include waits drained

/-- Without REINIT and commit the map stays. -/
theorem startBlock_stays (i : SegId) :
    ((startBlock s).hall.room i).map Room.steady = (s.hall.room i).map Room.steady := by
  rw [startBlock_steady, applyPending_idle none waits drained]
  have rooms := (settleBlock_lasting s).rooms i
  generalize settleBlock s = t at rooms ⊢
  replace rooms := congrArg (Option.map fun c => (c.1, c.2.1, c.2.2.1, c.2.2.2.1, c.2.2.2.2.1)) rooms
  rw [Option.map_map, Option.map_map] at rooms
  exact rooms

theorem startBlock_gain {i : SegId} {r : Room} {u : UnitId} {n : Nat} (hr : s.hall.room i = some r)
    (pending : r.staging.pending = true) (hu : (u, n) ∈ r.staging.pairs) (one : ∀ y ∈ r.staging.pairs, y.1 = u → y.2 = n)
    (others : ∀ j r', j ≠ i → s.hall.room j = some r' → r'.staging.pending = true → ∀ y ∈ r'.staging.pairs, y.1 ≠ u) :
    ((startBlock s).hall.unit u).gain = n := by
  have last := settleBlock_lasting s
  have ready := readyState_prepared s
  rw [applyPending_idle none waits drained] at ready
  obtain ⟨r1, hr1, e⟩ := last.room hr
  have staging := (Room.steady_of_lasting e).2
  have gain : ((readyState s).hall.unit u).gain = n := by
    refine prepared_gain ready hr1 (by rw [staging, pending]) (by rwa [staging]) (by rwa [staging]) fun j r' hj hr' => ?_
    obtain ⟨r0, hr0, e0⟩ := last.room_back hr'
    rw [← (Room.steady_of_lasting e0).2]
    exact others j r0 hj hr0
  rw [startBlock_eq, latch_pools]
  exact gain

end
end

/-- Settles O55: each part of the block start gives its own state, and the lemmas about the whole follow them through. -/
theorem mixBlockStart : Obligations.MixBlockStart := by
  unfold Obligations.MixBlockStart
  intro s
  obtain ⟨scanner, trunks, pending, count⟩ := startBlock_rest s
  obtain ⟨rooms, booths, chans⟩ := startBlock_values s
  refine ⟨settleBlock s, applyPending (settleBlock s), readyState s, startBlock s, rfl, settleBlock_settled s, rfl,
    fun h => ?_, fun none waits => ?_, fun none waits => ?_, readyState_prepared s, ?_, count, ?_, rooms, booths, chans,
    fun i r => startBlock_applied s, startBlock_reinitPending s, scanner, trunks, pending, fun none => ⟨fun waits => ?_,
    fun waits drained => ⟨startBlock_stays none waits drained,
      fun i r u n hr h hu one others => startBlock_gain none waits drained hr h hu one others⟩⟩⟩
  · rw [applyPending_reinit _ h]
    exact reinitApply_reinited _
  · rw [applyPending_none _ none, if_pos waits]
    exact commit_committed _ waits
  · rw [applyPending_none _ none, if_neg waits]
  · rw [startBlock_eq]
    exact latch_latched _
  · rw [startBlock_eq]
    rfl
  · obtain ⟨shut, affected, map, state⟩ := startBlock_commits none waits
    exact ⟨shut, affected, map, state, startBlock_idSets none waits⟩

end Sys2Proof.Machine
end

section
/-! What the absence of units leaves of the hall (R61, R96): of the units lost, of their slots, and of every other
unit. -/

namespace Sys2Proof.Machine

/-! ## The entry of a unit -/

/-- Unit `u` holds no slot. -/
def Hall.slotless (h : Hall) (u : UnitId) : Prop := ∀ q e, h.entry q = some e → holderOf q.trunk e ≠ some u

/-- Unit `u` holds no slot, or waits for none and holds at most one (R74). -/
def Hall.tidy (h : Hall) (u : UnitId) : Prop :=
  h.slotless u ∨ (h.requestOf u = none ∧ ∃ r, ∀ q e, h.entry q = some e → holderOf q.trunk e = some u → q = r)

section
variable {h g : Hall} {u : UnitId} {r : SlotRef} {e : Entry}

theorem entryOf_some {q : SlotRef} (w : h.entryOf u = some (q, e)) :
    h.entry q = some e ∧ q.trunk = u.trunk ∧ e.unit = some u.addr := by
  obtain ⟨r, hr, found⟩ := List.exists_of_findSome?_eq_some w
  obtain ⟨k, -, rfl⟩ := List.mem_map.1 hr
  split at found
  · next x hx =>
    obtain ⟨unit, found⟩ := Option.ite_none_right_eq_some.1 found
    cases found
    exact ⟨hx, rfl, unit⟩
  · cases found

theorem entryOf_holder {q : SlotRef} (w : h.entryOf u = some (q, e)) :
    h.entry q = some e ∧ holderOf q.trunk e = some u := by
  obtain ⟨he, trunk, unit⟩ := entryOf_some w
  exact ⟨he, holderOf_eq_some.2 ⟨trunk, unit⟩⟩

theorem entryOf_eq_none : h.entryOf u = none ↔ h.slotless u := by
  refine ⟨fun w q e he hu => ?_, fun w => ?_⟩
  · obtain ⟨trunk, unit⟩ := holderOf_eq_some.1 hu
    have := List.findSome?_eq_none_iff.1 w q (trunk ▸ mem_slotsOf q)
    simp [he, unit] at this
  · cases found : h.entryOf u with
    | none => rfl
    | some y =>
      obtain ⟨he, hu⟩ := entryOf_holder (q := y.1) (e := y.2) found
      exact absurd hu (w _ _ he)

/-- A unit that holds one slot at most is read there. -/
theorem entryOf_of_only (he : h.entry r = some e) (hu : holderOf r.trunk e = some u)
    (only : ∀ q e', h.entry q = some e' → holderOf q.trunk e' = some u → q = r) : h.entryOf u = some (r, e) := by
  cases found : h.entryOf u with
  | none => exact absurd hu (entryOf_eq_none.1 found r e he)
  | some y =>
    obtain ⟨y1, y2⟩ := y
    obtain ⟨hy, hv⟩ := entryOf_holder found
    obtain rfl := only y1 y2 hy hv
    cases he.symm.trans hy
    rfl

theorem entryOf_congr (e : ∀ q, g.entry q = h.entry q) : g.entryOf u = h.entryOf u := by
  simp only [Hall.entryOf, e]

theorem soleEntry_iff : h.soleEntry u r e ↔ h.entry r = some e ∧ holderOf r.trunk e = some u ∧ h.requestOf u = none ∧
    ∀ q e', h.entry q = some e' → holderOf q.trunk e' = some u → q = r := by
  simp only [Hall.soleEntry, holderOf_eq_some, and_assoc, and_imp]

theorem tidy_of_sole (w : h.soleEntry u r e) : h.tidy u := by
  obtain ⟨-, -, asks, only⟩ := soleEntry_iff.1 w
  exact .inr ⟨asks, r, only⟩

theorem floorState_idle (asks : h.requestOf u = none) (holds : h.slotless u) : h.floorState u = .idle := by
  simp [Hall.floorState, asks, entryOf_eq_none.2 holds]

/-- Where slots are only emptied or orphaned, and no request comes, a unit stays as tidy as it was. -/
theorem tidy_of_emptied (asks : h.requestOf u = none → g.requestOf u = none)
    (old : ∀ q e, g.entry q = some e → h.entry q = some e ∨ e.unit = none) (w : h.tidy u) : g.tidy u := by
  have held (q : SlotRef) (e : Entry) (he : g.entry q = some e) (hu : holderOf q.trunk e = some u) :
      h.entry q = some e := (old q e he).resolve_right fun c => by
    rw [(holderOf_eq_some.1 hu).2] at c
    cases c
  rcases w with none | ⟨waits, r, only⟩
  · exact .inl fun q e he hu => none q e (held q e he hu) hu
  · exact .inr ⟨asks waits, r, fun q e he hu => only q e (held q e he hu) hu⟩

theorem Served.tidy (s : Served h g) (w : h.tidy u) : g.tidy u := by
  have same (pools : g.pools = h.pools) : g.tidy u :=
    tidy_of_emptied s.fewer.requestless (fun q e he => .inl (entry_of_pools pools q ▸ he)) w
  cases s with
  | age _ _ => exact same (ageRoom_pools h _)
  | rotation _ => exact same rfl
  | @grant v s =>
    obtain ⟨p, hp, rfl, -⟩ := s
    rcases grantUnit_cases h p.unit none with c | ⟨r, x, t⟩
    · rwa [c]
    · by_cases hu : p.unit = u
      · subst hu
        refine .inr ⟨requestOf_eq_none.2 fun q hq => ?_, r, fun q e he holder => ?_⟩
        · rw [t.requests] at hq
          simpa only [decide_eq_true_eq] using (List.mem_filter.1 hq).2
        · by_contra hq
          rw [t.entry q, if_neg hq] at he
          rcases w with none | ⟨waits, -⟩
          · exact none q e he holder
          · exact requestOf_eq_none.1 waits p hp rfl
      · have held (q : SlotRef) (e : Entry) (he : (grantUnit h p.unit none).entry q = some e)
            (holder : holderOf q.trunk e = some u) : h.entry q = some e := by
          rw [t.entry q] at he
          split at he
          · next c =>
            cases he
            rw [c, holderOf_eq_some.2 ⟨t.trunk, t.unit⟩] at holder
            exact absurd (Option.some.inj holder) hu
          · exact he
        rcases w with none | ⟨waits, r, only⟩
        · exact .inl fun q e he holder => none q e (held q e he holder) holder
        · exact .inr ⟨(grantUnit_fewer h _ none).requestless waits, r,
            fun q e he holder => only q e (held q e he holder) holder⟩

end

theorem giveFloor_order (h : Hall) (u v : UnitId) (o : FloorOrder) : (giveFloor h u o).addr v = h.addr v ∨
    (giveFloor h u o).addr v = { h.addr v with floorOrder := some o } := by
  by_cases huv : u = v
  · subst huv
    unfold giveFloor
    split
    · exact .inr (Hall.setAddr_addr _ _ _)
    · exact .inl rfl
  · exact .inl (giveFloor_addr_ne h o huv)

/-- A grant writes no address record but that of its unit, and of that a GRANT order alone. -/
theorem grantUnit_addr (h : Hall) (u : UnitId) (given : Option Stamp) (v : UnitId) :
    (grantUnit h u given).addr v = h.addr v ∨
    ∃ k, (grantUnit h u given).addr v = { h.addr v with floorOrder := some (.grant k) } := by
  unfold grantUnit
  split
  · next k sg _ _ =>
    have taken (e : Option Entry) := giveFloor_order ((removeRequest { h with seq := h.seq + 1 } u).setEntry
      { trunk := u.trunk, slot := k } e) u v (.grant k)
    simp only []
    split
    all_goals
      simp only [addr_of_addrs (wake_addrs _ _), addr_of_addrs (raiseAt_addrs _ _ _)]
      exact (taken _).imp_right fun c => ⟨k, c⟩
  · exact .inl rfl

/-! ## What the loss of units leaves of the others -/

/-- From `h` to `g` units among `us` have been forgotten, their entries have ended and freed slots have been handed
on: no other unit's record is written, and an entry of no unit among `us` stays. -/
structure Clearing (us : List UnitId) (h g : Hall) : Prop where
  bare : g.bare = h.bare
  unit : ∀ v, v ∉ us → g.unit v = h.unit v
  addr : ∀ v, v ∉ us → ∃ o, (o = (h.addr v).floorOrder ∨ ∃ j, o = some (.grant j)) ∧
    g.addr v = { h.addr v with floorOrder := o }
  idle : ∀ v, v ∉ us → h.requestOf v = none → g.addr v = h.addr v
  asks : ∀ v, h.requestOf v = none → g.requestOf v = none
  kept : ∀ q e, h.entry q = some e → (∀ u ∈ us, holderOf q.trunk e ≠ some u) → g.entry q = some e
  new  : ∀ q e, g.entry q = some e → h.entry q = some e ∨ e.unit = none ∨
    (e.state = .granted ∧ ∃ v, holderOf q.trunk e = some v ∧ h.requestOf v ≠ none)
  free : ∀ q, (∀ e, h.entry q = some e → e.state = .granted) → ∀ e, g.entry q = some e → e.state = .granted
  tidy : ∀ v, h.tidy v → g.tidy v

namespace Clearing
variable {us vs : List UnitId} {f g h : Hall}

/-- The rooms, the ports and what else a unit's record does not hold may change. -/
theorem of_eq {us : List UnitId} {h g : Hall} (bare : g.bare = h.bare) (units : g.units = h.units)
    (addrs : g.addrs = h.addrs) (requests : g.requests = h.requests) (pools : g.pools = h.pools) :
    Clearing us h g := by
  have asks (v : UnitId) : g.requestOf v = h.requestOf v := by simp only [Hall.requestOf, requests]
  have entry := entry_of_pools pools
  exact ⟨bare, fun v _ => unit_of_units units v, fun v _ => ⟨_, .inl rfl, addr_of_addrs addrs v⟩,
    fun v _ _ => addr_of_addrs addrs v, fun v w => (asks v).trans w, fun q e he _ => (entry q).trans he,
    fun q e he => .inl (entry q ▸ he), fun q w e he => w e (entry q ▸ he),
    fun v => tidy_of_emptied (fun w => (asks v).trans w) fun q e he => .inl (entry q ▸ he)⟩

theorem refl (us : List UnitId) (h : Hall) : Clearing us h h := of_eq rfl rfl rfl rfl rfl

theorem mono (w : Clearing us h g) (sub : us ⊆ vs) : Clearing vs h g :=
  { w with
    unit := fun v hv => w.unit v fun c => hv (sub c)
    addr := fun v hv => w.addr v fun c => hv (sub c)
    idle := fun v hv => w.idle v fun c => hv (sub c)
    kept := fun q e he hu => w.kept q e he fun u c => hu u (sub c) }

theorem trans (a : Clearing us f g) (b : Clearing us g h) : Clearing us f h where
  bare := b.bare.trans a.bare
  unit v hv := (b.unit v hv).trans (a.unit v hv)
  addr v hv := by
    obtain ⟨o, ho, e⟩ := a.addr v hv
    obtain ⟨o', ho', e'⟩ := b.addr v hv
    refine ⟨o', ?_, by rw [e', e]⟩
    rcases ho' with rfl | ho'
    · rw [e]; exact ho
    · exact .inr ho'
  idle v hv none := (b.idle v hv (a.asks v none)).trans (a.idle v hv none)
  asks v none := b.asks v (a.asks v none)
  kept q e he hu := b.kept q e (a.kept q e he hu) hu
  new q e he := by
    rcases b.new q e he with he | orphan | ⟨granted, v, hv, waits⟩
    · exact a.new q e he
    · exact .inr (.inl orphan)
    · exact .inr (.inr ⟨granted, v, hv, fun c => waits (a.asks v c)⟩)
  free q w := b.free q (a.free q w)
  tidy v w := b.tidy v (a.tidy v w)

/-- A unit that waits for no slot is given none. -/
theorem held (w : Clearing us h g) {u : UnitId} (asks : h.requestOf u = none) {q : SlotRef} {e : Entry}
    (he : g.entry q = some e) (hu : holderOf q.trunk e = some u) : h.entry q = some e := by
  rcases w.new q e he with he | orphan | ⟨-, v, hv, waits⟩
  · exact he
  · rw [(holderOf_eq_some.1 hu).2] at orphan
    cases orphan
  · cases hu.symm.trans hv
    exact absurd asks waits

theorem slotless (w : Clearing us h g) {u : UnitId} (asks : h.requestOf u = none) (none : h.slotless u) :
    g.slotless u :=
  fun q e he hu => none q e (w.held asks he hu) hu

theorem of_served (s : Served h g) : Clearing us h g where
  bare := bare_of_core s.onward.core
  unit v _ := unit_of_units s.units v
  addr v _ := by
    cases s with
    | @grant u _ =>
      rcases grantUnit_addr h u none v with c | ⟨k, c⟩
      · exact ⟨_, .inl rfl, c⟩
      · exact ⟨_, .inr ⟨k, rfl⟩, c⟩
    | age _ _ => exact ⟨_, .inl rfl, ageRoom_addr h _ v⟩
    | rotation _ => exact ⟨_, .inl rfl, rfl⟩
  idle v _ none := (s.requestless none).2
  asks v none := (s.requestless none).1
  kept q e he _ := s.filled.held q e he
  new q e he := by
    cases s with
    | @grant u s =>
      obtain ⟨p, hp, hu, -⟩ := s
      rcases grantUnit_cases h u none with c | ⟨r, x, t⟩
      · exact .inl (c ▸ he)
      · rw [t.entry q] at he
        split at he
        · next c =>
          cases he
          exact .inr (.inr ⟨t.granted, u, holderOf_eq_some.2 ⟨c ▸ t.trunk, t.unit⟩,
            fun none => requestOf_eq_none.1 none p hp hu⟩)
        · exact .inl he
    | age _ _ => exact .inl (entry_of_pools (ageRoom_pools h _) q ▸ he)
    | rotation _ => exact .inl he
  free q w e he := by
    rcases s.filled.new q e he with he | ⟨-, granted, -⟩
    · exact w e he
    · exact granted
  tidy v := s.tidy

theorem of_serving (s : Serving h g) : Clearing us h g := by
  induction s with
  | refl => exact refl us h
  | tail _ step ih => exact ih.trans (of_served step)

theorem fold {op : Hall → UnitId → Hall} (hop : ∀ h u, Clearing [u] h (op h u)) (us : List UnitId) (h : Hall) :
    Clearing us h (us.foldl op h) := by
  induction us generalizing h with
  | nil => exact refl [] h
  | cons u us ih => exact ((hop h u).mono (by simp)).trans ((ih (op h u)).mono (by simp))

end Clearing

/-! ## A unit forgotten -/

/-- The record of a unit that has become ABSENT (R61, R96). -/
def UnitRec.absent (r : UnitRec) : UnitRec :=
  { r with present := false, latch := false, next := false, allOff := false, mic := none, warned := false }

section
variable (h : Hall) (u : UnitId)

theorem forgetUnit_units : (forgetUnit h u).units = (h.setUnit u (h.unit u).absent).units := raiseSeat_units _ _

@[simp] theorem forgetUnit_addrs : (forgetUnit h u).addrs = (h.setAddr u AddrRec.reset).addrs := raiseSeat_addrs _ _

@[simp] theorem forgetUnit_pools : (forgetUnit h u).pools = h.pools := raiseSeat_pools _ _

@[simp] theorem forgetUnit_requests : (forgetUnit h u).requests = h.requests.filter fun q => q.unit ≠ u :=
  raiseSeat_requests _ _

/-- A forgotten unit is ABSENT, has a clean address record and waits for nothing (R61, R96). -/
theorem forgetUnit_self : (forgetUnit h u).unit u = (h.unit u).absent ∧ (forgetUnit h u).addr u = AddrRec.reset ∧
    (forgetUnit h u).requestOf u = none := by
  refine ⟨(unit_of_units (forgetUnit_units h u) u).trans (Hall.setUnit_unit _ _ _),
    (addr_of_addrs (forgetUnit_addrs h u) u).trans (Hall.setAddr_addr _ _ _), requestOf_eq_none.2 fun q hq => ?_⟩
  rw [forgetUnit_requests] at hq
  simpa only [decide_eq_true_eq] using (List.mem_filter.1 hq).2

theorem forgetUnit_clearing : Clearing [u] h (forgetUnit h u) := by
  have entry := entry_of_pools (forgetUnit_pools h u)
  have asks (v : UnitId) : h.requestOf v = none → (forgetUnit h u).requestOf v = none :=
    (Fewer.filter (forgetUnit_requests h u)).requestless
  have addr (v : UnitId) (hv : v ∉ [u]) : (forgetUnit h u).addr v = h.addr v :=
    (addr_of_addrs (forgetUnit_addrs h u) v).trans (Hall.setAddr_addr_ne h _ fun c => hv (by simp [c]))
  exact ⟨forgetUnit_bare h u,
    fun v hv => (unit_of_units (forgetUnit_units h u) v).trans (Hall.setUnit_unit_ne h _ fun c => hv (by simp [c])),
    fun v hv => ⟨_, .inl rfl, addr v hv⟩, fun v hv _ => addr v hv, asks, fun q e he _ => (entry q).trans he,
    fun q e he => .inl (entry q ▸ he), fun q w e he => w e (entry q ▸ he),
    fun v => tidy_of_emptied (asks v) fun q e he => .inl (entry q ▸ he)⟩

theorem raiseSeat_mute {f : Flag} (hf : .floor ≠ f) (sg : Option SegId) : Mute f h (raiseSeat sg h) := by
  unfold raiseSeat
  split
  · exact raiseAt_mute h hf _
  · exact .refl h

theorem forgetUnit_mute : Mute .trunk h (forgetUnit h u) :=
  Mute.trans (.of_ports rfl) (raiseSeat_mute _ (by decide) _)

end

/-! ## An entry that ends with its unit -/

/-- An entry orphaned by the absence of its unit (R96). -/
def Entry.orphaned (e : Entry) : Entry := { e with unit := none, state := .closing, timer := none }

/-- The hall in which a unit's entry has ended, before any grant handling: a GRANTED entry has left its slot, another
one is orphaned (R96). -/
def vacated (h : Hall) (u : UnitId) : Hall :=
  match h.entryOf u with
  | some (r, e) => if e.state = .granted then dropEntry h r e else (closeEntry h r).setEntry r (some e.orphaned)
  | none => h

section
variable {h : Hall} {u : UnitId} {r : SlotRef} {e : Entry}

theorem vacated_none (hu : h.entryOf u = none) : vacated h u = h := by simp only [vacated, hu]

theorem vacated_granted (hu : h.entryOf u = some (r, e)) (hs : e.state = .granted) : vacated h u = dropEntry h r e := by
  simp only [vacated, hu, if_pos hs]

theorem vacated_orphaned (hu : h.entryOf u = some (r, e)) (hs : e.state ≠ .granted) :
    vacated h u = (closeEntry h r).setEntry r (some e.orphaned) := by
  simp only [vacated, hu, if_neg hs]

/-- What follows the end of a unit's entry is grant handling, and the unit's seat. -/
theorem endEntry_serving (h : Hall) (u : UnitId) : ∃ g, Serving (vacated h u) g ∧ endEntry h u = alignSeat g u := by
  cases hu : h.entryOf u with
  | none => exact ⟨vacated h u, .refl, by simp only [vacated_none hu, endEntry, hu]⟩
  | some y =>
    obtain ⟨r, e⟩ := y
    by_cases hs : e.state = .granted
    · refine ⟨_, handOn_serving _ [r.trunk] (h.roomOf e.seg) (!e.chair), ?_⟩
      simp only [vacated_granted hu hs, endEntry, hu, if_pos hs]
    · refine ⟨_, ifHandled_serving _ (h.roomOf e.seg) (e.onAir && !e.chair), ?_⟩
      simp only [vacated_orphaned hu hs, endEntry, hu, if_neg hs]
      rfl

theorem closeEntry_entry_ne {q : SlotRef} (hq : q ≠ r) : (closeEntry h r).entry q = h.entry q := by
  by_cases ho : ∃ e, h.entry r = some e ∧ e.onAir = true
  · obtain ⟨e, he, ho⟩ := ho
    rw [closeEntry_entry h r e he ho, if_neg hq]
  · rw [closeEntry_offAir h fun e he => by simpa using fun c => ho ⟨e, he, c⟩]

/-- The slots after a unit's entry has ended. -/
theorem vacated_entry (hu : h.entryOf u = some (r, e)) (q : SlotRef) : (vacated h u).entry q =
    if q = r then if e.state = .granted then none else some e.orphaned else h.entry q := by
  by_cases hs : e.state = .granted
  · rw [vacated_granted hu hs, entry_of_pools (dropEntry_pools h r e)]
    split
    · next hq => rw [hq, Hall.setEntry_entry]
    · next hq => exact Hall.setEntry_entry_ne _ _ fun c => hq c.symm
  · rw [vacated_orphaned hu hs]
    split
    · next hq => rw [hq, Hall.setEntry_entry]
    · next hq => rw [Hall.setEntry_entry_ne _ _ fun c => hq c.symm, closeEntry_entry_ne hq]

theorem clearWarn_addr_ne (h : Hall) {u v : UnitId} (huv : u ≠ v) : (clearWarn h u).addr v = h.addr v := by
  unfold clearWarn
  split
  · rw [Hall.setUnit_addr, giveNotice_addr_ne h _ huv]
  · rfl

/-- The units' and the address records after a closing: of another unit than the holder they stay. -/
theorem closeEntry_addr {v : UnitId} (hv : ∀ e, h.entry r = some e → e.onAir = true → holderOf r.trunk e ≠ some v) :
    (closeEntry h r).addr v = h.addr v := by
  by_cases ho : ∃ e, h.entry r = some e ∧ e.onAir = true
  · obtain ⟨e, he, ho⟩ := ho
    rw [closeEntry_onAir h he ho, closedPools, addr_of_addrs (raiseAt_addrs _ _ _)]
    have := hv e he ho
    cases hu : holderOf r.trunk e with
    | none => rfl
    | some u => exact clearWarn_addr_ne _ fun c => this (c ▸ hu)
  · rw [closeEntry_offAir h fun e he => by simpa using fun c => ho ⟨e, he, c⟩]

/-- A closing writes nothing of a unit that is not warned. -/
theorem closeEntry_unwarned (hu : ∀ e, h.entry r = some e → e.onAir = true → holderOf r.trunk e = some u)
    (hw : (h.unit u).warned = false) : (closeEntry h r).units = h.units ∧ (closeEntry h r).addrs = h.addrs := by
  by_cases ho : ∃ e, h.entry r = some e ∧ e.onAir = true
  · obtain ⟨e, he, ho⟩ := ho
    rw [closeEntry_onAir h he ho, closedPools, hu e he ho, raiseAt_units, raiseAt_addrs]
    simp [clearWarn, hw]
  · rw [closeEntry_offAir h fun e he => by simpa using fun c => ho ⟨e, he, c⟩]
    exact ⟨rfl, rfl⟩

variable (h u)

/-- An ended entry gives nothing to another unit than its own. -/
theorem vacated_other {v : UnitId} (hv : v ≠ u) :
    (vacated h u).unit v = h.unit v ∧ (vacated h u).addr v = h.addr v := by
  cases hu : h.entryOf u with
  | none => rw [vacated_none hu]; exact ⟨rfl, rfl⟩
  | some y =>
    obtain ⟨r, e⟩ := y
    by_cases hs : e.state = .granted
    · rw [vacated_granted hu hs]
      exact ⟨unit_of_units (dropEntry_units h r e) v, addr_of_addrs (dropEntry_addrs h r e) v⟩
    · rw [vacated_orphaned hu hs, Hall.setEntry_unit, Hall.setEntry_addr]
      obtain ⟨he, holder⟩ := entryOf_holder hu
      have other (x : Entry) (hx : h.entry r = some x) (_ : x.onAir = true) : holderOf r.trunk x ≠ some v := by
        cases he.symm.trans hx
        rw [holder]
        exact fun c => hv (Option.some.inj c).symm
      exact ⟨closeEntry_unit h r v other, closeEntry_addr other⟩

/-- The end of an entry writes nothing of its own unit, once it is forgotten. -/
theorem vacated_unwarned (hw : (h.unit u).warned = false) :
    (vacated h u).units = h.units ∧ (vacated h u).addrs = h.addrs := by
  cases hu : h.entryOf u with
  | none => rw [vacated_none hu]; exact ⟨rfl, rfl⟩
  | some y =>
    obtain ⟨r, e⟩ := y
    by_cases hs : e.state = .granted
    · rw [vacated_granted hu hs]
      exact ⟨dropEntry_units h r e, dropEntry_addrs h r e⟩
    · rw [vacated_orphaned hu hs, Hall.setEntry_units, Hall.setEntry_addrs]
      obtain ⟨he, holder⟩ := entryOf_holder hu
      refine closeEntry_unwarned (fun x hx _ => ?_) hw
      cases he.symm.trans hx
      exact holder

@[simp] theorem vacated_core : (vacated h u).core = h.core := by
  unfold vacated
  repeat' split
  all_goals simp

@[simp] theorem vacated_requests : (vacated h u).requests = h.requests := by
  unfold vacated
  repeat' split
  all_goals simp

theorem vacated_mute : Mute .trunk h (vacated h u) := by
  unfold vacated
  repeat' split
  · exact .trans (.of_ports rfl) (raiseAt_mute _ (by decide) _)
  · exact (closeEntry_mute h (by decide) _).trans (.of_ports rfl)
  · exact .refl h

theorem vacated_clearing : Clearing [u] h (vacated h u) := by
  have asks (v : UnitId) : (vacated h u).requestOf v = h.requestOf v := by simp only [Hall.requestOf, vacated_requests]
  have other (v : UnitId) (hv : v ∉ [u]) := vacated_other h u (v := v) fun c => hv (by simp [c])
  have old (q : SlotRef) (x : Entry) (hx : (vacated h u).entry q = some x) : h.entry q = some x ∨ x.unit = none := by
    cases hu : h.entryOf u with
    | none => exact .inl (vacated_none hu ▸ hx)
    | some y =>
      obtain ⟨r, e⟩ := y
      rw [vacated_entry hu] at hx
      split at hx
      · split at hx
        · cases hx
        · cases hx; exact .inr rfl
      · exact .inl hx
  refine ⟨bare_of_core (vacated_core h u), fun v hv => (other v hv).1, fun v hv => ⟨_, .inl rfl, (other v hv).2⟩,
    fun v hv _ => (other v hv).2, fun v w => (asks v).trans w, fun q x hx away => ?_,
    fun q x hx => (old q x hx).imp_right .inl, fun q granted x hx => ?_,
    fun v => tidy_of_emptied (fun w => (asks v).trans w) old⟩
  · cases hu : h.entryOf u with
    | none => rw [vacated_none hu, hx]
    | some y =>
      obtain ⟨r, e⟩ := y
      obtain ⟨he, holder⟩ := entryOf_holder hu
      rw [vacated_entry hu, if_neg, hx]
      rintro rfl
      cases he.symm.trans hx
      exact away u (.head _) holder
  · cases hu : h.entryOf u with
    | none => exact granted x (vacated_none hu ▸ hx)
    | some y =>
      obtain ⟨r, e⟩ := y
      obtain ⟨he, -⟩ := entryOf_holder hu
      rw [vacated_entry hu] at hx
      split at hx
      · next hq =>
        rw [if_pos (granted e (hq ▸ he))] at hx
        cases hx
      · exact granted x hx

end

/-! ## Units that become ABSENT -/

section
variable (h : Hall) (u : UnitId)

@[simp] theorem alignSeat_requestOf (v : UnitId) : (alignSeat h u).requestOf v = h.requestOf v := by
  simp only [Hall.requestOf, alignSeat_requests]

theorem alignSeat_entry (q : SlotRef) : (alignSeat h u).entry q = h.entry q := entry_of_pools (alignSeat_pools h u) q

theorem alignSeat_warned : ((alignSeat h u).unit u).warned = (h.unit u).warned := by
  simp only [alignSeat]
  split
  · rw [unit_of_units ((raiseSeat_units _ _).trans (raiseSeat_units _ _)), Hall.setUnit_unit]
  · rfl

theorem alignSeat_clearing : Clearing [u] h (alignSeat h u) := by
  have entry := alignSeat_entry h u
  exact ⟨bare_of_core (alignSeat_core h u), fun v hv => alignSeat_unit h u v (.inl fun c => hv (by simp [c])),
    fun v _ => ⟨_, .inl rfl, alignSeat_addr h u v⟩, fun v _ _ => alignSeat_addr h u v,
    fun v => (alignSeat_requestOf h u v).trans, fun q e he _ => (entry q).trans he, fun q e he => .inl (entry q ▸ he),
    fun q w e he => w e (entry q ▸ he),
    fun v => tidy_of_emptied (alignSeat_requestOf h u v).trans fun q e he => .inl (entry q ▸ he)⟩

theorem endEntry_clearing : Clearing [u] h (endEntry h u) := by
  obtain ⟨g, served, e⟩ := endEntry_serving h u
  rw [e]
  exact ((vacated_clearing h u).trans (.of_serving served)).trans (alignSeat_clearing g u)

theorem endEntry_mute : Mute .trunk h (endEntry h u) := by
  obtain ⟨g, served, e⟩ := endEntry_serving h u
  rw [e]
  exact ((vacated_mute h u).trans (served.mute (by decide) (by decide))).trans (alignSeat_mute g (by decide) u)

theorem makeAbsent_clearing (us : List UnitId) : Clearing us h (makeAbsent h us) :=
  (Clearing.fold forgetUnit_clearing us h).trans (.fold endEntry_clearing us _)

/-- Absence raises no TRUNK event of its own. -/
theorem makeAbsent_mute (us : List UnitId) : Mute .trunk h (makeAbsent h us) :=
  (Mute.fold forgetUnit_mute us h).trans (.fold endEntry_mute us _)

end

/-- From `h` to `g` unit `u` has become ABSENT (R61, R96); its slots are known where it held one at most. -/
structure Vanished (h g : Hall) (u : UnitId) : Prop where
  asks     : g.requestOf u = none
  addr     : g.addr u = AddrRec.reset
  unit     : (g.unit u).core = (h.unit u).absent.core
  warned   : (g.unit u).warned = false
  slotless : h.tidy u → g.slotless u
  granted  : ∀ r e, h.soleEntry u r e → e.state = .granted → ∀ e', g.entry r = some e' → e'.state = .granted
  orphaned : ∀ r e, h.soleEntry u r e → e.state ≠ .granted → g.entry r = some e.orphaned

section
variable {us : List UnitId} {f g h : Hall} {u : UnitId}

/-- A unit ABSENT stays so while others are lost. -/
theorem Vanished.then (w : Vanished f g u) (c : Clearing us g h) (hu : u ∉ us) : Vanished f h u where
  asks := c.asks u w.asks
  addr := (c.idle u hu w.asks).trans w.addr
  unit := by rw [c.unit u hu, w.unit]
  warned := by rw [c.unit u hu, w.warned]
  slotless tidy := c.slotless w.asks (w.slotless tidy)
  granted r e sole hs := c.free r (w.granted r e sole hs)
  orphaned r e sole hs := c.kept r _ (w.orphaned r e sole hs) fun v _ holder => by cases (holderOf_eq_some.1 holder).2

/-- Its only entry stays with a unit while others are lost. -/
theorem Clearing.sole (c : Clearing us f g) (hu : u ∉ us) {r : SlotRef} {e : Entry} (w : f.soleEntry u r e) :
    g.soleEntry u r e := by
  obtain ⟨he, holder, asks, only⟩ := soleEntry_iff.1 w
  refine soleEntry_iff.2 ⟨c.kept r e he fun v hv other => ?_, holder, c.asks u asks,
    fun q e' he' hu' => only q e' (c.held asks he' hu') hu'⟩
  exact hu (Option.some.inj (holder.symm.trans other) ▸ hv)

theorem Vanished.after (c : Clearing us f g) (hu : u ∉ us) (w : Vanished g h u) : Vanished f h u where
  asks := w.asks
  addr := w.addr
  unit := by rw [w.unit, c.unit u hu]
  warned := w.warned
  slotless tidy := w.slotless (c.tidy u tidy)
  granted r e sole := w.granted r e (c.sole hu sole)
  orphaned r e sole := w.orphaned r e (c.sole hu sole)

/-- What a forgotten unit is left with, before its entry ends. -/
structure Forgotten (h : Hall) (u : UnitId) : Prop where
  asks : h.requestOf u = none
  addr : h.addr u = AddrRec.reset
  unit : (h.unit u).absent = h.unit u

theorem Forgotten.then (w : Forgotten g u) (c : Clearing us g h) (hu : u ∉ us) : Forgotten h u :=
  ⟨c.asks u w.asks, (c.idle u hu w.asks).trans w.addr, by rw [c.unit u hu, w.unit]⟩

theorem Forgotten.warned (w : Forgotten h u) : (h.unit u).warned = false := by
  rw [← w.unit]
  rfl

/-- The end of the entry of a forgotten unit makes the unit ABSENT. -/
theorem endEntry_vanished (w : Forgotten h u) : Vanished h (endEntry h u) u := by
  obtain ⟨g, served, e⟩ := endEntry_serving h u
  obtain ⟨units, addrs⟩ := vacated_unwarned h u w.warned
  have cleared : Clearing [] (vacated h u) g := .of_serving served
  have asks : (vacated h u).requestOf u = none := (vacated_clearing h u).asks u w.asks
  have unit : g.unit u = h.unit u := (cleared.unit u (by simp)).trans (unit_of_units units u)
  have slot {r : SlotRef} {x : Entry} (sole : h.soleEntry u r x) (q : SlotRef) : (vacated h u).entry q =
      if q = r then if x.state = .granted then none else some x.orphaned else h.entry q := by
    obtain ⟨hx, holder, -, only⟩ := soleEntry_iff.1 sole
    exact vacated_entry (entryOf_of_only hx holder only) q
  rw [e]
  refine ⟨(alignSeat_requestOf g u u).trans (cleared.asks u asks), ?_, ?_, ?_, fun tidy => ?_, fun r x sole hs => ?_,
    fun r x sole hs => ?_⟩
  · rw [alignSeat_addr, cleared.idle u (by simp) asks, addr_of_addrs addrs, w.addr]
  · rw [core_unit (alignSeat_core g u), unit, w.unit]
  · rw [alignSeat_warned, unit, w.warned]
  · have left : (vacated h u).slotless u := by
      rcases tidy with none | ⟨-, r, only⟩
      · rwa [vacated_none (entryOf_eq_none.2 none)]
      · cases hu : h.entryOf u with
        | none => rwa [vacated_none hu, ← entryOf_eq_none]
        | some y =>
          intro q x hx holder
          rw [vacated_entry hu] at hx
          split at hx
          · split at hx
            · cases hx
            · cases hx; cases (holderOf_eq_some.1 holder).2
          · next hq =>
            obtain ⟨hy, holder'⟩ := entryOf_holder (q := y.1) (e := y.2) hu
            exact hq ((only q x hx holder).trans (only _ _ hy holder').symm)
    intro q x hx
    rw [alignSeat_entry] at hx
    exact cleared.slotless asks left q x hx
  · rw [alignSeat_entry]
    refine cleared.free r fun x' hx' => ?_
    rw [slot sole, if_pos rfl, if_pos hs] at hx'
    cases hx'
  · rw [alignSeat_entry]
    refine cleared.kept r _ ?_ (by simp)
    rw [slot sole, if_pos rfl, if_neg hs]

theorem append_of_mem_nodup {α : Type} {l : List α} {x : α} (nodup : l.Nodup) (hx : x ∈ l) :
    ∃ a b, l = a ++ x :: b ∧ x ∉ a ∧ x ∉ b := by
  obtain ⟨a, b, rfl⟩ := List.append_of_mem hx
  obtain ⟨apart, -⟩ := List.nodup_cons.1 (List.nodup_middle.1 nodup)
  rw [List.mem_append, not_or] at apart
  exact ⟨a, b, rfl, apart⟩

theorem forgetAll_pools (us : List UnitId) (h : Hall) : (us.foldl forgetUnit h).pools = h.pools :=
  foldl_keeps (P := fun g : Hall => g.pools = h.pools) (fun g u hg => (forgetUnit_pools g u).trans hg) us h rfl

theorem forgetAll_forgotten (nodup : us.Nodup) (hu : u ∈ us) : Forgotten (us.foldl forgetUnit h) u ∧
    (us.foldl forgetUnit h).unit u = (h.unit u).absent := by
  obtain ⟨a, b, rfl, ha, hb⟩ := append_of_mem_nodup nodup hu
  rw [List.foldl_append, List.foldl_cons]
  have first := Clearing.fold forgetUnit_clearing a h
  generalize a.foldl forgetUnit h = g at *
  obtain ⟨unit, addr, asks⟩ := forgetUnit_self g u
  have last := Clearing.fold forgetUnit_clearing b (forgetUnit g u)
  have here : Forgotten (forgetUnit g u) u := ⟨asks, addr, by rw [unit]; rfl⟩
  exact ⟨here.then last hb, by rw [last.unit u hb, unit, first.unit u ha]⟩

/-- Each unit given becomes ABSENT (R61, R96). -/
theorem makeAbsent_vanished (nodup : us.Nodup) (hu : u ∈ us) : Vanished h (makeAbsent h us) u := by
  obtain ⟨forgotten, unit⟩ := forgetAll_forgotten (h := h) nodup hu
  have before := Clearing.fold forgetUnit_clearing us h
  have entry := entry_of_pools (forgetAll_pools us h)
  have sole {r : SlotRef} {e : Entry} (w : h.soleEntry u r e) : (us.foldl forgetUnit h).soleEntry u r e := by
    obtain ⟨he, trunk, holder, -, only⟩ := w
    exact ⟨(entry r).trans he, trunk, holder, forgotten.asks, fun q e' he' => only q e' (entry q ▸ he')⟩
  have ended : Vanished (us.foldl forgetUnit h) (makeAbsent h us) u := by
    unfold makeAbsent
    obtain ⟨a, b, rfl, ha, hb⟩ := append_of_mem_nodup nodup hu
    generalize (a ++ u :: b).foldl forgetUnit h = g at *
    rw [List.foldl_append, List.foldl_cons]
    have first := Clearing.fold endEntry_clearing a g
    have here := endEntry_vanished (forgotten.then first ha)
    exact (here.after first ha).then (Clearing.fold endEntry_clearing b _) hb
  refine ⟨ended.asks, ended.addr, ?_, ended.warned, fun tidy => ended.slotless (before.tidy u tidy),
    fun r e w => ended.granted r e (sole w), fun r e w => ended.orphaned r e (sole w)⟩
  rw [ended.unit, unit]
  rfl

end

/-! ## The units lost by an event -/

/-- From `h` to `g` exactly the units `us` have become ABSENT, and nothing else has happened but what their absence
brings (R61, R96). -/
structure Lost (us : List UnitId) (h g : Hall) : Prop extends Clearing us h g where
  present  : ∀ u, (g.unit u).present = (!us.contains u && (h.unit u).present)
  vanished : ∀ u ∈ us, Vanished h g u

namespace Lost
variable {us vs : List UnitId} {f g h : Hall}

/-- No unit is lost where no unit's record, order, request or slot is written. -/
theorem of_eq {h g : Hall} (bare : g.bare = h.bare) (units : g.units = h.units) (addrs : g.addrs = h.addrs)
    (requests : g.requests = h.requests) (pools : g.pools = h.pools) : Lost [] h g :=
  { Clearing.of_eq bare units addrs requests pools with
    present := fun u => by simp [unit_of_units units u]
    vanished := by simp }

theorem raise (f : Flag) (x : SegSet) (h : Hall) : Lost [] h (raise f x h) :=
  of_eq (bare_of_core (raise_core h f x)) rfl rfl rfl rfl

theorem idleSweep (h : Hall) : Lost [] h (idleSweep h) := of_eq (bare_of_core (idleSweep_core h)) rfl rfl rfl rfl

theorem makeAbsent (h : Hall) {us : List UnitId} (nodup : us.Nodup) : Lost us h (makeAbsent h us) :=
  { makeAbsent_clearing h us with
    present := makeAbsent_present h us
    vanished := fun _ => makeAbsent_vanished nodup }

/-- A loss, and then the loss of other units. -/
theorem trans (a : Lost us f g) (b : Lost vs g h) (apart : ∀ u ∈ us, u ∉ vs) : Lost (us ++ vs) f h := by
  refine { (a.toClearing.mono (List.subset_append_left us vs)).trans
      (b.toClearing.mono (List.subset_append_right us vs)) with
    present := fun u => ?_
    vanished := fun u hu => ?_ }
  · rw [b.present, a.present, List.contains_append, Bool.not_or, ← Bool.and_assoc, Bool.and_comm (!vs.contains u)]
  · by_cases hu' : u ∈ us
    · exact (a.vanished u hu').then b.toClearing (apart u hu')
    · exact (b.vanished u ((List.mem_append.1 hu).resolve_left hu')).after a.toClearing hu'

theorem swept (a : Lost us h g) : Lost us h (Machine.idleSweep g) := by
  simpa using a.trans (idleSweep g) (by simp)

theorem of_raised {f : Flag} {x : SegSet} (a : Lost us (Machine.raise f x h) g) : Lost us h g :=
  (raise f x h).trans a (by simp)

/-- A unit lost is ABSENT, and no other event finds it PRESENT. -/
theorem absent (a : Lost us h g) {u : UnitId} (hu : u ∈ us) : (g.unit u).present = false := by
  simp [a.present, hu]

end Lost

theorem unitGone_of_vanished {s t : State} {u : UnitId} (w : Vanished s.hall t.hall u) : s.unitGone t u := by
  have idle (tidy : s.hall.tidy u) : t.hall.floorState u = .idle := floorState_idle w.asks (w.slotless tidy)
  refine ⟨w.asks, w.addr, w.unit, w.warned, fun none => idle (.inl fun q e he holder => ?_), fun r e sole => ?_⟩
  · obtain ⟨trunk, unit⟩ := holderOf_eq_some.1 holder
    exact none q e he trunk unit
  · refine ⟨idle (tidy_of_sole sole), fun hs e' he' => ⟨w.granted r e sole hs e' he', fun holder => ?_⟩, fun ho => ?_,
      fun hs => ?_⟩
    · have left := w.slotless (tidy_of_sole sole)
      obtain ⟨-, trunk, -⟩ := sole
      exact left r e' he' (holderOf_eq_some.2 ⟨trunk, holder⟩)
    · exact w.orphaned r e sole (onAir_not_granted ho)
    · rw [w.orphaned r e sole (by rw [hs]; decide), Entry.orphaned, ← hs]

/-- The units of `us` are lost, where the hall `h` they are lost from has the slots, the requests and the units' records
of `s`. -/
theorem unitsLost_of_lost {s t : State} {v : Vector Trunk 4} {gone : UnitId → Bool} {h : Hall} {us : List UnitId}
    (trunks : t.trunks = v) (scanner : t.scanner = s.scanner) (regroup : t.regroup = s.regroup) (mix : t.mix = s.mix)
    (pending : t.pending = s.pending) (bare : h.bare = s.hall.bare) (units : h.units = s.hall.units)
    (requests : h.requests = s.hall.requests) (pools : h.pools = s.hall.pools) (lost : Lost us h t.hall)
    (all : ∀ u, gone u = true → (s.hall.unit u).present = true → u ∈ us) (only : ∀ u ∈ us, gone u = true) :
    s.unitsLost t v gone := by
  have unit := unit_of_units units
  have entry := entry_of_pools pools
  have spared {u : UnitId} (hu : gone u = false) : u ∉ us := fun c => by
    rw [only u c] at hu
    cases hu
  have asks (u : UnitId) : h.requestOf u = s.hall.requestOf u := by simp only [Hall.requestOf, requests]
  have vanished (u : UnitId) (hu : u ∈ us) : Vanished s.hall t.hall u := by
    have same : s.hall.tidy u → h.tidy u :=
      tidy_of_emptied (asks u).trans fun q e he => .inl (entry q ▸ he)
    have sole {r : SlotRef} {e : Entry} (w : s.hall.soleEntry u r e) : h.soleEntry u r e := by
      obtain ⟨he, trunk, holder, none, one⟩ := w
      exact ⟨(entry r).trans he, trunk, holder, (asks u).trans none, fun q e' he' => one q e' (entry q ▸ he')⟩
    have w := lost.vanished u hu
    exact ⟨w.asks, w.addr, by rw [w.unit, unit], w.warned, fun tidy => w.slotless (same tidy),
      fun r e y => w.granted r e (sole y), fun r e y => w.orphaned r e (sole y)⟩
  refine ⟨trunks, fun u => ?_, lost.bare.trans bare, scanner, regroup, mix, pending,
    fun u hu here => unitGone_of_vanished (vanished u (all u hu here)),
    fun u hu => by rw [lost.unit u (spared hu), unit],
    fun q e he hu => lost.kept q e ((entry q).trans he) fun u hu' holder => ?_⟩
  · rw [lost.present, unit, Bool.and_comm]
    cases here : (s.hall.unit u).present with
    | false => rfl
    | true =>
      have : us.contains u = gone u := by
        rw [Bool.eq_iff_iff, List.contains_iff_mem]
        exact ⟨only u, fun hu => all u hu here⟩
      rw [this]
  · obtain ⟨trunk, unit⟩ := holderOf_eq_some.1 holder
    have := hu u.addr unit
    rw [trunk, only u hu'] at this
    cases this

/-! ## What the trunks' losses signal (R68) -/

section
variable {f g h k : Hall} {a b : SegSet → Prop}

theorem core_port_of_bare (e : g.bare = h.bare) (p : PortId) : (g.ports[p]).core = (h.ports[p]).core :=
  congrFun (congrArg (·.2.2.2.2) e) p

/-- What is signalled stays signalled where the flag is left alone afterwards. -/
theorem signalled_then_mute {fl : Flag} (w : h.signalled g fl a) (after : Mute fl g k) (bare : k.bare = g.bare) :
    h.signalled k fl a :=
  signalled_of_mute (.refl h) w after (core_port_of_bare bare)

theorem raiseUnits_eq (h : Hall) (us : List UnitId) : raiseUnits h us = { h with ports := (raiseUnits h us).ports } :=
  foldl_keeps (P := fun g : Hall => g = { h with ports := g.ports })
    (fun g u hg => by
      split
      · rw [hg]; rfl
      · exact hg) us h rfl

@[simp] theorem raiseUnits_core (h : Hall) (us : List UnitId) : (raiseUnits h us).core = h.core :=
  fold_core h (fun g u => by split <;> simp) us

theorem raiseUnits_lost (h : Hall) (us : List UnitId) : Lost [] h (raiseUnits h us) := by
  have e := raiseUnits_eq h us
  refine .of_eq (bare_of_core (raiseUnits_core h us)) ?_ ?_ ?_ ?_ <;> rw [e]

/-- TRUNK is signalled for the seat segment of each unit (R68). -/
theorem raiseUnits_signalled (h : Hall) (us : List UnitId) : h.signalled (raiseUnits h us) .trunk fun y =>
    ∃ u ∈ us, ∃ sg, (h.unit u).seat = some sg ∧ y = setOf sg := by
  unfold raiseUnits
  generalize seats : h.unit = unit
  clear seats
  induction us generalizing h with
  | nil => exact signalled_congr (signalled_refl h _) (by simp)
  | cons u us ih =>
    have core (g : Hall) (p : PortId) : ((us.foldl (fun g u => match (unit u).seat with
        | some sg => raise .trunk (setOf sg) g
        | none => g) g).ports[p]).core = (g.ports[p]).core :=
      core_port (fold_core g (fun g u => by split <;> simp) us) p
    rw [List.foldl_cons]
    simp only [List.mem_cons, exists_eq_or_imp]
    cases (unit u).seat with
    | none => exact signalled_congr (ih h) (by simp)
    | some sg =>
      refine signalled_congr (signalled_trans (raise_signalled .trunk (setOf sg) h) (ih _) (core _)) fun y => ?_
      simp [eq_comm (a := sg)]

theorem presentOn_nodup (h : Hall) (t : TrunkId) : (presentOn h t).Nodup :=
  ((List.nodup_finRange 60).map fun _ _ e => congrArg UnitId.addr e).filter _

theorem mem_unitsOf {t : TrunkId} {u : UnitId} : u ∈ unitsOf t ↔ u.trunk = t := by
  refine ⟨fun w => ?_, fun w => List.mem_map.2 ⟨u.addr, List.mem_finRange _, by rw [← w]⟩⟩
  obtain ⟨a, -, rfl⟩ := List.mem_map.1 w
  rfl

theorem unitsOf_nodup (t : TrunkId) : (unitsOf t).Nodup :=
  (List.nodup_finRange 60).map fun _ _ e => congrArg UnitId.addr e

theorem mem_presentOn {t : TrunkId} {u : UnitId} : u ∈ presentOn h t ↔ u.trunk = t ∧ (h.unit u).present = true := by
  rw [presentOn, List.mem_filter, mem_unitsOf]

theorem loseUnits_lost (h : Hall) {us : List UnitId} (nodup : us.Nodup) : Lost us h (loseUnits h us) :=
  (raiseUnits_lost h us).trans (.makeAbsent _ nodup) (by simp)

theorem loseTrunk_lost (h : Hall) (t : TrunkId) : Lost (presentOn h t) h (loseTrunk h t) :=
  .of_raised (.makeAbsent _ (presentOn_nodup h t))

/-- TRUNK is signalled for the seat segment of each unit lost, as it was (R68). -/
theorem loseUnits_signalled (h : Hall) (us : List UnitId) : h.signalled (loseUnits h us) .trunk fun y =>
    ∃ u ∈ us, ∃ sg, (h.unit u).seat = some sg ∧ y = setOf sg :=
  signalled_then_mute (raiseUnits_signalled h us) (makeAbsent_mute _ us) (makeAbsent_bare _ us)

/-- One TRUNK event is signalled for all segments where a trunk is lost (R68). -/
theorem loseTrunk_signalled (h : Hall) (t : TrunkId) : h.signalled (loseTrunk h t) .trunk (· = 0xFF) :=
  signalled_then_mute (raise_signalled .trunk allSegs h) (makeAbsent_mute _ _) (makeAbsent_bare _ _)

theorem signalled_swept {fl : Flag} (w : h.signalled g fl a) : h.signalled (idleSweep g) fl a :=
  signalled_then_mute w (.of_ports rfl) (bare_of_core (idleSweep_core g))

end

end Sys2Proof.Machine
end

section
/-! The power of the trunks (R50 to R52): the units lost where it goes, and TRUNK-POWER by the trunk's state. -/

namespace Sys2Proof.Machine

@[simp] theorem put_put {α : Type} {n : Nat} (v : Vector α n) (i : Fin n) (x y : α) : put (put v i x) i y = put v i y :=
  table_ext fun j => by
    simp only [put_get]
    split <;> rfl

section
variable (s : State) (k : TrunkId)

theorem exec_overcurrent : exec (.overcurrent k) s = execOvercurrent k s := rfl

theorem exec_senseLineChange (chain : Bool) : exec (.senseLineChange k chain) s = execSenseLineChange k chain s := rfl

/-- Power applied to a trunk, as one state (R50). -/
theorem applyPower_eq : applyPower s k =
    { s with
      trunks := put s.trunks k { s.trunks[k] with state := .up, silent := 0, failures := 0, round := none },
      hall := raise .trunk allSegs s.hall } := rfl

/-- Power removed from a trunk, as one state (R50). -/
theorem removePower_sweep (st : TrunkState) : (removePower s k st).sweep =
    { s with
      trunks := put s.trunks k { s.trunks[k] with state := st, round := none },
      hall := idleSweep (loseTrunk s.hall k) } := rfl

end

section
variable (s : State) (k : TrunkId) (v : Vector Trunk 4)

/-- Where a trunk is lost, every PRESENT unit of it becomes ABSENT, and the other units keep what they have. -/
theorem unitsLost_of_trunk {h : Hall} (w : Lost [] s.hall h) (units : h.units = s.hall.units)
    (requests : h.requests = s.hall.requests) (pools : h.pools = s.hall.pools) :
    s.unitsLost { s with trunks := v, hall := idleSweep (loseTrunk h k) } v fun u => u.trunk = k := by
  have same := unit_of_units units
  refine unitsLost_of_lost rfl rfl rfl rfl rfl w.bare units requests pools (loseTrunk_lost h k).swept
    (fun u hu here => ?_) fun u hu => ?_
  · exact mem_presentOn.2 ⟨of_decide_eq_true hu, by rw [same, here]⟩
  · exact decide_eq_true (mem_presentOn.1 hu).1

/-- A trunk lost is signalled for all segments (R68). -/
theorem signalled_of_trunk (h : Hall) : h.signalled (idleSweep (loseTrunk h k)) .trunk fun y => y = 0xFF :=
  signalled_swept (loseTrunk_signalled h k)

end

/-- Settles O30: by the sense recorded, the mode and the trunk's state. -/
theorem powerEvents : Obligations.PowerEvents := by
  unfold Obligations.PowerEvents
  intro k s x lost
  have gone (x' : Trunk) : lost { s with trunks := put s.trunks k x', hall := idleSweep (loseTrunk s.hall k) } x' :=
    ⟨unitsLost_of_trunk s k _ (.of_eq rfl rfl rfl rfl rfl) rfl rfl rfl, signalled_of_trunk k s.hall⟩
  refine ⟨fun off => ?_, fun on => ⟨_, ?_, gone _⟩, fun chain => ⟨fun same => ?_, fun new auto up st => ⟨_, ?_, rfl⟩,
    fun new auto down on => ⟨_, ?_, gone _⟩, fun new still => ?_⟩⟩
  · rw [exec_overcurrent, execOvercurrent, if_neg (by rw [off]; decide)]
  · rw [exec_overcurrent, execOvercurrent, if_pos on]
    rfl
  · rw [exec_senseLineChange, execSenseLineChange]
    exact if_pos same
  all_goals
    rw [exec_senseLineChange, execSenseLineChange]
    refine (if_neg new).trans ?_
  · subst up
    simp only [auto, st, x] at *
    simp [applyPower_eq, State.setTrunk, allSegs]
  · subst down
    simp only [auto, on, x] at *
    simp [removePower_sweep, State.setTrunk]
  · by_cases auto : x.mode = .auto
    · have apply : ¬(chain && decide (x.state = .unpowered)) = true := by
        rcases still with c | ⟨-, c⟩ | ⟨c, -⟩
        · exact absurd auto c
        · simp [c]
        · simp [c]
      have remove : ¬(!chain && powered x.state) = true := by
        rcases still with c | ⟨c, -⟩ | ⟨-, c⟩
        · exact absurd auto c
        · simp [c]
        · simp [c]
      exact (if_pos auto).trans ((if_neg apply).trans (if_neg remove))
    · exact if_neg auto

/-! ## TRUNK-POWER (R52) -/

theorem powerOf_far {n : Nat} (far : 2 < n) : powerOf n = none := by
  match n, far with
  | _ + 3, _ => rfl

theorem powered_cases {st : TrunkState} (on : powered st = true) : st = .up ∨ st = .degraded ∨ st = .down := by
  cases st <;> simp [powered] at on ⊢

theorem unpowered_cases {st : TrunkState} (off : powered st = false) : st = .unpowered ∨ st = .tripped := by
  cases st <;> simp [powered] at off ⊢

/-- A trunk's power is wanted by its mode and its sense line (R52). -/
def Trunk.wanted (x : Trunk) : Bool := x.mode = .on || (x.mode = .auto && x.sense)

section
variable {s : State} {k : TrunkId}

theorem powerAct_apply (off : powered (s.trunks[k]).state = false) (w : (s.trunks[k]).wanted = true) :
    powerAct s k = applyPower s k := by
  rcases unpowered_cases off with st | st <;> simp only [powerAct, st]
  · exact if_pos w
  · refine (if_neg fun mode => ?_).trans (if_pos w)
    rw [Trunk.wanted, mode] at w
    cases w

theorem powerAct_remove (on : powered (s.trunks[k]).state = true) (w : (s.trunks[k]).wanted = false) :
    powerAct s k = (removePower s k .unpowered).sweep := by
  have w := ne_true_of_eq_false w
  rcases powered_cases on with st | st | st <;> simp only [powerAct, st] <;> exact if_neg w

theorem powerAct_reset (st : (s.trunks[k]).state = .tripped) (mode : (s.trunks[k]).mode = .auto)
    (sense : (s.trunks[k]).sense = false) :
    powerAct s k = (s.setTrunk k { s.trunks[k] with state := .unpowered }).raised .trunk allSegs := by
  simp only [powerAct, st, mode, sense]
  rfl

theorem powerAct_still (w : ((s.trunks[k]).state = .unpowered ∧ (s.trunks[k]).wanted = false) ∨
    ((s.trunks[k]).state = .tripped ∧ (s.trunks[k]).mode = .off) ∨
    (powered (s.trunks[k]).state = true ∧ (s.trunks[k]).wanted = true)) : powerAct s k = s := by
  rcases w with ⟨st, w⟩ | ⟨st, mode⟩ | ⟨on, w⟩
  · simp only [powerAct, st]
    exact if_neg (ne_true_of_eq_false w)
  · simp only [powerAct, st]
    exact if_pos mode
  · rcases powered_cases on with st | st | st <;> simp only [powerAct, st] <;> exact if_pos w

end

/-- The state in which TRUNK-POWER has stored the mode `m` of a trunk, a new mode being signalled (R52, R68). -/
def State.powerSet (s : State) (k : TrunkId) (m : PowerMode) : State :=
  { s with
    trunks := put s.trunks k { s.trunks[k] with mode := m },
    hall := if m = (s.trunks[k]).mode then s.hall else raise .trunk 0xFF s.hall }

theorem State.powerSet_trunk (s : State) (k : TrunkId) (m : PowerMode) :
    (s.powerSet k m).trunks[k] = { s.trunks[k] with mode := m } := put_get_self _ _ _

/-- A trunk is lost whose new mode, if any, was signalled before. -/
theorem powerSet_trunkLost (s : State) (k : TrunkId) (m : PowerMode) (v : Vector Trunk 4) :
    let t : State := { s with trunks := v, hall := idleSweep (loseTrunk (s.powerSet k m).hall k) }
    (s.unitsLost t v fun u => u.trunk = k) ∧ s.hall.signalled t.hall .trunk fun y => y = 0xFF := by
  unfold State.powerSet
  split
  · exact ⟨unitsLost_of_trunk s k v (.of_eq rfl rfl rfl rfl rfl) rfl rfl rfl, signalled_of_trunk k s.hall⟩
  · refine ⟨unitsLost_of_trunk s k v (.raise _ _ _) rfl rfl rfl, ?_⟩
    refine signalled_congr (signalled_trans (raise_signalled .trunk 0xFF s.hall) (signalled_of_trunk k _) ?_) (by simp)
    exact core_port_of_bare (loseTrunk_lost _ k).swept.bare

theorem trunkPowerBody_stored (s : State) {kb mb : Byte} {k : TrunkId} {m : PowerMode} (hk : idOf 4 kb = some k)
    (hm : powerOf mb.toNat = some m) :
    trunkPowerBody s (kb, mb) = .done false [] (powerAct (s.powerSet k m) k) := by
  simp only [trunkPowerBody, hk, hm, State.powerSet]
  split <;> rfl

/-- Settles O31: by the range of the two bytes, and then by the trunk's state, the mode given and the sense line. -/
theorem trunkPowerTable : Obligations.TrunkPowerTable := by
  unfold Obligations.TrunkPowerTable
  intro s p tag kb mb admits
  refine ⟨fun bad => congrArg Host.Outcome.next (takeCommand_refused (a := (kb, mb)) admits ?_), ?_⟩
  · unfold trunkPowerBody
    rcases bad with none | far
    · simp only [none]
    · simp only [powerOf_far far]
      cases idOf 4 kb <;> rfl
  intro k m hk hm x wanted stored answers
  have mode : powerOf mb.toNat = some m := by
    rcases hm with ⟨rfl, rfl⟩ | ⟨rfl, rfl⟩ | ⟨rfl, rfl⟩ <;> rfl
  have act {t : State} (e : powerAct (s.powerSet k m) k = t) : answers t :=
    congrArg Host.Outcome.next
      (takeCommand_done (c := false) (l := []) admits ((trunkPowerBody_stored s hk mode).trans (e ▸ rfl)))
  have held := s.powerSet_trunk k m
  have want : ((s.powerSet k m).trunks[k]).wanted = decide wanted := by
    rw [held]
    simp [Trunk.wanted, wanted, x]
  refine ⟨fun still => act (powerAct_still ?_), fun off w => act ?_, fun st auto sense => act ?_,
    fun on w => ⟨_, act (powerAct_remove ?_ ?_), ?_⟩⟩
  · rw [want, held, decide_eq_true_iff, decide_eq_false_iff_not]
    exact still
  · rw [powerAct_apply (by rw [held]; exact off) (by rw [want]; exact decide_eq_true w)]
    simp only [applyPower_eq, State.powerSet, put_put, put_get_self]
    rfl
  · rw [powerAct_reset (by rw [held]; exact st) (by rw [held]; exact auto) (by rw [held]; exact sense)]
    simp only [State.powerSet, State.setTrunk, State.raised, put_put, put_get_self]
    rfl
  · rw [held]; exact on
  · rw [want]; exact decide_eq_false w
  · rw [removePower_sweep, held]
    simp only [State.powerSet, put_put]
    exact powerSet_trunkLost s k m _

end Sys2Proof.Machine
end

section
/-! The end of a poll round (R62, R64): the confirmation counts lowered, the units lost to a spent count or with the
trunk, and the trunk's state. -/

namespace Sys2Proof.Machine

/-! ## The confirmation counts -/

/-- An address record whose confirmation count is lowered by one (R62). -/
def AddrRec.lowered (a : AddrRec) : AddrRec := { a with confirm := a.confirm.map (· - 1) }

/-- The hall in which the confirmation counts of `us` are lowered (R64). -/
def lowered (h : Hall) (us : List UnitId) : Hall := us.foldl (fun g u => g.setAddr u (g.addr u).lowered) h

/-- The units of a trunk whose confirmation count the round end brings to 0 (R64). -/
def spentOn (h : Hall) (k : TrunkId) (fresh : List AddrIx) : List UnitId :=
  (confirming h k fresh).filter fun u => (h.addr u).confirm.getD 0 ≤ 1

section
variable (h : Hall) (k : TrunkId) (fresh : List AddrIx)

theorem lowerConfirms_eq : lowerConfirms h k fresh =
    loseUnits (lowered h (confirming h k fresh)) (spentOn h k fresh) := rfl

theorem mem_confirming {u : UnitId} : u ∈ confirming h k fresh ↔
    (u.trunk = k && (h.addr u).confirm.isSome && !fresh.contains u.addr) = true := by
  rw [confirming, List.mem_filter, mem_unitsOf]
  simp [and_assoc]

theorem mem_spentOn {u : UnitId} : u ∈ spentOn h k fresh ↔
    u ∈ confirming h k fresh ∧ (h.addr u).confirm.getD 0 ≤ 1 := by
  rw [spentOn, List.mem_filter, decide_eq_true_iff]

theorem confirming_nodup : (confirming h k fresh).Nodup := (unitsOf_nodup k).filter _

theorem spentOn_nodup : (spentOn h k fresh).Nodup := (confirming_nodup h k fresh).filter _

theorem lowered_eq (us : List UnitId) : lowered h us = { h with addrs := (lowered h us).addrs } :=
  foldl_keeps (P := fun g : Hall => g = { h with addrs := g.addrs }) (fun g u hg => by rw [hg]; rfl) us h rfl

theorem lowered_other {us : List UnitId} {v : UnitId} (hv : v ∉ us) : (lowered h us).addr v = h.addr v := by
  induction us generalizing h with
  | nil => rfl
  | cons u us ih =>
    rw [lowered, List.foldl_cons, ← lowered, ih _ fun c => hv (.tail _ c),
      Hall.setAddr_addr_ne _ _ fun c => hv (by simp [c])]

theorem lowered_self {us : List UnitId} (nodup : us.Nodup) {u : UnitId} (hu : u ∈ us) :
    (lowered h us).addr u = (h.addr u).lowered := by
  obtain ⟨a, b, rfl, ha, hb⟩ := append_of_mem_nodup nodup hu
  have split : lowered h (a ++ u :: b) = lowered (lowered h a |>.setAddr u ((lowered h a).addr u).lowered) b := by
    rw [lowered, List.foldl_append, List.foldl_cons]
    rfl
  rw [split, lowered_other _ hb, Hall.setAddr_addr, lowered_other h ha]

/-- Every count of a trunk that runs, and was not started in the round, is lowered; the rest stays (R62). -/
theorem lowered_addr (u : UnitId) : (lowered h (confirming h k fresh)).addr u =
    { h.addr u with
      confirm :=
        if u.trunk = k && (h.addr u).confirm.isSome && !fresh.contains u.addr then (h.addr u).confirm.map (· - 1)
        else (h.addr u).confirm } := by
  split
  · next w =>
    exact lowered_self h (confirming_nodup h k fresh) ((mem_confirming h k fresh).2 w)
  · next w =>
    exact lowered_other h fun c => w ((mem_confirming h k fresh).1 c)

theorem lowerConfirms_lost : Lost (spentOn h k fresh) (lowered h (confirming h k fresh)) (lowerConfirms h k fresh) :=
  loseUnits_lost _ (spentOn_nodup h k fresh)

/-- TRUNK is signalled for the seat segment of each unit whose count is spent (R68). -/
theorem lowerConfirms_signalled : h.signalled (lowerConfirms h k fresh) .trunk fun y =>
    ∃ u ∈ spentOn h k fresh, ∃ sg, (h.unit u).seat = some sg ∧ y = setOf sg := by
  have w := loseUnits_signalled (lowered h (confirming h k fresh)) (spentOn h k fresh)
  rw [← lowerConfirms_eq] at w
  rw [lowered_eq] at w
  exact w

end

/-! ## The trunk's state (R64) -/

/-- The hall where a trunk's state goes from `old` to `new` at a round end: a change is signalled, and with DOWN every
PRESENT unit of the trunk becomes ABSENT (R64, R68). -/
def turned (h : Hall) (k : TrunkId) (old new : TrunkState) : Hall :=
  if new = old then h else if new = .down then loseTrunk h k else raise .trunk allSegs h

/-- The units that a change of a trunk's state loses. -/
def turnedLosses (h : Hall) (k : TrunkId) (old new : TrunkState) : List UnitId :=
  if new = .down && old ≠ .down then presentOn h k else []

section
variable (h : Hall) (k : TrunkId) (old new : TrunkState)

theorem turned_lost : Lost (turnedLosses h k old new) h (turned h k old new) := by
  unfold turned turnedLosses
  by_cases same : new = old
  · subst same
    rw [if_pos rfl, if_neg (by simp)]
    exact .of_eq rfl rfl rfl rfl rfl
  · rw [if_neg same]
    by_cases down : new = .down
    · subst down
      rw [if_pos rfl, if_pos (by simpa using fun c => same c.symm)]
      exact loseTrunk_lost h k
    · rw [if_neg down, if_neg (by simp [down])]
      exact .raise _ _ _

theorem turned_signalled : h.signalled (turned h k old new) .trunk fun y => new ≠ old ∧ y = 0xFF := by
  unfold turned
  by_cases same : new = old
  · rw [if_pos same]
    exact signalled_congr (signalled_refl h _) (by simp [same])
  · rw [if_neg same]
    refine signalled_congr (a := (· = 0xFF)) ?_ (by simp [same])
    split
    · exact loseTrunk_signalled h k
    · exact raise_signalled .trunk allSegs h

end

/-- The silent rounds of a trunk after a round (R64). -/
def Trunk.silentAfter (x : Trunk) (good : Bool) : Nat := if good then x.silent else min 3 (x.silent + 1)

section
variable (s : State) (k : TrunkId) (rd : Round)

/-- A trunk's state after a round (R64). -/
def Trunk.turns (x : Trunk) (good : Bool) : TrunkState := healthAfter x.state (x.silentAfter good) x.failures

/-- The units that a round end loses. -/
def roundLosses : List UnitId :=
  spentOn s.hall k rd.fresh ++
    turnedLosses (lowerConfirms s.hall k rd.fresh) k (s.trunks[k]).state ((s.trunks[k]).turns rd.good)

theorem endRound_hall : (endRound s k rd).hall = idleSweep
    (turned (lowerConfirms s.hall k rd.fresh) k (s.trunks[k]).state ((s.trunks[k]).turns rd.good)) := rfl

theorem endRound_trunks : (endRound s k rd).trunks = put s.trunks k
    { s.trunks[k] with
      silent := (s.trunks[k]).silentAfter rd.good, state := (s.trunks[k]).turns rd.good, round := none } := rfl

theorem endRound_lost :
    Lost (roundLosses s k rd) (lowered s.hall (confirming s.hall k rd.fresh)) (endRound s k rd).hall := by
  have first := lowerConfirms_lost s.hall k rd.fresh
  refine (first.trans (turned_lost _ k _ _) fun u hu c => ?_).swept
  have here : ((lowerConfirms s.hall k rd.fresh).unit u).present = true := by
    unfold turnedLosses at c
    split at c
    · exact (mem_presentOn.1 c).2
    · cases c
  rw [first.absent hu] at here
  cases here

/-- The units that a round end loses are those of the trunk, by a spent count or with the power. -/
theorem mem_roundLosses {u : UnitId} : u ∈ roundLosses s k rd ↔ u ∈ spentOn s.hall k rd.fresh ∨
    (u.trunk = k ∧ (s.hall.unit u).present = true ∧ (s.trunks[k]).turns rd.good = .down ∧
      (s.trunks[k]).state ≠ .down) := by
  have first := lowerConfirms_lost s.hall k rd.fresh
  have same : (lowered s.hall (confirming s.hall k rd.fresh)).unit u = s.hall.unit u := by
    rw [lowered_eq]
    rfl
  rw [roundLosses, List.mem_append, turnedLosses]
  by_cases spent : u ∈ spentOn s.hall k rd.fresh
  · simp [spent]
  · split
    · next turns =>
      simp only [Bool.and_eq_true, decide_eq_true_iff] at turns
      simp only [mem_presentOn, first.present, List.contains_eq_mem, spent, decide_false, Bool.not_false, Bool.true_and,
        same, false_or]
      exact ⟨fun ⟨trunk, here⟩ => ⟨trunk, here, turns⟩, fun ⟨trunk, here, _⟩ => ⟨trunk, here⟩⟩
    · next turns =>
      simp only [Bool.and_eq_true, decide_eq_true_iff] at turns
      simp only [List.not_mem_nil, or_false, spent, false_or, false_iff]
      exact fun ⟨_, _, c⟩ => turns c

theorem endRound_unitsLost {gone : UnitId → Bool}
    (all : ∀ u, gone u = true → (s.hall.unit u).present = true → u ∈ roundLosses s k rd)
    (only : ∀ u ∈ roundLosses s k rd, gone u = true) :
    s.unitsLost (endRound s k rd) (endRound s k rd).trunks gone := by
  have e := lowered_eq s.hall (confirming s.hall k rd.fresh)
  refine unitsLost_of_lost rfl rfl rfl rfl rfl ?_ ?_ ?_ ?_ (endRound_lost s k rd) all only <;> rw [e]
  rfl

/-- A unit that a round end does not lose keeps its address record, but for its count and a GRANT it is given. -/
theorem endRound_addr {u : UnitId} (hu : u ∉ roundLosses s k rd) :
    ∃ o, (o = (s.hall.addr u).floorOrder ∨ ∃ j, o = some (.grant j)) ∧ (endRound s k rd).hall.addr u =
      { s.hall.addr u with
        confirm :=
          if u.trunk = k && (s.hall.addr u).confirm.isSome && !rd.fresh.contains u.addr then
            (s.hall.addr u).confirm.map (· - 1)
          else (s.hall.addr u).confirm,
        floorOrder := o } := by
  obtain ⟨o, ho, e⟩ := (endRound_lost s k rd).addr u hu
  rw [lowered_addr] at e ho
  exact ⟨o, ho, e⟩

/-- Where a round end loses no unit and no power, the counts alone are lowered. -/
theorem endRound_addr_kept (none : spentOn s.hall k rd.fresh = [])
    (still : ¬((s.trunks[k]).turns rd.good = .down ∧ (s.trunks[k]).state ≠ .down)) (u : UnitId) :
    (endRound s k rd).hall.addr u = (lowered s.hall (confirming s.hall k rd.fresh)).addr u := by
  have first : lowerConfirms s.hall k rd.fresh = lowered s.hall (confirming s.hall k rd.fresh) := by
    rw [lowerConfirms_eq, none]
    rfl
  rw [endRound_hall, first, turned, addr_of_addrs (idleSweep_addrs _)]
  split
  · rfl
  · next turns =>
    rw [if_neg fun down => still ⟨down, fun c => turns (down.trans c.symm)⟩]
    rfl

theorem endRound_signalled : s.hall.signalled (endRound s k rd).hall .trunk fun y =>
    ((s.trunks[k]).turns rd.good ≠ (s.trunks[k]).state ∧ y = 0xFF) ∨
      ∃ u ∈ spentOn s.hall k rd.fresh, ∃ sg, (s.hall.unit u).seat = some sg ∧ y = setOf sg := by
  have second := turned_lost (lowerConfirms s.hall k rd.fresh) k (s.trunks[k]).state ((s.trunks[k]).turns rd.good)
  exact signalled_congr (signalled_trans (lowerConfirms_signalled s.hall k rd.fresh)
    (signalled_swept (turned_signalled _ k _ _)) (core_port_of_bare second.swept.bare)) fun y => or_comm

end

/-! ## ROUND_END and the expiry of a confirmation count -/

theorem exec_roundEnd (s : State) (k : TrunkId) : exec (.roundEnd k) s = execRoundEnd k s := rfl

theorem exec_confirmationCountExpiry (s : State) (u : UnitId) :
    exec (.confirmationCountExpiry u) s = execConfirmationCountExpiry u s := rfl

/-- Where a unit is lost, it becomes ABSENT if it was PRESENT, and the other units keep what they have. -/
theorem unitsLost_of_unit {s : State} {h : Hall} (u : UnitId) (v : Vector Trunk 4) (bare : h.bare = s.hall.bare)
    (units : h.units = s.hall.units) (requests : h.requests = s.hall.requests) (pools : h.pools = s.hall.pools) :
    s.unitsLost { s with trunks := v, hall := idleSweep (loseUnits h [u]) } v fun v => v = u :=
  unitsLost_of_lost rfl rfl rfl rfl rfl bare units requests pools (loseUnits_lost h (List.nodup_singleton u)).swept
    (fun _ hv _ => by simpa using hv) (fun _ hv => by simpa using hv)

/-- TRUNK is signalled for the seat segment of a unit lost (R68). -/
theorem signalled_of_unit (h : Hall) (u : UnitId) : h.signalled (idleSweep (loseUnits h [u])) .trunk fun y =>
    ∃ sg, (h.unit u).seat = some sg ∧ y = setOf sg :=
  signalled_congr (signalled_swept (loseUnits_signalled h [u])) (by simp)

/-- Settles O37: the units lost, the records kept and the events signalled by the round end, and the loss of the one
unit whose count expires. -/
theorem roundEndAndConfirmation : Obligations.RoundEndAndConfirmation := by
  unfold Obligations.RoundEndAndConfirmation
  refine ⟨fun k s none => ?_, fun k s rd hrd => ?_, fun u s => ⟨fun none => ?_,
    fun runs => ⟨s.floorHall (loseUnits s.hall [u]), ?_, ?_⟩⟩⟩
  · rw [exec_roundEnd, execRoundEnd]
    simp only [none]
  · intro x silent state counting gone
    have turns : x.turns rd.good = state := by
      simp only [state, Trunk.turns, healthAfter]
      cases x.state <;> rfl
    have spent (u : UnitId) : u ∈ spentOn s.hall k rd.fresh ↔
        counting u = true ∧ (s.hall.addr u).confirm.getD 0 ≤ 1 := by
      rw [mem_spentOn, mem_confirming]
    have on {u : UnitId} (w : counting u = true) : u.trunk = k := by
      simp only [counting, Bool.and_eq_true, decide_eq_true_iff] at w
      exact w.1.1
    have gone_iff (u : UnitId) : gone u = true ↔ u.trunk = k ∧ ((state = .down ∧ x.state ≠ .down) ∨
        (counting u = true ∧ (s.hall.addr u).confirm.getD 0 ≤ 1)) := by
      simp only [gone, Bool.and_eq_true, Bool.or_eq_true, decide_eq_true_iff]
    have losses (u : UnitId) : u ∈ roundLosses s k rd ↔ (counting u = true ∧ (s.hall.addr u).confirm.getD 0 ≤ 1) ∨
        (u.trunk = k ∧ (s.hall.unit u).present = true ∧ state = .down ∧ x.state ≠ .down) := by
      rw [mem_roundLosses, spent, ← turns]
    have lost (u : UnitId) (hu : u ∈ roundLosses s k rd) : gone u = true := by
      rcases (losses u).1 hu with w | ⟨trunk, -, down⟩
      · exact (gone_iff u).2 ⟨on w.1, .inr w⟩
      · exact (gone_iff u).2 ⟨trunk, .inl down⟩
    refine ⟨endRound s k rd, ?_, ?_, fun kept u => ?_, fun u hu => ?_, ?_⟩
    · rw [exec_roundEnd, execRoundEnd]
      simp only [hrd]
    · have w := endRound_unitsLost s k rd (gone := gone) (fun u hu here => ?_) lost
      · rw [endRound_trunks, turns] at w
        exact w
      · obtain ⟨trunk, down | w⟩ := (gone_iff u).1 hu
        · exact (losses u).2 (.inr ⟨trunk, here, down⟩)
        · exact (losses u).2 (.inl w)
    · have left (u : UnitId) : ¬gone u = true := by rw [kept u]; decide
      rw [endRound_addr_kept, lowered_addr]
      · refine List.eq_nil_iff_forall_not_mem.2 fun u hu => left u (lost u ?_)
        exact List.mem_append_left _ hu
      · rw [turns]
        exact fun down => left ⟨k, 0⟩ ((gone_iff _).2 ⟨rfl, .inl down⟩)
    · exact endRound_addr s k rd fun c => by
        rw [lost u c] at hu
        cases hu
    · refine signalled_congr (endRound_signalled s k rd) fun y => ?_
      rw [turns]
      simp only [spent, and_assoc, exists_and_left]
      exact Iff.rfl
  · rw [exec_confirmationCountExpiry, execConfirmationCountExpiry, none]
    rfl
  · rw [exec_confirmationCountExpiry, execConfirmationCountExpiry, if_pos (Option.isSome_iff_ne_none.2 runs)]
  · exact ⟨unitsLost_of_unit u s.trunks rfl rfl rfl rfl, signalled_of_unit s.hall u⟩

/-! ## POLL_ROUND_START (R53) -/

theorem exec_pollRoundStart (s : State) (k : TrunkId) : exec (.pollRoundStart k) s = execPollRoundStart k s := rfl

/-- The polls of a round: the PRESENT addresses in ascending order (R53). -/
theorem presentOn_polls (h : Hall) (k : TrunkId) : (presentOn h k).map (fun u => (u.addr, false)) =
    ((List.finRange 60).filter fun a => (h.unit { trunk := k, addr := a }).present).map fun a => (a, false) := by
  rw [presentOn, unitsOf, List.filter_map, List.map_map]
  rfl

/-- The probes of a round: ABSENT addresses after the pointer, and from 1 again (R53). -/
theorem probeList_order (h : Hall) (k : TrunkId) (x : Trunk) : probeList h k x =
    (let absent := (List.finRange 60).filter fun a => !(h.unit { trunk := k, addr := a }).present
     (absent.filter fun a => x.pointer < a.val + 1) ++ absent.filter fun a => a.val + 1 ≤ x.pointer).take x.probes := by
  simp only [probeList, Nat.lt_succ_iff, Nat.succ_le_iff]

/-- A trunk's state after a round without a good reply or a failure (R64). -/
theorem turns_silent {x : Trunk} (on : powered x.state = true) (none : x.failures = 0) :
    x.turns false = if x.state = .down ∨ x.silentAfter false = 3 then .down else .up := by
  rcases powered_cases on with st | st | st <;> simp [Trunk.turns, healthAfter, st, none]

/-- Settles O32: the trunk unpowered, the round that polls or probes, and the silent round. -/
theorem pollRoundStart : Obligations.PollRoundStart := by
  unfold Obligations.PollRoundStart
  intro k s x present absent order probes pointer
  have probed : probeList s.hall k s.trunks[k] = probes := probeList_order s.hall k x
  let rd : Round :=
    { todo := (present.map fun a => (a, false)) ++ probes.map fun a => (a, true), sent := none, good := false,
      fresh := [] }
  let s1 : State := { s with trunks := put s.trunks k { x with failures := 0, pointer := pointer, round := some rd } }
  have begun (on : powered x.state = true) :
      exec (.pollRoundStart k) s = if rd.todo.isEmpty then .next (endRound s1 k rd) else .next s1 := by
    rw [exec_pollRoundStart, execPollRoundStart]
    refine (if_pos on).trans ?_
    simp only [presentOn_polls, probed]
    rfl
  refine ⟨fun off => ?_, fun on busy => ⟨s1, ?_, rfl⟩, fun on nobody empty => ?_⟩
  · rw [exec_pollRoundStart, execPollRoundStart]
    exact if_neg (by rw [off]; decide)
  · refine (begun on).trans (if_neg fun c => ?_)
    simp only [rd, List.isEmpty_iff, List.append_eq_nil_iff, List.map_eq_nil_iff] at c
    exact busy.elim (fun w => w c.1) fun w => w c.2
  · intro silent state counting spent
    have held : s1.trunks[k] = { x with failures := 0, pointer := pointer, round := some rd } := put_get_self _ _ _
    have turns : (s1.trunks[k]).turns rd.good = state := by
      rw [held]
      exact turns_silent on rfl
    have lost (u : UnitId) : u ∈ spentOn s.hall k rd.fresh ↔ spent u = true := by
      rw [mem_spentOn, mem_confirming]
      simp [spent, counting, rd]
    have losses (u : UnitId) : u ∈ roundLosses s1 k rd ↔ spent u = true := by
      rw [mem_roundLosses]
      refine ⟨fun w => w.elim (lost u).1 fun ⟨trunk, here, _⟩ => ?_, fun w => .inl ((lost u).2 w)⟩
      have : u.addr ∈ present := List.mem_filter.2 ⟨List.mem_finRange _, by rw [← trunk]; exact here⟩
      rw [nobody] at this
      cases this
    refine ⟨endRound s1 k rd, ?_, ?_, fun u hu => ?_, ?_⟩
    · refine (begun on).trans (if_pos ?_)
      simp only [rd, nobody, empty]
      rfl
    · have w := endRound_unitsLost s1 k rd (gone := spent) (fun u hu _ => (losses u).2 hu) fun u => (losses u).1
      have trunks : (endRound s1 k rd).trunks =
          put s.trunks k { x with failures := 0, silent := silent, state := state, round := none } := by
        rw [endRound_trunks, turns, held]
        simp only [s1, put_put, pointer, empty]
        rfl
      rw [trunks] at w
      exact w
    · have w := endRound_addr s1 k rd (u := u) fun c => by
        rw [(losses u).1 c] at hu
        cases hu
      simp only [rd, List.contains_nil, Bool.not_false, Bool.and_true] at w
      exact w
    · refine signalled_congr (endRound_signalled s1 k rd) fun y => ?_
      rw [turns, held]
      simp only [s1, lost, exists_and_left]

end Sys2Proof.Machine
end

section
/-! The polls of a round: the order a poll carries and its five bytes (R53, R56, R69). -/

namespace Sys2Proof.Machine

section
variable (s : State) (k : TrunkId)

theorem exec_pollSend : exec (.pollSend k) s = execPollSend k s := rfl

/-- A round with its list of polls in the record of its trunk. -/
theorem Trunk.round_eta {x : Trunk} {rd : Round} (w : x.round = some rd) : { x with round := some rd } = x := by
  rw [← w]

variable {s k} {rd : Round}

theorem execPollSend_none (round : (s.trunks[k]).round = none) : execPollSend k s = .next s := by
  simp only [execPollSend, round]

theorem execPollSend_awaiting (round : (s.trunks[k]).round = some rd) (sent : rd.sent ≠ none) :
    execPollSend k s = .next s := by
  simp only [execPollSend, round]
  exact if_pos (Option.isSome_iff_ne_none.2 sent)

/-- POLL_SEND of a round that awaits no reply. -/
theorem execPollSend_round (round : (s.trunks[k]).round = some rd) (sent : rd.sent = none) : execPollSend k s =
    .next (s.setTrunk k (match nextPoll s.hall k rd.todo with
      | none => { s.trunks[k] with round := some { rd with todo := [] } }
      | some (p, rest) =>
        let o := if p.2 then none else orderFor s.hall { trunk := k, addr := p.1 }
        { s.trunks[k] with
          round := some { rd with todo := rest, sent := some { addr := p.1, probe := p.2, order := o } },
          pollOut := pollBytes p.1 o })) := by
  simp only [execPollSend, round, sent]
  cases nextPoll s.hall k rd.todo <;> rfl

end

/-! ## The order a poll carries (R56) -/

section
variable (h : Hall) (u : UnitId)

theorem heldBack_iff : heldBack h u = true ↔ ∃ j v, (h.addr u).floorOrder = some (.grant j) ∧ v.trunk = u.trunk ∧
    v ≠ u ∧ (h.addr v).lastMic = some j := by
  unfold heldBack
  split
  · next j order =>
    simp [order, List.any_eq_true, mem_unitsOf]
  · next other =>
    simp only [Bool.false_eq_true, false_iff]
    rintro ⟨j, v, order, -⟩
    exact other j order

theorem orderFor_held (w : heldBack h u = true) : orderFor h u = (h.addr u).notice.map .notice := by
  unfold orderFor
  split
  · exact if_pos w
  · rfl

theorem orderFor_free (w : heldBack h u = false) :
    orderFor h u = ((h.addr u).floorOrder.map Order.floor).or ((h.addr u).notice.map .notice) := by
  unfold orderFor
  split
  · next order =>
    rw [if_neg (by rw [w]; decide), order]
    rfl
  · next order =>
    rw [order]
    rfl

end

/-! ## The bytes of a poll (R69) -/

/-- The order byte of Table 3-1 as a number. -/
theorem orderByte_toNat (o : Option Order) : (orderByte o).toNat = match o with
    | none => 0
    | some (.floor (.grant j)) => 16 + j.val
    | some (.floor .release) => 32
    | some (.floor .deny) => 48
    | some (.notice .warn) => 64
    | some (.notice .clearWarn) => 80 := by
  rcases o with _ | (j | _ | _) | _ | _
  case some.floor.grant =>
    have base : (0x10 : Byte).toNat = 16 := rfl
    simp only [orderByte, BitVec.toNat_add, BitVec.toNat_ofNat, base]
    omega
  all_goals rfl

theorem addrByte_toNat (a : AddrIx) : (BitVec.ofNat 8 (a.val + 1)).toNat = a.val + 1 := by
  rw [BitVec.toNat_ofNat]
  omega

theorem checkByte_sums (a b : Byte) : a + b + (0 - (a + b)) = 0 := add_sub_cancel _ _

/-- Settles O33: outside a round, while a reply is awaited, with no poll left, with one skipped and with one sent. -/
theorem pollSend : Obligations.PollSend := by
  unfold Obligations.PollSend
  intro k s x
  refine ⟨fun round => ?_, fun rd round => ⟨fun sent => ?_, fun sent done => ?_, fun a rest sent list gone => ?_,
    fun a probe rest sent list goes => ?_⟩⟩
  · exact execPollSend_none round
  · exact execPollSend_awaiting round sent
  · have same : { rd with todo := [] } = rd := by rw [← done]
    rw [exec_pollSend, execPollSend_round round sent, done]
    simp only [nextPoll, same, State.setTrunk]
    rw [Trunk.round_eta round, put_read]
  · have skip : nextPoll s.hall k rd.todo = nextPoll s.hall k rest := by
      rw [list, nextPoll]
      exact if_neg (by simp [gone])
    let s' : State := { s with trunks := put s.trunks k { x with round := some { rd with todo := rest } } }
    have held : s'.trunks[k] = { x with round := some { rd with todo := rest } } := put_get_self _ _ _
    rw [exec_pollSend, exec_pollSend, execPollSend_round round sent,
      execPollSend_round (s := s') (rd := { rd with todo := rest }) (by rw [held]) sent, held, skip]
    simp only [s', State.setTrunk, put_put]
    rfl
  · intro u held
    have held_iff : heldBack s.hall u = true ↔ held := heldBack_iff s.hall u
    have next : nextPoll s.hall k rd.todo = some ((a, probe), rest) := by
      rw [list, nextPoll]
      exact if_pos (by simpa using goes)
    refine ⟨if probe then none else orderFor s.hall u, _, _, _, ?_, fun asks => if_pos asks, fun poll back => ?_,
      fun poll free => ?_, addrByte_toNat a, checkByte_sums _ _, orderByte_toNat _⟩
    · rw [exec_pollSend, execPollSend_round round sent, next]
      rfl
    · rw [if_neg (by rw [poll]; decide), orderFor_held _ _ (held_iff.2 back)]
    · rw [if_neg (by rw [poll]; decide), orderFor_free _ _ (Bool.eq_false_iff.2 fun c => free (held_iff.1 c))]

end Sys2Proof.Machine
end

section
/-! Replies that fail (R57, R59): the checks in order, the counters, and the misses of a unit. -/

namespace Sys2Proof.Machine

/-! ## The checks of a reply (Table 3-2) -/

section
variable (a : AddrIx) (full : Bool)

theorem checkReply_late {rx : List Byte} (w : rx.head? ≠ some 0xC3) : checkReply a full rx = .error .late := if_pos w

theorem checkReply_long {rx : List Byte} (start : rx.head? = some 0xC3) (long : rx.length ≠ 7) :
    checkReply a full rx = .error .framing := by
  unfold checkReply
  refine (if_neg (not_not_intro start)).trans ?_
  split
  · exact absurd rfl long
  · rfl

/-- The checks of a reply of seven bytes that begins with the start marker. -/
theorem checkReply_seven (ab st la se ck stop : Byte) : checkReply a full [0xC3, ab, st, la, se, ck, stop] =
    if stop ≠ Config.stopMarker || ab.toNat ≠ a.val + 1 then .error .framing
    else if ab + st + la + se + ck ≠ 0 then .error .check
    else if full then .error .overrun
    else .ok (reportOf st la se) := if_neg (not_not_intro rfl)

end

/-! ## What a failure counts (R57, R59) -/

theorem Trunk.failed_eq (x : Trunk) (f : Failure) : x.failed f =
    { x with
      failures := x.failures + 1,
      cLate := if f = .late then min 65535 (x.cLate + 1) else x.cLate,
      cFraming := if f = .framing then min 65535 (x.cFraming + 1) else x.cFraming,
      cCheck := if f = .check then min 65535 (x.cCheck + 1) else x.cCheck,
      cOverrun := if f = .overrun then min 65535 (x.cOverrun + 1) else x.cOverrun } := by
  cases f <;> rfl

section
variable {h : Hall} {u : UnitId}

theorem missUnit_absent (gone : (h.unit u).present = false) : missUnit h u = h := if_neg (by rw [gone]; decide)

theorem missUnit_first (here : (h.unit u).present = true) (few : (h.addr u).miss < 2) :
    missUnit h u = h.setAddr u { h.addr u with miss := (h.addr u).miss + 1 } :=
  (if_pos here).trans (if_pos (by omega))

theorem missUnit_third (here : (h.unit u).present = true) (many : 2 ≤ (h.addr u).miss) :
    missUnit h u = loseUnits h [u] := (if_pos here).trans (if_neg (by omega))

end

section
variable {s : State} {k : TrunkId} {rx : List Byte} {rd : Round} {sent : Sent}

theorem execPollReply_unawaited
    (w : (s.trunks[k]).round = none ∨ ∃ rd, (s.trunks[k]).round = some rd ∧ rd.sent = none) :
    execPollReply k rx s = .next s := by
  rcases w with round | ⟨rd, round, sent⟩
  · simp only [execPollReply, round]
  · simp only [execPollReply, round, sent]

/-- The state in which a trunk awaits no reply to the poll of the round `rd`. -/
def State.unawaited (s : State) (k : TrunkId) (rd : Round) : State :=
  s.setTrunk k { s.trunks[k] with round := some { rd with sent := none } }

theorem execPollReply_failed (round : (s.trunks[k]).round = some rd) (awaited : rd.sent = some sent) {f : Failure}
    (w : checkReply sent.addr (s.trunks[k]).handOver.isSome rx = .error f) :
    execPollReply k rx s = .next (badReply (s.unawaited k rd) k sent f) := by
  simp only [execPollReply, round, awaited, w]
  rfl

theorem execPollReply_good (round : (s.trunks[k]).round = some rd) (awaited : rd.sent = some sent) {r : Report}
    (w : checkReply sent.addr (s.trunks[k]).handOver.isSome rx = .ok r) :
    execPollReply k rx s = .next (goodReply (s.unawaited k rd) k sent r) := by
  simp only [execPollReply, round, awaited, w]
  rfl

theorem badReply_emptyProbe {f : Failure} (probe : sent.probe = true) (late : f = .late) :
    badReply s k sent f = s := if_pos (by simp [probe, late])

theorem badReply_probe {f : Failure} (probe : sent.probe = true) (late : f ≠ .late) :
    badReply s k sent f = s.setTrunk k ((s.trunks[k]).failed f) :=
  (if_neg (by simp [late])).trans (if_pos probe)

theorem badReply_poll {f : Failure} (poll : sent.probe = false) : badReply s k sent f =
    (s.setTrunk k ((s.trunks[k]).failed f)).floorHall (missUnit s.hall { trunk := k, addr := sent.addr }) :=
  (if_neg (by simp [poll])).trans (if_neg (by simp [poll]))

end

/-- Settles O34: the checks one by one, and then the failure of a probe and of a poll, by the misses of its unit. -/
theorem pollReplyFails : Obligations.PollReplyFails := by
  unfold Obligations.PollReplyFails
  refine ⟨fun a full _ => checkReply_late a full, fun a full _ => checkReply_long a full,
    fun a full ab st la se ck stop => ?_, fun k s rx => ⟨fun w => ?_, fun rd sent f round awaited failed => ?_⟩⟩
  · intro reply framed
    have reply_eq : reply = _ := checkReply_seven a full ab st la se ck stop
    have frame : (stop ≠ Config.stopMarker || ab.toNat ≠ a.val + 1) = true ↔ ¬framed := by
      simp only [Bool.or_eq_true, decide_eq_true_iff, framed, Classical.not_and_iff_not_or_not]
      exact Iff.rfl
    rw [reply_eq]
    refine ⟨fun w => if_pos (frame.2 w), fun w sum => ?_, fun w sum busy => ?_, fun w sum busy => ?_⟩
    all_goals refine (if_neg fun c => frame.1 c w).trans ?_
    · exact if_pos sum
    · exact (if_neg (not_not_intro sum)).trans (if_pos busy)
    · exact (if_neg (not_not_intro sum)).trans (if_neg (by rw [busy]; decide))
  · exact execPollReply_unawaited w
  · intro u idle trunks
    let lost : State := { s with trunks := trunks, hall := idleSweep (loseUnits s.hall [u]) }
    have out : exec (.pollReply k rx) s = _ := execPollReply_failed round awaited failed
    have counted : (s.unawaited k rd).setTrunk k (((s.unawaited k rd).trunks[k]).failed f) =
        { s with trunks := trunks } := by
      simp only [State.unawaited, State.setTrunk, put_put, put_get_self, Trunk.failed_eq]
      rfl
    have missed (poll : sent.probe = false) : badReply (s.unawaited k rd) k sent f =
        { s with trunks := trunks, hall := idleSweep (missUnit s.hall u) } := by
      rw [badReply_poll poll, counted]
      rfl
    rw [out]
    refine ⟨fun probe late => ?_, fun probe late => ?_, fun poll here few => ?_, fun poll here many => ⟨lost, ?_,
      unitsLost_of_unit u trunks rfl rfl rfl rfl, signalled_of_unit s.hall u⟩,
      fun poll gone => ?_⟩
    · rw [badReply_emptyProbe probe late]
      rfl
    · rw [badReply_probe probe late, counted]
    · rw [missed poll, missUnit_first here few]
    · rw [missed poll, missUnit_third here many]
    · rw [missed poll, missUnit_absent gone]

end Sys2Proof.Machine
end

section
/-! A good reply (R58, R60, R62, R63): the address record it leaves, the mic report and the hand-over, and a unit
found. -/

namespace Sys2Proof.Machine

/-! ## Address records written again -/

section
variable (h : Hall) (u : UnitId)

@[simp] theorem setAddr_setAddr (a b : AddrRec) : (h.setAddr u a).setAddr u b = h.setAddr u b := by
  simp only [Hall.setAddr, put_put, put_get_self]

@[simp] theorem setAddr_self : h.setAddr u (h.addr u) = h := by
  simp only [Hall.setAddr, Hall.addr, put_read]

@[simp] theorem entryOf_setAddr (a : AddrRec) (v : UnitId) : (h.setAddr u a).entryOf v = h.entryOf v := rfl

/-! ## The mic report (R63) -/

theorem isStray_iff (r : Report) :
    isStray h u r = true ↔ ∃ j, r.mic = some j ∧ ∀ q e, h.entryOf u = some (q, e) → q.slot ≠ j := by
  unfold isStray
  cases mic : r.mic with
  | none => simp
  | some j =>
    cases held : h.entryOf u with
    | none => simp
    | some y =>
      obtain ⟨q, e⟩ := y
      simp

end

theorem isStray_congr {h g : Hall} (pools : g.pools = h.pools) (u : UnitId) (r : Report) :
    isStray g u r = isStray h u r := by
  unfold isStray
  rw [entryOf_congr (entry_of_pools pools)]

/-- An address record after a mic report (R63). -/
def AddrRec.reported (a : AddrRec) (r : Report) (stray : Bool) : AddrRec :=
  { a with
    lastMic := r.mic, floorOrder := if stray then some .release else a.floorOrder,
    stray := if stray then a.stray + 1 else 0 }

/-- A mic report ends the confirmation count: mic-live on the slot of the unit's entry, with no GRANT pending (R58,
R62). -/
def confirms (h : Hall) (u : UnitId) (r : Report) : Bool :=
  match h.entryOf u with
  | some (k, _) => !h.grantPending u && r.mic = some k.slot
  | none => false

section
variable (h : Hall) (u : UnitId) (r : Report)

theorem strayStep_eq : strayStep h u r = h.setAddr u ((h.addr u).reported r (isStray h u r)) := by
  unfold strayStep AddrRec.reported
  cases isStray h u r <;> rfl

theorem confirmed_eq : confirmed h u r =
    h.setAddr u { h.addr u with confirm := if confirms h u r then none else (h.addr u).confirm } := by
  unfold confirmed confirms
  cases h.entryOf u with
  | none => exact (setAddr_self h u).symm
  | some y =>
    simp only []
    split
    · rfl
    · exact (setAddr_self h u).symm

end

/-- A floor order is a GRANT. -/
def isGrant : Option FloorOrder → Bool
  | some (.grant _) => true
  | _ => false

theorem confirms_setAddr (h : Hall) (u : UnitId) (r : Report) (a : AddrRec) : confirms (h.setAddr u a) u r =
    match h.entryOf u with
    | some (k, _) => decide (r.mic = some k.slot) && !isGrant a.floorOrder
    | none => false := by
  unfold confirms Hall.grantPending
  rw [entryOf_setAddr, Hall.setAddr_addr]
  cases h.entryOf u with
  | none => rfl
  | some y =>
    simp only [Bool.and_comm]
    rcases a.floorOrder with _ | _ | _ | _ <;> rfl

/-- The hand-over of a report, with the floor order `o` pending (R58, R63). -/
def Report.handOver (r : Report) (a : AddrIx) (stray : Bool) (o : Option FloorOrder) : HandOver :=
  { addr := a, latch := r.latch, next := r.next, allOff := r.allOff, mic := if stray then none else r.mic,
    lang := r.lang, seat := r.seat, mark := o }

section
variable {s : State} {k : TrunkId} {u : UnitId} {r : Report}

/-- The third stray report of a unit in a row makes it ABSENT (R63). -/
theorem takeReport_lost (stray : isStray s.hall u r = true) (many : 2 ≤ (s.hall.addr u).stray) :
    takeReport s k u r = s.floorHall (loseUnits (s.hall.setAddr u ((s.hall.addr u).reported r true)) [u]) := by
  simp only [takeReport, strayStep_eq, stray, Hall.setAddr_addr]
  exact if_pos (Nat.succ_le_succ many)

/-- Another report is placed in the hand-over (R58). -/
theorem takeReport_placed (few : ¬(isStray s.hall u r = true ∧ 2 ≤ (s.hall.addr u).stray)) :
    let stray := isStray s.hall u r
    let a := (s.hall.addr u).reported r stray
    takeReport s k u r =
      { s with
        trunks := put s.trunks k { s.trunks[k] with handOver := some (r.handOver u.addr stray a.floorOrder) },
        hall := idleSweep (s.hall.setAddr u
          { a with confirm := if confirms (s.hall.setAddr u a) u r then none else a.confirm }) } := by
  intro stray a
  simp only [takeReport, strayStep_eq, Hall.setAddr_addr, confirmed_eq, setAddr_setAddr]
  refine (if_neg fun c => ?_).trans ?_
  · unfold AddrRec.reported at c
    split at c
    · next w => exact few ⟨w, by simpa using c⟩
    · simp at c
  · simp only [State.floorHall, State.setTrunk, placed, Hall.setAddr_addr]
    rfl

end

/-! ## The order delivered (R55, R58) -/

/-- The order a poll carried is delivered: it is still the pending floor order (R55). -/
def AddrRec.delivers (a : AddrRec) (o : Option Order) : Bool :=
  a.floorOrder.isSome && decide (o = a.floorOrder.map Order.floor)

/-- An address record after a good reply to a poll that carried `o`; `granted` tells that a GRANT was delivered (R58,
R62). -/
def AddrRec.polled (a : AddrRec) (o : Option Order) (granted : Bool) : AddrRec :=
  { a with
    miss := 0, floorOrder := if a.delivers o then none else a.floorOrder,
    notice := if a.notice.isSome ∧ o = a.notice.map Order.notice then none else a.notice,
    confirm := if granted then some 3 else a.confirm }

section
variable (a : AddrRec)

theorem AddrRec.delivers_none : a.delivers none = false := by
  unfold AddrRec.delivers
  cases a.floorOrder <;> simp

theorem AddrRec.delivers_floor (f : FloorOrder) : a.delivers (some (.floor f)) = decide (a.floorOrder = some f) := by
  unfold AddrRec.delivers
  cases a.floorOrder <;> simp [eq_comm]

theorem AddrRec.delivers_notice (n : Notice) : a.delivers (some (.notice n)) = false := by
  unfold AddrRec.delivers
  cases a.floorOrder <;> simp

theorem not_notifies_none : ¬(a.notice.isSome ∧ none = a.notice.map Order.notice) := by
  cases a.notice <;> simp

theorem not_notifies_floor (f : FloorOrder) : ¬(a.notice.isSome ∧ some (.floor f) = a.notice.map Order.notice) := by
  cases a.notice <;> simp

theorem notifies_notice (n : Notice) :
    (a.notice.isSome ∧ some (.notice n) = a.notice.map Order.notice) ↔ a.notice = some n := by
  cases a.notice <;> simp [eq_comm]

end

theorem goodPoll_eq (h : Hall) (u : UnitId) (o : Option Order) :
    let granted := (h.addr u).delivers o && h.grantPending u
    goodPoll h u o = (h.setAddr u ((h.addr u).polled o granted), granted) := by
  intro granted
  unfold goodPoll deliver AddrRec.polled
  simp only [Hall.setAddr_addr, setAddr_setAddr]
  rcases o with _ | f | n
  · simp only [granted, AddrRec.delivers_none, not_notifies_none, if_false, Bool.false_and, Bool.false_eq_true]
  · simp only [AddrRec.delivers_floor, not_notifies_floor, granted, if_false, decide_eq_true_iff]
    by_cases pending : (h.addr u).floorOrder = some f
    · cases f <;> simp [pending, Hall.grantPending]
    · simp [pending]
  · simp only [AddrRec.delivers_notice, notifies_notice, granted, Bool.false_and]
    split
    · simp
    · simp

/-! ## The trunk heard (R58, R65) -/

/-- The hall in which a trunk's first good reply since DOWN is signalled (R65, R68). -/
def heardHall (h : Hall) (st : TrunkState) : Hall := if st = .down then raise .trunk 0xFF h else h

section
variable (h : Hall) (st : TrunkState)

theorem heardHall_eq : heardHall h st = { h with ports := (heardHall h st).ports } := by
  unfold heardHall
  split <;> rfl

theorem heardHall_core : (heardHall h st).core = h.core := by
  unfold heardHall
  split
  · exact raise_core h _ _
  · rfl

theorem heardHall_signalled : h.signalled (heardHall h st) .trunk fun y => st = .down ∧ y = 0xFF := by
  unfold heardHall
  split
  · next down => exact signalled_congr (raise_signalled .trunk 0xFF h) (by simp [down])
  · next up => exact signalled_congr (signalled_refl h .trunk) (by simp [up])

theorem heardHall_rest : (heardHall h st).units = h.units ∧ (heardHall h st).requests = h.requests ∧
    (heardHall h st).pools = h.pools ∧ (heardHall h st).seq = h.seq := by
  rw [heardHall_eq]
  exact ⟨rfl, rfl, rfl, rfl⟩

theorem heardHall_addr (u : UnitId) : (heardHall h st).addr u = h.addr u := by
  rw [heardHall_eq]
  rfl

theorem heardHall_grantPending (u : UnitId) : (heardHall h st).grantPending u = h.grantPending u := by
  rw [heardHall_eq]
  rfl

end

/-- The state of a good reply to the poll of the round `rd` on trunk `k`, before its report is handled: the trunk is
heard, its round holds the units `fresh` as well, and the hall is `h` (R58, R65). -/
def State.heard (s : State) (k : TrunkId) (rd : Round) (fresh : List AddrIx) (h : Hall) : State :=
  { s with
    trunks := put s.trunks k
      { s.trunks[k] with
        silent := 0, state := if (s.trunks[k]).state = .down then .up else (s.trunks[k]).state,
        round := some { rd with sent := none, good := true, fresh := rd.fresh ++ fresh } },
    hall := h }

section
variable (s : State) (k : TrunkId) (rd : Round)

theorem unawaited_trunk : (s.unawaited k rd).trunks[k] = { s.trunks[k] with round := some { rd with sent := none } } :=
  put_get_self _ _ _

theorem heard_trunk (fresh : List AddrIx) (h : Hall) : (s.heard k rd fresh h).trunks[k] =
    { s.trunks[k] with
      silent := 0, state := if (s.trunks[k]).state = .down then .up else (s.trunks[k]).state,
      round := some { rd with sent := none, good := true, fresh := rd.fresh ++ fresh } } := put_get_self _ _ _

/-- The trunk's part of a good reply (R65). -/
theorem setTrunk_heard :
    (s.unawaited k rd).setTrunk k ((s.unawaited k rd).trunks[k]).heard = s.heard k rd [] s.hall := by
  rw [unawaited_trunk]
  simp only [State.setTrunk, State.unawaited, State.heard, Trunk.heard, Option.map_some, put_put, List.append_nil]

theorem heard_raised : (if ((s.unawaited k rd).trunks[k]).state = .down then
      (s.heard k rd [] s.hall).raised .trunk allSegs else s.heard k rd [] s.hall) =
    s.heard k rd [] (heardHall s.hall (s.trunks[k]).state) := by
  rw [unawaited_trunk]
  unfold heardHall
  split <;> rfl

theorem heard_withHall (fresh : List AddrIx) (g h : Hall) :
    (s.heard k rd fresh h).withHall g = s.heard k rd fresh g := rfl

theorem heard_hall (fresh : List AddrIx) (h : Hall) : (s.heard k rd fresh h).hall = h := rfl

/-- The unit whose GRANT was delivered in the round is marked in it (R62). -/
theorem heard_granted (granted : Bool) (a : AddrIx) (h : Hall) :
    (if granted then (s.heard k rd [] h).setTrunk k
      { (s.heard k rd [] h).trunks[k] with
        round := ((s.heard k rd [] h).trunks[k]).round.map fun rd => { rd with fresh := rd.fresh ++ [a] } }
      else s.heard k rd [] h) = s.heard k rd (if granted then [a] else []) h := by
  cases granted with
  | false => rfl
  | true =>
    rw [heard_trunk]
    simp only [State.setTrunk, State.heard, Option.map_some, put_put, List.append_nil, if_true]

variable {s k rd} {sent : Sent} {r : Report}

theorem goodReply_probe (probe : sent.probe = true) :
    let u : UnitId := { trunk := k, addr := sent.addr }
    goodReply (s.unawaited k rd) k sent r =
      takeReport (s.heard k rd [] (foundUnit (heardHall s.hall (s.trunks[k]).state) u r)) k u r := by
  simp only [goodReply, setTrunk_heard, heard_raised, probe, if_true, heard_withHall]
  rfl

theorem goodReply_poll (poll : sent.probe = false) :
    let u : UnitId := { trunk := k, addr := sent.addr }
    let granted := (s.hall.addr u).delivers sent.order && s.hall.grantPending u
    (s.hall.unit u).present = true →
    goodReply (s.unawaited k rd) k sent r =
      takeReport (s.heard k rd (if granted then [sent.addr] else [])
        ((heardHall s.hall (s.trunks[k]).state).setAddr u ((s.hall.addr u).polled sent.order granted))) k u r := by
  intro u granted here
  have unit : ((s.heard k rd [] (heardHall s.hall (s.trunks[k]).state)).hall.unit u).present = true := by
    unfold State.heard
    rw [heardHall_eq]
    exact here
  simp only [goodReply, setTrunk_heard, heard_raised, poll, Bool.false_eq_true, if_false, goodPoll_eq]
  refine (if_pos unit).trans ?_
  simp only [heard_hall, heard_withHall, heardHall_addr, heardHall_grantPending]
  rw [heard_granted]

end

theorem entryOf_eq_none_iff (h : Hall) (u : UnitId) :
    h.entryOf u = none ↔ ∀ q e, h.entry q = some e → q.trunk = u.trunk → e.unit ≠ some u.addr := by
  rw [entryOf_eq_none]
  simp only [Hall.slotless, ne_eq, holderOf_eq_some, not_and]

/-- From `h` to `g` no more has happened than TRUNK events and a write of the address record of `u`, now `a`. -/
structure Rewritten (h g : Hall) (u : UnitId) (a : AddrRec) : Prop where
  addr     : g.addr u = a
  other    : ∀ v, v ≠ u → g.addr v = h.addr v
  core     : g.core = h.core
  units    : g.units = h.units
  requests : g.requests = h.requests
  seq      : g.seq = h.seq
  pools    : g.pools = h.pools

namespace Rewritten
variable {f g h : Hall} {u : UnitId} {a b : AddrRec}

theorem heard (h : Hall) (st : TrunkState) (u : UnitId) : Rewritten h (heardHall h st) u (h.addr u) := by
  obtain ⟨units, requests, pools, seq⟩ := heardHall_rest h st
  exact ⟨heardHall_addr h st u, fun v _ => heardHall_addr h st v, heardHall_core h st, units, requests, seq, pools⟩

theorem setAddr (w : Rewritten f g u a) (b : AddrRec) : Rewritten f (g.setAddr u b) u b :=
  ⟨Hall.setAddr_addr _ _ _, fun v hv => (Hall.setAddr_addr_ne _ _ hv.symm).trans (w.other v hv), w.core, w.units,
    w.requests, w.seq, w.pools⟩

theorem swept (w : Rewritten f g u a) : Rewritten f (idleSweep g) u a :=
  ⟨w.addr, w.other, (idleSweep_core g).trans w.core, w.units, w.requests, w.seq, w.pools⟩

end Rewritten

/-- Settles O35: the third stray report in a row, and every other report. -/
theorem pollReplyGood : Obligations.PollReplyGood := by
  unfold Obligations.PollReplyGood
  refine ⟨fun h u => ⟨entryOf_eq_none_iff h u, fun q e => entryOf_some⟩, fun h u => isStray_iff h u, ?_⟩
  intro k s rx rd sent r x u a round awaited poll here good stray delivered granted order live heard
  have out := (execPollReply_good round awaited good).trans (congrArg Host.Outcome.next (goodReply_poll poll here))
  have written := (Rewritten.heard s.hall x.state u).setAddr (a.polled sent.order granted)
  have signalled : s.hall.signalled ((heardHall s.hall x.state).setAddr u (a.polled sent.order granted)) .trunk
      fun y => x.state = .down ∧ y = 0xFF := heardHall_signalled s.hall x.state
  change execPollReply k rx s = .next (takeReport (s.heard k rd (if granted then [sent.addr] else [])
    ((heardHall s.hall x.state).setAddr u (a.polled sent.order granted))) k u r) at out
  generalize (heardHall s.hall x.state).setAddr u (a.polled sent.order granted) = polled at *
  have strays : isStray polled u r = stray := isStray_congr written.pools u r
  have ends : confirms (polled.setAddr u ((a.polled sent.order granted).reported r stray)) u r = live := by
    rw [confirms_setAddr, entryOf_congr (entry_of_pools written.pools)]
    simp only [live]
    cases s.hall.entryOf u with
    | none => rfl
    | some y =>
      refine congrArg (decide (r.mic = some y.1.slot) && ·) ?_
      change (!isGrant order) = _
      rcases order with _ | _ | _ | _ <;> rfl
  refine ⟨fun few => ⟨_, out.trans (congrArg Host.Outcome.next (takeReport_placed ?_)), ?_⟩, fun third =>
    ⟨{ s with
        trunks := put s.trunks k heard
        hall := idleSweep (loseUnits (polled.setAddr u ((a.polled sent.order granted).reported r true)) [u]) },
      out.trans (congrArg Host.Outcome.next ?_),
      unitsLost_of_unit u (put s.trunks k heard) (bare_of_core written.core) written.units written.requests
        written.pools, ?_⟩⟩
  · rw [heard_hall, strays, written.addr]
    exact few
  · simp only [heard_hall, strays, written.addr, heard_trunk]
    have w := (written.setAddr { (a.polled sent.order granted).reported r stray with
      confirm := if confirms (polled.setAddr u ((a.polled sent.order granted).reported r stray)) u r then none
        else ((a.polled sent.order granted).reported r stray).confirm }).swept
    refine ⟨w.addr.trans ?_, w.other, w.core, w.units, w.requests, w.seq, w.pools, ?_, rfl, rfl, rfl, rfl,
      signalled_then_mute signalled (.of_ports rfl) (bare_of_core ?_)⟩
    · rw [ends]
      rfl
    · simp only [State.heard, put_put]
      rfl
    · exact idleSweep_core _
  · rw [takeReport_lost]
    · simp only [heard_hall, written.addr]
      rfl
    · rw [heard_hall, strays, third.1]
    · rw [heard_hall, written.addr]
      exact third.2
  · have reset : s.hall.signalled (polled.setAddr u ((a.polled sent.order granted).reported r true)) .trunk fun y =>
        x.state = .down ∧ y = 0xFF := signalled_then_mute signalled (.of_ports rfl) rfl
    refine signalled_congr (signalled_trans reset (signalled_of_unit _ u) (core_port_of_bare ?_)) fun y => ?_
    · exact (loseUnits_lost _ (List.nodup_singleton u)).swept.bare
    · rw [Hall.setAddr_unit, unit_of_units written.units]

/-! ## A unit found (R60) -/

/-- The record of a unit that answers a probe (R60). -/
def UnitRec.found (x : UnitRec) (r : Report) : UnitRec := { x with present := true, reported := some r.seat }

/-- From `h` to `g` unit `u` has been found (R60, R68, R71). -/
structure Found (h g : Hall) (u : UnitId) (r : Report) : Prop where
  core      : (g.unit u).core = ((h.unit u).found r).core
  seat      : h.floorState u = .idle → (g.unit u).seat = ((h.unit u).found r).seatCalled
  other     : ∀ v, v ≠ u → g.unit v = h.unit v ∧ g.addr v = h.addr v
  addr      : g.addr u = AddrRec.reset
  bare      : g.bare = h.bare
  requests  : g.requests = h.requests
  seq       : g.seq = h.seq
  pools     : g.pools = h.pools
  signalled : h.signalled g .trunk fun y => ∃ sg, (g.unit u).seat = some sg ∧ y = setOf sg

theorem foundUnit_found (h : Hall) (u : UnitId) (r : Report) : Found h (foundUnit h u r) u r := by
  let g1 : Hall := (h.setAddr u AddrRec.reset).setUnit u ((h.unit u).found r)
  let g2 : Hall := alignSeat g1 u
  have rest : foundUnit h u r = { g2 with ports := (raiseUnits g2 [u]).ports } := raiseUnits_eq g2 [u]
  have unit (v : UnitId) : (foundUnit h u r).unit v = g2.unit v := by rw [rest]; rfl
  have addr (v : UnitId) : (foundUnit h u r).addr v = (h.setAddr u AddrRec.reset).addr v := by
    rw [rest]
    exact alignSeat_addr g1 u v
  have stored : g1.unit u = (h.unit u).found r := Hall.setUnit_unit _ _ _
  have bare1 : g1.bare = h.bare := setUnit_bare _ u _ rfl
  have bare2 : g2.bare = g1.bare := bare_of_core (alignSeat_core g1 u)
  have told : h.signalled (foundUnit h u r) .trunk fun y => ∃ sg, (g2.unit u).seat = some sg ∧ y = setOf sg := by
    refine signalled_congr (signalled_of_mute ?_ (raiseUnits_signalled g2 [u]) (.refl _) fun _ => rfl) (by simp)
    exact (Mute.of_ports rfl).trans (alignSeat_mute g1 (by decide) u)
  refine ⟨?_, fun idle => ?_, fun v hv => ⟨?_, ?_⟩, ?_, ?_, ?_, ?_, ?_, ?_⟩
  · rw [unit, core_unit (alignSeat_core g1 u), stored]
  · have idle1 : g1.floorState u = .idle := idle
    rw [unit, alignSeat_idle _ idle1, stored]
  · rw [unit, alignSeat_unit _ _ _ (.inl hv.symm)]
    exact Hall.setUnit_unit_ne _ _ hv.symm
  · rw [addr, Hall.setAddr_addr_ne _ _ hv.symm]
  · rw [addr, Hall.setAddr_addr]
  · exact (bare_of_core (raiseUnits_core g2 [u])).trans (bare2.trans bare1)
  · rw [rest]
    exact alignSeat_requests g1 u
  · have seq : g2.seq = g1.seq := by rw [show g2 = _ from alignSeat_eq g1 u]
    rw [rest]
    exact seq
  · rw [rest]
    exact alignSeat_pools g1 u
  · rw [unit]
    exact told

/-- Settles O36: the unit found, its first report, and the trunk heard. -/
theorem probeReply : Obligations.ProbeReply := by
  unfold Obligations.ProbeReply
  refine ⟨fun h u => isStray_iff h u, ?_⟩
  intro k s rx rd sent r x u round awaited probe good stray order found
  have out := (execPollReply_good round awaited good).trans (congrArg Host.Outcome.next (goodReply_probe probe))
  change execPollReply k rx s = .next (takeReport (s.heard k rd [] (foundUnit (heardHall s.hall x.state) u r)) k u r)
    at out
  have w := foundUnit_found (heardHall s.hall x.state) u r
  generalize foundUnit (heardHall s.hall x.state) u r = g at *
  have heard := Rewritten.heard s.hall x.state u
  have signalled := signalled_trans (heardHall_signalled s.hall x.state) w.signalled (core_port_of_bare w.bare)
  have before : (heardHall s.hall x.state).unit u = s.hall.unit u := unit_of_units heard.units u
  have strays : isStray g u r = stray := isStray_congr (w.pools.trans heard.pools) u r
  have unit (v : UnitId) (a : AddrRec) : (idleSweep (g.setAddr u a)).unit v = g.unit v := rfl
  refine ⟨_, out.trans (congrArg Host.Outcome.next (takeReport_placed ?_)), ?_⟩
  · rw [heard_hall, w.addr]
    exact fun c => absurd c.2 (by decide)
  · simp only [heard_hall, strays, w.addr, heard_trunk, unit]
    refine ⟨?_, fun idle => ?_, fun v hv => ⟨?_, ?_⟩, ?_, ?_, w.requests.trans heard.requests, w.seq.trans heard.seq,
      w.pools.trans heard.pools, ?_, rfl, rfl, rfl, rfl, ?_⟩
    · rw [w.core, before]
      rfl
    · have idle' : (heardHall s.hall x.state).floorState u = .idle := by
        rw [heardHall_eq]
        exact idle
      rw [w.seat idle', before]
      rfl
    · rw [(w.other v hv).1, unit_of_units heard.units v]
    · exact (Hall.setAddr_addr_ne _ _ hv.symm).trans ((w.other v hv).2.trans (heard.other v hv))
    · refine (Hall.setAddr_addr _ _ _).trans ?_
      have still : (AddrRec.reset.reported r stray).confirm = none := rfl
      rw [still, ite_self]
      rfl
    · exact (bare_of_core (idleSweep_core _)).trans (w.bare.trans (bare_of_core heard.core))
    · simp only [State.heard, put_put, List.append_nil]
      rfl
    · exact signalled_then_mute signalled (.of_ports rfl) (bare_of_core (idleSweep_core _))

end Sys2Proof.Machine
end

section
/-! A reply read by the floor controller (R71, R76, R80, R94, R95): what it stores, and its mic report. -/

namespace Sys2Proof.Machine

/-! ## What a reply stores (R71, R80) -/

/-- A WAITING unit's request takes the language its reply declares (R80). -/
def Request.speaking (u : UnitId) (lang : Nat) (q : Request) : Request :=
  if q.unit = u then { q with lang := lang } else q

theorem Request.speaking_unit (u : UnitId) (lang : Nat) (q : Request) : (q.speaking u lang).unit = q.unit := by
  unfold Request.speaking
  split <;> rfl

/-- The hall in which the language and the seat a unit reports are stored, its seat segment not yet in line (R71). -/
def stored (h : Hall) (u : UnitId) (lang : Nat) (sg : SegId) : Hall :=
  { h.setUnit u { h.unit u with lang := lang, reported := some sg } with
    requests := h.requests.map (Request.speaking u lang) }

section
variable (h : Hall) (u : UnitId) (lang : Nat) (sg : SegId)

theorem storeReport_eq : storeReport h u lang sg = alignSeat (stored h u lang sg) u := rfl

theorem stored_requestless : (stored h u lang sg).requestOf u = none ↔ h.requestOf u = none := by
  simp only [requestOf_eq_none, stored, List.forall_mem_map, Request.speaking_unit]

theorem stored_idle : (stored h u lang sg).floorState u = .idle ↔ h.floorState u = .idle := by
  have asks : ((stored h u lang sg).requestOf u).isSome = (h.requestOf u).isSome := by
    rw [Bool.eq_iff_iff, Option.isSome_iff_ne_none, Option.isSome_iff_ne_none, ne_eq, ne_eq, stored_requestless]
  unfold Hall.floorState
  rw [asks]
  exact Iff.rfl

/-- A unit that is not IDLE keeps its seat segment (R71). -/
theorem alignSeat_held (busy : h.floorState u ≠ .idle) : alignSeat h u = h := by
  unfold alignSeat
  exact if_neg (by simp [busy])

theorem storeReport_self :
    let x : UnitRec := { h.unit u with lang := lang, reported := some sg }
    (storeReport h u lang sg).unit u = if h.floorState u = .idle then { x with seat := x.seatCalled } else x := by
  intro x
  have unit : (stored h u lang sg).unit u = x := Hall.setUnit_unit _ _ _
  rw [storeReport_eq]
  split
  · next idle => rw [alignSeat_idle _ ((stored_idle h u lang sg).2 idle), unit]
  · next busy => rw [alignSeat_held _ _ fun c => busy ((stored_idle h u lang sg).1 c), unit]

theorem storeReport_other {v : UnitId} (hv : v ≠ u) : (storeReport h u lang sg).unit v = h.unit v := by
  rw [storeReport_eq, alignSeat_unit _ _ _ (.inl hv.symm)]
  exact Hall.setUnit_unit_ne _ _ hv.symm

theorem storeReport_rest : storeReport h u lang sg =
    { h with
      requests := h.requests.map (Request.speaking u lang), units := (storeReport h u lang sg).units,
      ports := (storeReport h u lang sg).ports } := by
  rw [storeReport_eq]
  exact alignSeat_eq (stored h u lang sg) u

end

/-! ## The records after a reply is read -/

/-- Reading a reply keeps other units' records, but for their seats and warned marks. -/
theorem readReply_other (h : Hall) {u v : UnitId} (x : HandOver) (hv : v ≠ u) :
    ((readReply h u x).unit v).core = (h.unit v).core := by
  unfold readReply
  split
  · rfl
  · rw [storeLatches, Hall.setUnit_unit_ne _ _ hv.symm]
    refine (core_unit (chairAllOff_if_core _ u _) v).trans ?_
    refine (core_unit (chairNext_if_core _ u _) v).trans ?_
    refine (core_unit (readKeys_core _ u x) v).trans ?_
    rw [storeReport_other h u _ _ hv]

/-! ## A clear mic report (R76) -/

section
variable {h : Hall} {u : UnitId} {r : SlotRef} {e : Entry}

theorem clearWarn_addr (h : Hall) (u : UnitId) : (clearWarn h u).addr u =
    { h.addr u with
      notice := if (h.unit u).warned && (h.unit u).present then some .clearWarn else (h.addr u).notice } := by
  unfold clearWarn
  split
  · next warned =>
    rw [Hall.setUnit_addr, giveNotice_addr, warned, Bool.true_and]
  · next unwarned =>
    simp [unwarned]

/-- The unit whose entry is sent to CLOSING is no longer warned, and is told so (R76). -/
theorem closeEntry_holder (he : h.entry r = some e) (ho : e.onAir = true) (hu : holderOf r.trunk e = some u) :
    ((closeEntry h r).unit u).warned = false ∧ (closeEntry h r).addr u =
      { h.addr u with
        notice := if (h.unit u).warned && (h.unit u).present then some .clearWarn else (h.addr u).notice } := by
  rw [closeEntry_onAir h he ho, closedPools, unit_of_units (raiseAt_units _ _ _),
    addr_of_addrs (raiseAt_addrs _ _ _), hu]
  exact ⟨clearWarn_warned _ u, clearWarn_addr (h.setEntry r _) u⟩

/-- A clear mic report of an entry on the air sends it to CLOSING; the slot handed on writes no slot that is held (R76,
R80). -/
theorem closeAndHandle_holder (he : h.entry r = some e) (ho : e.onAir = true) (hu : holderOf r.trunk e = some u) :
    (closeAndHandle h r).entry r = some e.closed ∧
    (∀ q e', q ≠ r → h.entry q = some e' → (closeAndHandle h r).entry q = some e') ∧
    ((closeAndHandle h r).unit u).warned = false ∧
    ((closeAndHandle h r).addr u).notice =
      if (h.unit u).warned && (h.unit u).present then some .clearWarn else (h.addr u).notice := by
  have served := closeAndHandle_serving h r
  have cleared : Clearing [] (closeEntry h r) (closeAndHandle h r) := .of_serving served
  obtain ⟨warned, addr⟩ := closeEntry_holder he ho hu
  refine ⟨served.filled.held r _ (closeEntry_closed he ho), fun q e' hq he' => served.filled.held q e' ?_, ?_, ?_⟩
  · rw [closeEntry_entry h r e he ho, if_neg hq, he']
  · rw [unit_of_units served.units u, warned]
  · obtain ⟨o, -, kept⟩ := cleared.addr u (by simp)
    rw [kept, addr]

end

/-! ## An entry opened (R80, R94, R95) -/

/-- The room of an opening speaker at segment `sg` with declared language `lang` (R95). -/
def Room.spoken (r : Room) (sg : SegId) (lang : Nat) : Room :=
  { r with lastSpeaker := some sg, floorLang := if lang = 0 then r.floorLang else lang }

/-- A room's floor language changes with an opening speaker's (R95). -/
def Room.turns (r : Room) (lang : Nat) : Bool := lang ≠ 0 && lang ≠ r.floorLang

theorem reevaluate_eq (h : Hall) (i : SegId) :
    reevaluate h i = { h with booths := (reevaluate h i).booths, ports := (reevaluate h i).ports } := by
  unfold reevaluate
  split
  · rfl
  · simp only []
    split <;> rfl

section
variable {h : Hall} {i : SegId} {rm : Room}

theorem setSpeaker_eq (hr : h.room i = some rm) (sg : SegId) (lang : Nat) : setSpeaker h i sg lang =
    if rm.turns lang then reevaluate (h.setRoom i (some (rm.spoken sg lang))) i
    else h.setRoom i (some (rm.spoken sg lang)) := by
  unfold setSpeaker
  simp only [hr]
  by_cases turns : rm.turns lang = true
  · have spoken : rm.spoken sg lang = { rm with lastSpeaker := some sg, floorLang := lang } := by
      rw [Room.spoken, if_neg]
      rintro rfl
      simp [Room.turns] at turns
    rw [if_pos turns, spoken]
    exact if_pos turns
  · have kept : rm.spoken sg lang = { rm with lastSpeaker := some sg } := by
      have same : (if lang = 0 then rm.floorLang else lang) = rm.floorLang := by
        split
        · rfl
        · next spoken => simpa [Room.turns, spoken] using turns
      rw [Room.spoken, same]
    rw [if_neg turns, kept]
    exact if_neg turns

theorem setSpeaker_rest (hr : h.room i = some rm) (sg : SegId) (lang : Nat) : setSpeaker h i sg lang =
    { h.setRoom i (some (rm.spoken sg lang)) with
      booths := (setSpeaker h i sg lang).booths, ports := (setSpeaker h i sg lang).ports } := by
  rw [setSpeaker_eq hr]
  split
  · exact reevaluate_eq _ i
  · rfl

theorem warnUnit_eq (h : Hall) (u : UnitId) :
    warnUnit h u = { h with units := (warnUnit h u).units, addrs := (warnUnit h u).addrs } := by
  unfold warnUnit
  split
  · rfl
  · rw [giveNotice_eq]
    rfl

theorem warnUnit_unit (h : Hall) (u : UnitId) : (warnUnit h u).unit u = { h.unit u with warned := true } := by
  unfold warnUnit
  split
  · next warned => rw [← warned]
  · exact Hall.setUnit_unit _ _ _

theorem warnUnit_addr (h : Hall) (u : UnitId) : (warnUnit h u).addr u =
    { h.addr u with
      notice := if !(h.unit u).warned && (h.unit u).present then some .warn else (h.addr u).notice } := by
  unfold warnUnit
  split
  · next warned => simp [warned]
  · next unwarned =>
    rw [Hall.setUnit_addr, giveNotice_addr]
    simp [unwarned]

theorem warnUnit_addr_ne (h : Hall) {u v : UnitId} (huv : u ≠ v) : (warnUnit h u).addr v = h.addr v := by
  unfold warnUnit
  split
  · rfl
  · rw [Hall.setUnit_addr, giveNotice_addr_ne h _ huv]

end

/-- An opening entry that is not a chair's is warned at once under a limit of 30 s or less (R94). -/
def Entry.warnsAt (e : Entry) (limit : Nat) : Bool := !e.chair && 0 < limit && limit ≤ 30

/-- The hall in which an entry has been opened, before its room is told and its unit warned (R80). -/
def opened (h : Hall) (u : UnitId) (r : SlotRef) (e : Entry) : Hall :=
  stopConfirm (h.setEntry r (some { e with state := .opening, timer := if e.chair then none else some 0 })) u

section
variable {h : Hall} {u : UnitId} {r : SlotRef} {e : Entry} {i : SegId} {rm : Room}

theorem openEntry_eq (hi : h.roomOf e.seg = some i) (hr : h.room i = some rm) : openEntry h u r e =
    let g := raiseRoom .floor i (setSpeaker (opened h u r e) i e.seg (h.unit u).lang)
    if e.warnsAt rm.settings.speakLimit then warnUnit g u else g := by
  have room : (raiseRoom .floor i (setSpeaker (opened h u r e) i e.seg (h.unit u).lang)).room i =
      some (rm.spoken e.seg (h.unit u).lang) := by
    rw [setSpeaker_rest (h := opened h u r e) hr]
    exact Hall.setRoom_room _ _ _
  have place : (opened h u r e).roomOf e.seg = some i := hi
  unfold openEntry
  rw [opened] at place room
  simp only [place, room, opened]
  refine if_congr ?_ rfl rfl
  rw [Entry.warnsAt, Bool.and_eq_true, Bool.and_eq_true, Bool.and_eq_true, Bool.and_eq_true, decide_eq_true_iff,
    decide_eq_true_iff, decide_eq_true_iff, decide_eq_true_iff, Nat.pos_iff_ne_zero]
  exact Iff.rfl

/-- The hall in which an entry has been opened and its room told, before its unit is warned (R80, R95). -/
def announced (h : Hall) (u : UnitId) (r : SlotRef) (e : Entry) (i : SegId) : Hall :=
  raiseRoom .floor i (setSpeaker (opened h u r e) i e.seg (h.unit u).lang)

theorem announced_rest (hr : h.room i = some rm) : announced h u r e i =
    { (opened h u r e).setRoom i (some (rm.spoken e.seg (h.unit u).lang)) with
      booths := (announced h u r e i).booths, ports := (announced h u r e i).ports } := by
  unfold announced
  rw [setSpeaker_rest (h := opened h u r e) hr]
  rfl

theorem announced_booths (hr : h.room i = some rm) : (announced h u r e i).booths =
    if rm.turns (h.unit u).lang then (reevaluate (h.setRoom i (some (rm.spoken e.seg (h.unit u).lang))) i).booths
    else h.booths := by
  unfold announced
  rw [setSpeaker_eq (h := opened h u r e) hr]
  split
  · have first := reevaluate_booths (Hall.setRoom_room (opened h u r e) i (some (rm.spoken e.seg (h.unit u).lang)))
    exact first.trans (reevaluate_booths (Hall.setRoom_room h i (some (rm.spoken e.seg (h.unit u).lang)))).symm
  · rfl

theorem openEntry_announced (hi : h.roomOf e.seg = some i) (hr : h.room i = some rm) : openEntry h u r e =
    if e.warnsAt rm.settings.speakLimit then warnUnit (announced h u r e i) u else announced h u r e i :=
  openEntry_eq hi hr

theorem openEntry_rest (hi : h.roomOf e.seg = some i) (hr : h.room i = some rm) : openEntry h u r e =
    { announced h u r e i with units := (openEntry h u r e).units, addrs := (openEntry h u r e).addrs } := by
  rw [openEntry_announced hi hr]
  split
  · exact warnUnit_eq _ u
  · rfl

/-- The unit and the address record of an opening speaker (R62, R80, R94). -/
theorem openEntry_unit (hi : h.roomOf e.seg = some i) (hr : h.room i = some rm) :
    let warns := e.warnsAt rm.settings.speakLimit
    (openEntry h u r e).unit u = { h.unit u with warned := (h.unit u).warned || warns } ∧
    (openEntry h u r e).addr u =
      { h.addr u with
        confirm := none,
        notice := if warns && !(h.unit u).warned && (h.unit u).present then some .warn else (h.addr u).notice } := by
  intro warns
  have unit : (announced h u r e i).unit u = h.unit u := by rw [announced_rest hr]; rfl
  have addr : (announced h u r e i).addr u = { h.addr u with confirm := none } := by
    rw [announced_rest hr]
    exact Hall.setAddr_addr _ _ _
  rw [openEntry_announced hi hr]
  cases w : e.warnsAt rm.settings.speakLimit with
  | true =>
    simp only [warns, w, if_true, warnUnit_unit, warnUnit_addr, unit, addr, Bool.or_true, Bool.true_and, and_self]
  | false => simp [warns, w, unit, addr]

theorem openEntry_other (hi : h.roomOf e.seg = some i) (hr : h.room i = some rm) {v : UnitId} (hv : v ≠ u) :
    (openEntry h u r e).unit v = h.unit v ∧ (openEntry h u r e).addr v = h.addr v := by
  have unit : (announced h u r e i).unit v = h.unit v := by rw [announced_rest hr]; rfl
  have addr : (announced h u r e i).addr v = h.addr v := by
    rw [announced_rest hr]
    exact Hall.setAddr_addr_ne _ _ hv.symm
  rw [openEntry_announced hi hr]
  split
  · rw [warnUnit_unit_ne _ hv.symm, warnUnit_addr_ne _ hv.symm]
    exact ⟨unit, addr⟩
  · exact ⟨unit, addr⟩

end

/-! ## The mic report (R76, R80) -/

section
variable {h : Hall} {u : UnitId} {r : SlotRef} {e : Entry} {mic : Option SlotIx}

theorem readMic_none (hu : h.entryOf u = none) : readMic h u mic = h := by simp only [readMic, hu]

theorem readMic_granted (hu : h.entryOf u = some (r, e)) (hs : e.state = .granted) :
    readMic h u mic = if mic = some r.slot then openEntry h u r e else h := by
  simp only [readMic, hu]
  exact if_pos hs

theorem readMic_spoken (hu : h.entryOf u = some (r, e)) (hs : e.state ≠ .granted) :
    readMic h u mic = if e.onAir && mic.isNone then closeAndHandle h r else h := by
  simp only [readMic, hu]
  exact if_neg hs

end

theorem exec_handOverTaken (s : State) (k : TrunkId) : exec (.handOverTaken k) s = execHandOverTaken k s := rfl

theorem execHandOverTaken_some {s : State} {k : TrunkId} {y : HandOver} (w : (s.trunks[k]).handOver = some y) :
    execHandOverTaken k s = .next ((s.setTrunk k { s.trunks[k] with handOver := none }).floorHall
      (readReply s.hall { trunk := k, addr := y.addr } y)) := by
  simp only [execHandOverTaken, w]

/-- A chair's key acts where it is pressed and was not (R88). -/
theorem pressed_iff (chair : Prop) [Decidable chair] (now was : Bool) :
    (decide chair && now && !was) = true ↔ chair ∧ now = true ∧ was = false := by
  simp [and_assoc]

/-- Settles O38: the hand-over emptied and the reply read in its order, what it stores, and the mic report by the state
of the unit's entry. -/
theorem handOverTaken : Obligations.HandOverTaken := by
  unfold Obligations.HandOverTaken
  refine ⟨fun k s => ⟨fun none => ?_, fun y held => ?_⟩, fun h u lang sg => ?_, fun h u mic => ?_⟩
  · simp only [exec_handOverTaken, execHandOverTaken, none]
  · intro u emptied
    have out : exec (.handOverTaken k) s =
        .next { s with trunks := emptied, hall := idleSweep (readReply s.hall u y) } :=
      execHandOverTaken_some held
    refine ⟨fun gone => ?_, fun here => ⟨_, out, rfl, ?_, fun v hv => ?_, ?_, rfl, rfl, rfl, rfl, ?_⟩⟩
    · rw [out, readReply, if_pos (by rw [gone]; rfl)]
    · exact (core_unit (idleSweep_core _) u).trans (readReply_unit s.hall u y here)
    · exact (core_unit (idleSweep_core _) v).trans (readReply_other s.hall y hv)
    · exact (bare_of_core (idleSweep_core _)).trans (readReply_bare s.hall u y)
    · let h2 := readMic (readLatch (storeReport s.hall u y.lang y.seat) u y.latch y.mark) u y.mic
      let h3 := if (s.hall.unit u).cls = .chair && y.next && !(s.hall.unit u).next then chairNext h2 u else h2
      let h4 := if (s.hall.unit u).cls = .chair && y.allOff && !(s.hall.unit u).allOff then chairAllOff h3 u else h3
      refine ⟨_, h2, h3, h4, rfl, rfl, fun w => if_pos ((pressed_iff _ _ _).2 w), fun w => if_neg fun c => w ?_,
        fun w => if_pos ((pressed_iff _ _ _).2 w), fun w => if_neg fun c => w ?_, ?_⟩
      · exact (pressed_iff _ _ _).1 c
      · exact (pressed_iff _ _ _).1 c
      · rw [readReply, if_neg (by rw [here]; decide)]
        rfl
  · intro g stored
    have rest := storeReport_rest h u lang sg
    refine ⟨storeReport_self h u lang sg, fun v => storeReport_other h u lang sg, ?_, ?_, ?_, ?_, ?_, ?_, ?_, ?_⟩
    all_goals
      simp only [g]
      rw [rest]
    rfl
  · intro g
    refine ⟨readMic_none, fun r e hu => ?_⟩
    obtain ⟨he, holder⟩ := entryOf_holder hu
    refine ⟨fun hs other => ?_, fun hs => ?_, fun ho live => ?_, fun ho clear => ?_, fun hs live i rm hi hr => ?_⟩
    · exact (readMic_granted hu hs).trans (if_neg other)
    · refine (readMic_spoken hu (by rw [hs]; decide)).trans (if_neg ?_)
      simp [Entry.onAir, hs]
    · refine (readMic_spoken hu (onAir_not_granted ho)).trans (if_neg ?_)
      simp [live]
    · have g_eq : g = closeAndHandle h r :=
        (readMic_spoken hu (onAir_not_granted ho)).trans (if_pos (by simp [ho, clear]))
      rw [g_eq]
      exact ⟨closeAndHandle_core h r, closeAndHandle_holder he ho holder⟩
    · intro lang changes rm' warns
      have g_eq : g = openEntry h u r e := (readMic_granted hu hs).trans (if_pos live)
      obtain ⟨unit, addr⟩ := openEntry_unit (u := u) (r := r) hi hr
      rw [g_eq]
      have rest := openEntry_rest (u := u) (r := r) hi hr
      rw [announced_rest hr] at rest
      refine ⟨?_, fun q hq => ?_, ?_, fun j hj => ?_, ?_, unit, fun v => openEntry_other hi hr, addr, ?_, ?_, ?_, ?_⟩
      all_goals rw [rest]
      · exact Hall.setEntry_entry _ _ _
      · exact Hall.setEntry_entry_ne _ _ hq.symm
      · exact Hall.setRoom_room _ _ _
      · exact Hall.setRoom_room_ne _ _ hj.symm
      · exact announced_booths hr
      · rfl
      · rfl
      · rfl
      · rfl

end Sys2Proof.Machine
end

section
/-! One sample (R153, R156, R159, R161 to R163): the block it belongs to, the ramps, and what each output carries. -/

namespace Sys2Proof.Machine

/-! ## Ramps and gains -/

theorem ChState.advance_still {c : ChState} (w : c.ramp = none) : c.advance = c := by simp only [ChState.advance, w]

theorem ChState.advance_ramp {c : ChState} {rp : ChRamp} (w : c.ramp = some rp) : c.advance =
    { v := rampAt rp.startV rp.targetV rp.len (rp.pos + 1), d := rampAt rp.startD rp.targetD rp.len (rp.pos + 1),
      ramp := if rp.len ≤ rp.pos + 1 then none else some { rp with pos := rp.pos + 1 } } := by
  simp only [ChState.advance, w]

theorem advanceRamps_entry (s : State) (r : SlotRef) :
    (advanceRamps s).hall.entry r = (s.hall.entry r).map Entry.advance := by
  simp only [advanceRamps, Hall.entry, tab_get]

theorem advanceRamps_chStates (s : State) (b : BoothId) :
    (advanceRamps s).mix.chStates[b] = (s.mix.chStates[b]).advance := tab_get _ b

/-! ## Floors and channels -/

theorem slotSample_eq (s : State) (x : AudioIn) (r : SlotRef) : slotSample s x r =
    match (s.trunks[r.trunk]).state with
    | .unpowered => 0
    | .tripped => 0
    | _ => ((x.slots[r.trunk])[r.slot]).toInt := by
  unfold slotSample
  cases (s.trunks[r.trunk]).state <;> rfl

theorem accumulate_eq_sum (s : State) (x : AudioIn) (r : LatchedRoom) : accumulate s x r =
    (r.entries.map fun y =>
      slotSample s x y.ref * (coefficient (gainAt s.hall y.ref) r.entries.length r.gain : Nat)).sum := by
  rw [accumulate, List.sum_eq_foldl, List.foldl_map]

theorem rawFloors_get (s : State) (x : AudioIn) (i : SegId) : (rawFloors s x)[i] =
    match s.mix.rooms[i] with | some r => rounded (accumulate s x r) | none => 0 := tab_get _ i

theorem languageChannels_get (s : State) (x : AudioIn) (f : Vector Int 8) (b : BoothId) : (languageChannels s x f)[b] =
    if (s.mix.booths[b]).state = .live then
      channelValue (x.voices[b]).toInt (floorAt f (s.mix.booths[b]).room) (s.mix.chStates[b]).v (s.mix.chStates[b]).d
    else 0 := tab_get _ b

/-- The one latched room that holds a segment is found (R163). -/
theorem latchedRoomOf_eq {rooms : Vector (Option LatchedRoom) 8} {sg i : SegId} {r : LatchedRoom}
    (hr : rooms[i] = some r) (hin : inSet r.segs sg = true)
    (only : ∀ j r', rooms[j] = some r' → inSet r'.segs sg = true → j = i) :
    latchedRoomOf rooms sg = some i := by
  unfold latchedRoomOf
  cases found : allSegIds.find? fun i => match rooms[i] with | some r => inSet r.segs sg | none => false with
  | none =>
    have := List.find?_eq_none.1 found i (List.mem_finRange i)
    simp [hr, hin] at this
  | some j =>
    have holds := List.find?_some found
    split at holds
    · next r' hr' => rw [only j r' hr' holds]
    · cases holds

/-! ## The sample -/

/-- The floors of a sample, saturated (R159). -/
def floors (s : State) (x : AudioIn) : Vector Int 8 := tab fun i => sat24 (rawFloors s x)[i]

theorem floors_get (s : State) (x : AudioIn) (i : SegId) : (floors s x)[i] = sat24 (rawFloors s x)[i] := tab_get _ i

/-- A sample belongs to the block in progress, or is the first of a block that starts with it (R153). -/
theorem execWordClockPeriod_block (x : AudioIn) (s : State) : ∃ (s1 : State) (n : Nat),
    (∀ m, s.mix.block = some m → m < 48 → s1 = s ∧ n = m) ∧
    ((∀ m, s.mix.block = some m → 48 ≤ m) → exec .mixBlockStart s = .next s1 ∧ n = 0) ∧
    execWordClockPeriod x s = .next (mixSample s1 x n) := by
  unfold execWordClockPeriod
  cases block : s.mix.block with
  | none => exact ⟨startBlock s, 0, by simp, fun _ => ⟨rfl, rfl⟩, rfl⟩
  | some m =>
    by_cases on : m < Config.blockLength
    · refine ⟨s, m, fun m' e _ => ⟨rfl, Option.some.inj e⟩, fun w => ?_, if_pos on⟩
      exact absurd (w m rfl) (Nat.not_le.2 on)
    · refine ⟨startBlock s, 0, fun m' e lt => ?_, fun _ => ⟨rfl, rfl⟩, if_neg on⟩
      exact absurd (Option.some.inj e ▸ lt) on

/-- Settles O57: the block the sample belongs to, and then each part of what is mixed. -/
theorem wordClockPeriod : Obligations.WordClockPeriod := by
  unfold Obligations.WordClockPeriod
  refine ⟨fun c => ⟨ChState.advance_still, fun rp => ChState.advance_ramp⟩, fun x s => ?_⟩
  obtain ⟨s1, n, going, starts, out⟩ := execWordClockPeriod_block x s
  refine ⟨s1, n, mixSample s1 x n, going, starts, out, ?_⟩
  intro sat sample gain raw floor lang
  have raws (i : SegId) : (rawFloors (advanceRamps s1) x)[i] = raw i := by
    rw [rawFloors_get]
    simp only [accumulate_eq_sum, slotSample_eq]
    rfl
  have floor_eq (i : Option SegId) : floorAt (floors (advanceRamps s1) x) i = floor i := by
    cases i with
    | none => rfl
    | some i =>
      refine (floors_get _ _ i).trans ?_
      rw [raws]
      rfl
  have lang_eq (b : BoothId) : (languageChannels (advanceRamps s1) x (floors (advanceRamps s1) x))[b] = lang b := by
    rw [languageChannels_get, floor_eq]
    rfl
  refine ⟨advanceRamps_entry s1, advanceRamps_chStates s1, fun c => ?_, fun sg i r hr hin only => ?_, fun b => ?_,
    fun i => ?_, rfl, rfl, rfl, rfl, rfl, rfl, rfl, rfl, rfl, rfl, rfl⟩
  · refine (tab_get _ c).trans (congrArg sampleOf ?_)
    change contentValue _ _ s1.mix.chans[c] = _
    cases s1.mix.chans[c] with
    | silence => rfl
    | floor i => exact floor_eq (some i)
    | lang b => exact lang_eq b
  · refine (tab_get _ sg).trans (congrArg sampleOf ?_)
    change floorAt (floors (advanceRamps s1) x) (latchedRoomOf s1.mix.rooms sg) = _
    rw [latchedRoomOf_eq hr hin only, floor_eq]
  · refine (tab_get _ b).trans (congrArg sampleOf ?_)
    change feedValue (floors (advanceRamps s1) x) (languageChannels (advanceRamps s1) x (floors (advanceRamps s1) x))
      s1.mix.booths[b] = _
    unfold feedValue
    cases (s1.mix.booths[b]).state with
    | unassigned => rfl
    | standby => exact floor_eq _
    | live =>
      cases (s1.mix.booths[b]).source with
      | floor => exact floor_eq _
      | booth q => exact lang_eq q
  · refine (tab_get _ i).trans ?_
    change (s1.mix.clipped[i] || decide ((rawFloors (advanceRamps s1) x)[i] ≠ (floors (advanceRamps s1) x)[i])) = _
    rw [floors_get, raws]
    congr 1
    exact decide_not

end Sys2Proof.Machine
end
